-- ==== Sys2Proof/Word.lean ====
section
/-! DEFINITION. The word types of the LH-8 and their plainest arithmetic. -/

namespace Sys2Proof

/-- A 64-bit scalar register, address or control register (R12, R16). -/
abbrev Word := BitVec 64

/-- A byte of memory (R5). -/
abbrev Byte := BitVec 8

/-- The number of a scalar or vector register: all 32 field values are legal (R58). -/
abbrev Reg := BitVec 5

/-- The number of a mask register `m0`-`m15` (R58). -/
abbrev MReg := BitVec 4

/-- The number of a stream register `s0`-`s15` (R58). -/
abbrev SReg := BitVec 4

/-- The number of an operand slot `o0`-`o15` (R58). -/
abbrev OReg := BitVec 4

/-- The number of an accumulator tile `z0`-`z3` (R58). -/
abbrev ZReg := BitVec 2

end Sys2Proof
end

