-- ==== Sys2Proof/Config.lean ====
section
/-! DEFINITION. What the manual fixes for every module, what one implementation fixes, and the free values: opaque
constants, which no proof can see into. -/

namespace Sys2Proof.Config

/-- A free 64-bit value, by the number of free values drawn before (log entry 9). -/
opaque freeWord : Nat → BitVec 64

/-- A free vector register, by the number of free values drawn before (R24, R101; log entry 9). -/
opaque freeVec : Nat → BitVec 16384

/-- Cycles of stalls, waits and sleep since they were last counted (R97; log entry 8). -/
opaque stallCycles : Nat → Nat

/-- Whether the grace window of a request ends while an instruction runs, and then after how many of its units
(R253, R334; log entry 6). -/
opaque windowEnds : Nat → Option Nat

/-- Which entry a full TLB set gives up (R322; log entry 10). -/
opaque victim : Nat → Nat

/-- SHA-512 (R384-R386; log entry 13). -/
opaque sha512 : List (BitVec 8) → BitVec 512

/-- Whether an Ed25519 signature verifies: key, message, signature (R385; log entry 13). -/
opaque ed25519 : List (BitVec 8) → List (BitVec 8) → List (BitVec 8) → Bool

/-- Whether an ML-DSA-65 signature verifies: key, message, signature (R385; log entry 13). -/
opaque mldsa65 : List (BitVec 8) → List (BitVec 8) → List (BitVec 8) → Bool

/-- The Ed25519 signature by the device identity key, 64 bytes (R386; log entry 13). -/
opaque signE : List (BitVec 8) → BitVec 512

/-- The ML-DSA-65 signature by the device identity key, 3,309 bytes (R386; log entry 13). -/
opaque signM : List (BitVec 8) → BitVec 26472

/-- The transmit rate limit of a port that the configuration block of an image carries: image, port (R387; log entry
13). -/
opaque portRate : List (BitVec 8) → Nat → Nat

/-- The sources that the filter of a port admits, by the configuration block of an image: image, port (R387; log entry
13). -/
opaque sourceFilter : List (BitVec 8) → Nat → List Nat

/-- The form in which port rate limits, source filters and the two current ceilings are digested for `cfg`: limits,
filters, `fcap`, `fwcap` (R386; log entry 13). -/
opaque configBytes : List Nat → List (List Nat) → Nat → Nat → List (BitVec 8)

/-- The nonce of an unlock challenge (R388; log entry 13). -/
opaque challenge : Nat → BitVec 256

/-- The value of a query item (R350 gives no item codes; log entry 9): item, free values drawn before. -/
opaque queryValue : Nat → Nat → BitVec 64

/-- Whether a write in flight lands when its word is cut off by a reset: free values drawn before, word (R345, R391;
log entry 9). -/
opaque lands : Nat → Nat → Bool

/-- Which of several words of a burst is accessed next: free values drawn before (R181, R189; log entry 6). -/
opaque pick : Nat → Nat

/-- Whether a Bloom filter with these rows answers yes for another row: a false positive (R374; log entry 9). -/
opaque falsePositive : List Nat → Nat → Bool

/-- The rows that a base die measures for a filter at boot: free values drawn before, channel, whether 32 ms (R374; log
entry 9). -/
opaque weakRows : Nat → Nat → Bool → List Nat

end Sys2Proof.Config
end

