-- ==== Sys2Proof/Fields.lean ====
section
/-! DEFINITION. What the fields of an instruction hold beside register numbers: operand b of the vector forms, and
what the outside world or the service firmware supplies to the steps that are no words. -/

namespace Sys2Proof

/-- Operand b of the vector forms: a vector register, a stream register (`q` = 1), or a scalar register
broadcast to every element (fn bit 5 = 1) (R59, R61, R111). -/
inductive VOp where
  | vec (r : Reg)
  | str (s : SReg)
  | sca (r : Reg)
  deriving DecidableEq, Repr

/-- A Ramien request (R349): the connection and the source it comes from, the fields of its header, whether the rest of
the header and of the body is as R349 and R350 give it, and whether its sender is permitted for the partition (status
17). -/
structure Msg where
  conn : Nat
  src : Nat
  seq : Nat
  part : Nat
  ctx : Nat
  kind : Nat
  blen : Nat
  permitted : Bool
  wellFormed : Bool
  deriving DecidableEq, Repr

/-- Where a mapped page lies (R326): HBM4 of the module, a peer module, or host memory. -/
inductive Residency where
  | hbm (pa : Nat)
  | peer (addr : Nat)
  | host (addr : Nat)
  deriving DecidableEq, Repr

/-- Where a route leads (R354): a partition and context of a peer module, or the host. -/
inductive RouteTo where
  | peer (target part ctx : Nat)
  | host
  deriving DecidableEq, Repr

/-- The body of a map request (R350): a range of `count` pages of one size, a publishable region, the reset area, a route,
or more words for the log region of a context (R380). -/
inductive MapReq where
  | range (ia size count : Nat) (r w x : Bool) (res : Residency) (pinned : Bool)
  | region (n lo size visible shadow : Nat)
  | resetArea (addr : Nat)
  | route (n : Nat) (dest : RouteTo)
  | logRegion (base words : Nat)
  deriving DecidableEq, Repr

/-- The body of an unmap request (R350). -/
inductive UnmapReq where
  | range (ia size : Nat)
  | region (n : Nat)
  | resetArea
  | route (n : Nat)
  deriving DecidableEq, Repr

/-- The mode a context load may name (R378). -/
inductive LogMode where
  | plain
  | record
  | replay
  deriving DecidableEq, Repr

/-- What a context load says of the log (R378): the mode, and the words of HBM4 that are its region. -/
structure LogSetup where
  mode : LogMode
  base : Nat
  words : Nat
  deriving DecidableEq, Repr

/-- Aczar's answer to a stage-2 miss or permission failure (R325). -/
inductive S2Answer where
  | mapTo (size : Nat) (r w x : Bool) (res : Residency) (pinned : Bool)
  | refuse
  deriving DecidableEq, Repr

/-- What arrives from a peer for a fabric transfer: the source of its frames (R387), the route's partition and context, the
fields of the descriptor (R352), and the offset and bytes of this packet. -/
structure Packet where
  src : Nat
  part : Nat
  ctx : Nat
  rva : BitVec 64
  len : Nat
  vsz : Nat
  dl : Nat
  vmap : BitVec 64
  bar : BitVec 64
  off : Nat
  data : List (BitVec 8)
  deriving DecidableEq, Repr

/-- The outcome of one scrub read (R367, R368). -/
inductive Found where
  | clean
  | corrected
  | uncorrectable
  deriving DecidableEq, Repr

/-- The SRAM granules a scrub reads (R367, R369, R370), of 64 bits each: granule g of a vector register (bits 64g on, in
the slice of lane g / 4) or of a mask, a scalar register, a control register by its number, the stream buffer of a stream
register, the TLB entry of a 4 KiB page number in a cluster, 8 bytes of HBM4 in the L2, 8 bytes of a scratchpad, or another
shared part of a cluster: in unit 0 row n % 128 of operand slot
n / 128, in unit 1 entry n % 8192 of tile n / 8192, in unit 2 the row of rule n, in unit 3 the skein entry of
coordinate n. -/
inductive SramLoc where
  | lane (h r granule : Nat)
  | scalar (h r : Nat)
  | mask (h r granule : Nat)
  | control (h csr : Nat)
  | buffer (h r : Nat)
  | tlb (c page : Nat)
  | l2 (granule : Nat)
  | scratch (c granule : Nat)
  | shared (c unit granule : Nat)
  deriving DecidableEq, Repr

/-- What performs at its home (R182, R187): entry k of a class queue of the hart. -/
inductive HomeStep where
  | queued (cls : BitVec 4) (k : Nat)
  deriving DecidableEq, Repr

/-- What the controller does with a channel's refresh at a 3.9 microsecond boundary (R375). -/
inductive RefreshKind where
  | due
  | postpone
  | catchUp
  | pullIn
  deriving DecidableEq, Repr

/-- A debug unlock token (R388). -/
structure DebugToken where
  identity : BitVec 512
  nonce : BitVec 256
  sigE : BitVec 512
  sigM : List (BitVec 8)
  deriving DecidableEq, Repr

/-- The causes of an instruction fetch fault (R35). -/
inductive FetchCause where
  | pageFetch
  | perm
  | eccFatal
  deriving DecidableEq, Repr

end Sys2Proof
end

