-- ==== Sys2Proof/Syntax.lean ====
section
/-! DEFINITION. The instructions of the LH-8: one constructor for each row of the opcode table. The encoded
forms carry the fields of their words (R57, R58); the 65 steps that are no words carry what the outside
world or the service firmware decides about them. -/

namespace Sys2Proof


/-- The instructions and steps of the LH-8, in the order of the opcode table. -/
inductive Instr where
  /-- NOP (R93). -/
  | nop (w : BitVec 3)
  /-- JR (R89). -/
  | jr (w : BitVec 3) (a : Reg)
  /-- SVC (R104). -/
  | svc (w : BitVec 3) (code : BitVec 10)
  /-- TRET (R105). -/
  | tret (w : BitVec 3)
  /-- BRK (R104). -/
  | brk (w : BitVec 3) (code : BitVec 10)
  /-- HALT (R93). -/
  | halt (w : BitVec 3)
  /-- MFC (R94). -/
  | mfc (w : BitVec 3) (d : Reg) (csr : BitVec 10)
  /-- MTC (R94). -/
  | mtc (w : BitVec 3) (d : Reg) (csr : BitVec 10)
  /-- MTC_HCTL (R94). -/
  | mtcHctl (w : BitVec 3) (d : Reg)
  /-- MTC_VL (R94). -/
  | mtcVl (w : BitVec 3) (d : Reg)
  /-- MTC_VTYPE (R94). -/
  | mtcVtype (w : BitVec 3) (d : Reg)
  /-- MTC_ESTART (R20). -/
  | mtcEstart (w : BitVec 3) (d : Reg)
  /-- MTC_BSTP (R176). -/
  | mtcBstp (w : BitVec 3) (d : Reg)
  /-- FENCE_C (R95). -/
  | fenceC (w : BitVec 3) (a : Reg) (sc : BitVec 5)
  /-- FENCE_ALL (R95). -/
  | fenceAll (w : BitVec 3) (sc : BitVec 5)
  /-- WFE (R96). -/
  | wfe (w : BitVec 3) (d a b : Reg)
  /-- RDTIME (R97). -/
  | rdtime (w : BitVec 3) (d : Reg)
  /-- RDCYC (R97). -/
  | rdcyc (w : BitVec 3) (d : Reg)
  /-- CTX_SAVE (R342). -/
  | ctxSave (w : BitVec 3) (a : Reg)
  /-- CTX_LOAD (R342). -/
  | ctxLoad (w : BitVec 3) (a : Reg)
  /-- TLB_INV (R324). -/
  | tlbInv (w : BitVec 3) (a : Reg) (b : BitVec 5)
  /-- WAIT (R98). -/
  | wait (w : BitVec 3) (n : BitVec 5)
  /-- LANEMAP (R101). -/
  | lanemap (w : BitVec 3) (a : Reg)
  /-- ADD (R84). -/
  | add (w : BitVec 3) (d a b : Reg)
  /-- SUB (R84). -/
  | sub (w : BitVec 3) (d a b : Reg)
  /-- AND (R84). -/
  | and (w : BitVec 3) (d a b : Reg)
  /-- OR (R84). -/
  | or (w : BitVec 3) (d a b : Reg)
  /-- XOR (R84). -/
  | xor (w : BitVec 3) (d a b : Reg)
  /-- ANDN (R84). -/
  | andn (w : BitVec 3) (d a b : Reg)
  /-- SHL (R84). -/
  | shl (w : BitVec 3) (d a b : Reg)
  /-- SHR (R84). -/
  | shr (w : BitVec 3) (d a b : Reg)
  /-- SAR (R84). -/
  | sar (w : BitVec 3) (d a b : Reg)
  /-- ROL (R84). -/
  | rol (w : BitVec 3) (d a b : Reg)
  /-- SLT (R84). -/
  | slt (w : BitVec 3) (d a b : Reg)
  /-- SLTN (R84). -/
  | sltn (w : BitVec 3) (d a b : Reg)
  /-- MIN (R84). -/
  | min (w : BitVec 3) (d a b : Reg)
  /-- MAX (R84). -/
  | max (w : BitVec 3) (d a b : Reg)
  /-- MINN (R84). -/
  | minn (w : BitVec 3) (d a b : Reg)
  /-- MAXN (R84). -/
  | maxn (w : BitVec 3) (d a b : Reg)
  /-- MUL (R84). -/
  | mul (w : BitVec 3) (d a b : Reg)
  /-- MULH (R84). -/
  | mulh (w : BitVec 3) (d a b : Reg)
  /-- MULHN (R84). -/
  | mulhn (w : BitVec 3) (d a b : Reg)
  /-- DIV (R85). -/
  | div (w : BitVec 3) (d a b : Reg)
  /-- DIVN (R85). -/
  | divn (w : BitVec 3) (d a b : Reg)
  /-- REM (R85). -/
  | rem (w : BitVec 3) (d a b : Reg)
  /-- REMN (R85). -/
  | remn (w : BitVec 3) (d a b : Reg)
  /-- CLZ (R84). -/
  | clz (w : BitVec 3) (d a : Reg)
  /-- CTZ (R84). -/
  | ctz (w : BitVec 3) (d a : Reg)
  /-- POPC (R84). -/
  | popc (w : BitVec 3) (d a : Reg)
  /-- SEXT (R84). -/
  | sext (w : BitVec 3) (d a : Reg) (k : BitVec 5)
  /-- ZEXT (R84). -/
  | zext (w : BitVec 3) (d a : Reg) (k : BitVec 5)
  /-- ADDI (R86). -/
  | addi (w : BitVec 3) (d a : Reg) (imm : BitVec 12)
  /-- ANDI (R86). -/
  | andi (w : BitVec 3) (d a : Reg) (imm : BitVec 12)
  /-- ORI (R86). -/
  | ori (w : BitVec 3) (d a : Reg) (imm : BitVec 12)
  /-- XORI (R86). -/
  | xori (w : BitVec 3) (d a : Reg) (imm : BitVec 12)
  /-- SHLI (R86). -/
  | shli (w : BitVec 3) (d a : Reg) (sh : BitVec 6)
  /-- SHRI (R86). -/
  | shri (w : BitVec 3) (d a : Reg) (sh : BitVec 6)
  /-- SARI (R86). -/
  | sari (w : BitVec 3) (d a : Reg) (sh : BitVec 6)
  /-- LDK (R87). -/
  | ldk (w : BitVec 3) (d : Reg) (k : BitVec 5) (imm : BitVec 12)
  /-- BEQ (R88). -/
  | beq (w : BitVec 3) (a b : Reg) (off : BitVec 12)
  /-- BNE (R88). -/
  | bne (w : BitVec 3) (a b : Reg) (off : BitVec 12)
  /-- BLT (R88). -/
  | blt (w : BitVec 3) (a b : Reg) (off : BitVec 12)
  /-- BGE (R88). -/
  | bge (w : BitVec 3) (a b : Reg) (off : BitVec 12)
  /-- BLTN (R88). -/
  | bltn (w : BitVec 3) (a b : Reg) (off : BitVec 12)
  /-- BGEN (R88). -/
  | bgen (w : BitVec 3) (a b : Reg) (off : BitVec 12)
  /-- SSB (R88). -/
  | ssb (w : BitVec 3) (a b : Reg) (off : BitVec 12)
  /-- JAL (R88). -/
  | jal (w : BitVec 3) (d : Reg) (off : BitVec 17)
  /-- LD_B (R91). -/
  | ldB (w : BitVec 3) (d a b : Reg) (c : BitVec 4)
  /-- LD_H (R91). -/
  | ldH (w : BitVec 3) (d a b : Reg) (c : BitVec 4)
  /-- LD_W (R91). -/
  | ldW (w : BitVec 3) (d a b : Reg) (c : BitVec 4)
  /-- LD_D (R91). -/
  | ldD (w : BitVec 3) (d a b : Reg) (c : BitVec 4)
  /-- ST_B (R91). -/
  | stB (w : BitVec 3) (d a b : Reg) (c : BitVec 4)
  /-- ST_H (R91). -/
  | stH (w : BitVec 3) (d a b : Reg) (c : BitVec 4)
  /-- ST_W (R91). -/
  | stW (w : BitVec 3) (d a b : Reg) (c : BitVec 4)
  /-- ST_D (R91). -/
  | stD (w : BitVec 3) (d a b : Reg) (c : BitVec 4)
  /-- LD_E_ADD (R149). -/
  | ldEAdd (w : BitVec 3) (d a b : Reg) (c : BitVec 4)
  /-- LD_E_FADD (R149). -/
  | ldEFadd (w : BitVec 3) (d a b : Reg) (c : BitVec 4)
  /-- LD_E_MIN (R149). -/
  | ldEMin (w : BitVec 3) (d a b : Reg) (c : BitVec 4)
  /-- LD_E_MAX (R149). -/
  | ldEMax (w : BitVec 3) (d a b : Reg) (c : BitVec 4)
  /-- LD_E_MINN (R149). -/
  | ldEMinn (w : BitVec 3) (d a b : Reg) (c : BitVec 4)
  /-- LD_E_MAXN (R149). -/
  | ldEMaxn (w : BitVec 3) (d a b : Reg) (c : BitVec 4)
  /-- LD_E_AND (R149). -/
  | ldEAnd (w : BitVec 3) (d a b : Reg) (c : BitVec 4)
  /-- LD_E_OR (R149). -/
  | ldEOr (w : BitVec 3) (d a b : Reg) (c : BitVec 4)
  /-- LD_E_XOR (R149). -/
  | ldEXor (w : BitVec 3) (d a b : Reg) (c : BitVec 4)
  /-- ST_E (R150). -/
  | stE (w : BitVec 3) (d a b : Reg) (c : BitVec 4)
  /-- AMO_E_ADD (R151). -/
  | amoEAdd (w : BitVec 3) (d a b : Reg) (c : BitVec 4)
  /-- AMO_E_OR (R151). -/
  | amoEOr (w : BitVec 3) (d a b : Reg) (c : BitVec 4)
  /-- AMO_E_AND (R151). -/
  | amoEAnd (w : BitVec 3) (d a b : Reg) (c : BitVec 4)
  /-- AMO_E_MAX (R151). -/
  | amoEMax (w : BitVec 3) (d a b : Reg) (c : BitVec 4)
  /-- AMO_ADD_CL (R155). -/
  | amoAddCl (w : BitVec 3) (d a b : Reg) (c : BitVec 4)
  /-- AMO_ADD_SL (R155). -/
  | amoAddSl (w : BitVec 3) (d a b : Reg) (c : BitVec 4)
  /-- AMO_ADD_ST (R155). -/
  | amoAddSt (w : BitVec 3) (d a b : Reg) (c : BitVec 4)
  /-- AMO_ADD_MO (R155). -/
  | amoAddMo (w : BitVec 3) (d a b : Reg) (c : BitVec 4)
  /-- AMO_ADD_PO (R155). -/
  | amoAddPo (w : BitVec 3) (d a b : Reg) (c : BitVec 4)
  /-- AMO_ADD_SY (R155). -/
  | amoAddSy (w : BitVec 3) (d a b : Reg) (c : BitVec 4)
  /-- AMO_FADD_CL (R155). -/
  | amoFaddCl (w : BitVec 3) (d a b : Reg) (c : BitVec 4)
  /-- AMO_FADD_SL (R155). -/
  | amoFaddSl (w : BitVec 3) (d a b : Reg) (c : BitVec 4)
  /-- AMO_FADD_ST (R155). -/
  | amoFaddSt (w : BitVec 3) (d a b : Reg) (c : BitVec 4)
  /-- AMO_FADD_MO (R155). -/
  | amoFaddMo (w : BitVec 3) (d a b : Reg) (c : BitVec 4)
  /-- AMO_FADD_PO (R155). -/
  | amoFaddPo (w : BitVec 3) (d a b : Reg) (c : BitVec 4)
  /-- AMO_FADD_SY (R155). -/
  | amoFaddSy (w : BitVec 3) (d a b : Reg) (c : BitVec 4)
  /-- AMO_MIN_CL (R155). -/
  | amoMinCl (w : BitVec 3) (d a b : Reg) (c : BitVec 4)
  /-- AMO_MIN_SL (R155). -/
  | amoMinSl (w : BitVec 3) (d a b : Reg) (c : BitVec 4)
  /-- AMO_MIN_ST (R155). -/
  | amoMinSt (w : BitVec 3) (d a b : Reg) (c : BitVec 4)
  /-- AMO_MIN_MO (R155). -/
  | amoMinMo (w : BitVec 3) (d a b : Reg) (c : BitVec 4)
  /-- AMO_MIN_PO (R155). -/
  | amoMinPo (w : BitVec 3) (d a b : Reg) (c : BitVec 4)
  /-- AMO_MIN_SY (R155). -/
  | amoMinSy (w : BitVec 3) (d a b : Reg) (c : BitVec 4)
  /-- AMO_MAX_CL (R155). -/
  | amoMaxCl (w : BitVec 3) (d a b : Reg) (c : BitVec 4)
  /-- AMO_MAX_SL (R155). -/
  | amoMaxSl (w : BitVec 3) (d a b : Reg) (c : BitVec 4)
  /-- AMO_MAX_ST (R155). -/
  | amoMaxSt (w : BitVec 3) (d a b : Reg) (c : BitVec 4)
  /-- AMO_MAX_MO (R155). -/
  | amoMaxMo (w : BitVec 3) (d a b : Reg) (c : BitVec 4)
  /-- AMO_MAX_PO (R155). -/
  | amoMaxPo (w : BitVec 3) (d a b : Reg) (c : BitVec 4)
  /-- AMO_MAX_SY (R155). -/
  | amoMaxSy (w : BitVec 3) (d a b : Reg) (c : BitVec 4)
  /-- AMO_AND_CL (R155). -/
  | amoAndCl (w : BitVec 3) (d a b : Reg) (c : BitVec 4)
  /-- AMO_AND_SL (R155). -/
  | amoAndSl (w : BitVec 3) (d a b : Reg) (c : BitVec 4)
  /-- AMO_AND_ST (R155). -/
  | amoAndSt (w : BitVec 3) (d a b : Reg) (c : BitVec 4)
  /-- AMO_AND_MO (R155). -/
  | amoAndMo (w : BitVec 3) (d a b : Reg) (c : BitVec 4)
  /-- AMO_AND_PO (R155). -/
  | amoAndPo (w : BitVec 3) (d a b : Reg) (c : BitVec 4)
  /-- AMO_AND_SY (R155). -/
  | amoAndSy (w : BitVec 3) (d a b : Reg) (c : BitVec 4)
  /-- AMO_OR_CL (R155). -/
  | amoOrCl (w : BitVec 3) (d a b : Reg) (c : BitVec 4)
  /-- AMO_OR_SL (R155). -/
  | amoOrSl (w : BitVec 3) (d a b : Reg) (c : BitVec 4)
  /-- AMO_OR_ST (R155). -/
  | amoOrSt (w : BitVec 3) (d a b : Reg) (c : BitVec 4)
  /-- AMO_OR_MO (R155). -/
  | amoOrMo (w : BitVec 3) (d a b : Reg) (c : BitVec 4)
  /-- AMO_OR_PO (R155). -/
  | amoOrPo (w : BitVec 3) (d a b : Reg) (c : BitVec 4)
  /-- AMO_OR_SY (R155). -/
  | amoOrSy (w : BitVec 3) (d a b : Reg) (c : BitVec 4)
  /-- AMO_SWAP_CL (R155). -/
  | amoSwapCl (w : BitVec 3) (d a b : Reg) (c : BitVec 4)
  /-- AMO_SWAP_SL (R155). -/
  | amoSwapSl (w : BitVec 3) (d a b : Reg) (c : BitVec 4)
  /-- AMO_SWAP_ST (R155). -/
  | amoSwapSt (w : BitVec 3) (d a b : Reg) (c : BitVec 4)
  /-- AMO_SWAP_MO (R155). -/
  | amoSwapMo (w : BitVec 3) (d a b : Reg) (c : BitVec 4)
  /-- AMO_SWAP_PO (R155). -/
  | amoSwapPo (w : BitVec 3) (d a b : Reg) (c : BitVec 4)
  /-- AMO_SWAP_SY (R155). -/
  | amoSwapSy (w : BitVec 3) (d a b : Reg) (c : BitVec 4)
  /-- AMO_CAS_CL (R155). -/
  | amoCasCl (w : BitVec 3) (d a b : Reg) (c : BitVec 4)
  /-- AMO_CAS_SL (R155). -/
  | amoCasSl (w : BitVec 3) (d a b : Reg) (c : BitVec 4)
  /-- AMO_CAS_ST (R155). -/
  | amoCasSt (w : BitVec 3) (d a b : Reg) (c : BitVec 4)
  /-- AMO_CAS_MO (R155). -/
  | amoCasMo (w : BitVec 3) (d a b : Reg) (c : BitVec 4)
  /-- AMO_CAS_PO (R155). -/
  | amoCasPo (w : BitVec 3) (d a b : Reg) (c : BitVec 4)
  /-- AMO_CAS_SY (R155). -/
  | amoCasSy (w : BitVec 3) (d a b : Reg) (c : BitVec 4)
  /-- VLD_E_ADD (R149). -/
  | vldEAdd (w : BitVec 3) (d a b : Reg) (c : BitVec 4)
  /-- VLD_E_FADD (R149). -/
  | vldEFadd (w : BitVec 3) (d a b : Reg) (c : BitVec 4)
  /-- VLD_E_MIN (R149). -/
  | vldEMin (w : BitVec 3) (d a b : Reg) (c : BitVec 4)
  /-- VLD_E_MAX (R149). -/
  | vldEMax (w : BitVec 3) (d a b : Reg) (c : BitVec 4)
  /-- VLD_E_MINN (R149). -/
  | vldEMinn (w : BitVec 3) (d a b : Reg) (c : BitVec 4)
  /-- VLD_E_MAXN (R149). -/
  | vldEMaxn (w : BitVec 3) (d a b : Reg) (c : BitVec 4)
  /-- VLD_E_AND (R149). -/
  | vldEAnd (w : BitVec 3) (d a b : Reg) (c : BitVec 4)
  /-- VLD_E_OR (R149). -/
  | vldEOr (w : BitVec 3) (d a b : Reg) (c : BitVec 4)
  /-- VLD_E_XOR (R149). -/
  | vldEXor (w : BitVec 3) (d a b : Reg) (c : BitVec 4)
  /-- VST_E (R150). -/
  | vstE (w : BitVec 3) (d a b : Reg) (c : BitVec 4)
  /-- VAMO_ADD_CL (R156). -/
  | vamoAddCl (w : BitVec 3) (d a b : Reg) (c : BitVec 4)
  /-- VAMO_ADD_SL (R156). -/
  | vamoAddSl (w : BitVec 3) (d a b : Reg) (c : BitVec 4)
  /-- VAMO_ADD_ST (R156). -/
  | vamoAddSt (w : BitVec 3) (d a b : Reg) (c : BitVec 4)
  /-- VAMO_ADD_MO (R156). -/
  | vamoAddMo (w : BitVec 3) (d a b : Reg) (c : BitVec 4)
  /-- VAMO_ADD_PO (R156). -/
  | vamoAddPo (w : BitVec 3) (d a b : Reg) (c : BitVec 4)
  /-- VAMO_ADD_SY (R156). -/
  | vamoAddSy (w : BitVec 3) (d a b : Reg) (c : BitVec 4)
  /-- VAMO_FADD_CL (R156). -/
  | vamoFaddCl (w : BitVec 3) (d a b : Reg) (c : BitVec 4)
  /-- VAMO_FADD_SL (R156). -/
  | vamoFaddSl (w : BitVec 3) (d a b : Reg) (c : BitVec 4)
  /-- VAMO_FADD_ST (R156). -/
  | vamoFaddSt (w : BitVec 3) (d a b : Reg) (c : BitVec 4)
  /-- VAMO_FADD_MO (R156). -/
  | vamoFaddMo (w : BitVec 3) (d a b : Reg) (c : BitVec 4)
  /-- VAMO_FADD_PO (R156). -/
  | vamoFaddPo (w : BitVec 3) (d a b : Reg) (c : BitVec 4)
  /-- VAMO_FADD_SY (R156). -/
  | vamoFaddSy (w : BitVec 3) (d a b : Reg) (c : BitVec 4)
  /-- VAMO_MIN_CL (R156). -/
  | vamoMinCl (w : BitVec 3) (d a b : Reg) (c : BitVec 4)
  /-- VAMO_MIN_SL (R156). -/
  | vamoMinSl (w : BitVec 3) (d a b : Reg) (c : BitVec 4)
  /-- VAMO_MIN_ST (R156). -/
  | vamoMinSt (w : BitVec 3) (d a b : Reg) (c : BitVec 4)
  /-- VAMO_MIN_MO (R156). -/
  | vamoMinMo (w : BitVec 3) (d a b : Reg) (c : BitVec 4)
  /-- VAMO_MIN_PO (R156). -/
  | vamoMinPo (w : BitVec 3) (d a b : Reg) (c : BitVec 4)
  /-- VAMO_MIN_SY (R156). -/
  | vamoMinSy (w : BitVec 3) (d a b : Reg) (c : BitVec 4)
  /-- VAMO_MAX_CL (R156). -/
  | vamoMaxCl (w : BitVec 3) (d a b : Reg) (c : BitVec 4)
  /-- VAMO_MAX_SL (R156). -/
  | vamoMaxSl (w : BitVec 3) (d a b : Reg) (c : BitVec 4)
  /-- VAMO_MAX_ST (R156). -/
  | vamoMaxSt (w : BitVec 3) (d a b : Reg) (c : BitVec 4)
  /-- VAMO_MAX_MO (R156). -/
  | vamoMaxMo (w : BitVec 3) (d a b : Reg) (c : BitVec 4)
  /-- VAMO_MAX_PO (R156). -/
  | vamoMaxPo (w : BitVec 3) (d a b : Reg) (c : BitVec 4)
  /-- VAMO_MAX_SY (R156). -/
  | vamoMaxSy (w : BitVec 3) (d a b : Reg) (c : BitVec 4)
  /-- VAMO_AND_CL (R156). -/
  | vamoAndCl (w : BitVec 3) (d a b : Reg) (c : BitVec 4)
  /-- VAMO_AND_SL (R156). -/
  | vamoAndSl (w : BitVec 3) (d a b : Reg) (c : BitVec 4)
  /-- VAMO_AND_ST (R156). -/
  | vamoAndSt (w : BitVec 3) (d a b : Reg) (c : BitVec 4)
  /-- VAMO_AND_MO (R156). -/
  | vamoAndMo (w : BitVec 3) (d a b : Reg) (c : BitVec 4)
  /-- VAMO_AND_PO (R156). -/
  | vamoAndPo (w : BitVec 3) (d a b : Reg) (c : BitVec 4)
  /-- VAMO_AND_SY (R156). -/
  | vamoAndSy (w : BitVec 3) (d a b : Reg) (c : BitVec 4)
  /-- VAMO_OR_CL (R156). -/
  | vamoOrCl (w : BitVec 3) (d a b : Reg) (c : BitVec 4)
  /-- VAMO_OR_SL (R156). -/
  | vamoOrSl (w : BitVec 3) (d a b : Reg) (c : BitVec 4)
  /-- VAMO_OR_ST (R156). -/
  | vamoOrSt (w : BitVec 3) (d a b : Reg) (c : BitVec 4)
  /-- VAMO_OR_MO (R156). -/
  | vamoOrMo (w : BitVec 3) (d a b : Reg) (c : BitVec 4)
  /-- VAMO_OR_PO (R156). -/
  | vamoOrPo (w : BitVec 3) (d a b : Reg) (c : BitVec 4)
  /-- VAMO_OR_SY (R156). -/
  | vamoOrSy (w : BitVec 3) (d a b : Reg) (c : BitVec 4)
  /-- VAMO_RETRY (R157). -/
  | vamoRetry (w : BitVec 3) (d a b : Reg) (c : BitVec 4)
  /-- SETVL (R108). -/
  | setvl (w : BitVec 3) (d a b : Reg)
  /-- MAND (R117). -/
  | mand (w : BitVec 3) (d a b : MReg) (p : BitVec 3)
  /-- MOR (R117). -/
  | mor (w : BitVec 3) (d a b : MReg) (p : BitVec 3)
  /-- MXOR (R117). -/
  | mxor (w : BitVec 3) (d a b : MReg) (p : BitVec 3)
  /-- MANDN (R117). -/
  | mandn (w : BitVec 3) (d a b : MReg) (p : BitVec 3)
  /-- MNOT (R117). -/
  | mnot (w : BitVec 3) (d a : MReg) (p : BitVec 3)
  /-- MSHL (R117). -/
  | mshl (w : BitVec 3) (d a : MReg) (b : Reg)
  /-- MSHR (R117). -/
  | mshr (w : BitVec 3) (d a : MReg) (b : Reg)
  /-- MPOP (R117). -/
  | mpop (w : BitVec 3) (d : Reg) (a : MReg) (p : BitVec 3)
  /-- MFIRST (R117). -/
  | mfirst (w : BitVec 3) (d : Reg) (a : MReg) (p : BitVec 3)
  /-- MGET (R117). -/
  | mget (w : BitVec 3) (d : MReg) (p : BitVec 3)
  /-- MPUT (R117). -/
  | mput (w : BitVec 3) (d : MReg) (a b : Reg)
  /-- MSET (R117). -/
  | mset (w : BitVec 3) (d : MReg) (p : BitVec 3)
  /-- MCLR (R117). -/
  | mclr (w : BitVec 3) (d : MReg) (p : BitVec 3)
  /-- VADD (R118). -/
  | vadd (w : BitVec 3) (d a : Reg) (b : VOp) (p : BitVec 3)
  /-- VSUB (R118). -/
  | vsub (w : BitVec 3) (d a : Reg) (b : VOp) (p : BitVec 3)
  /-- VADC (R119). -/
  | vadc (w : BitVec 3) (d a : Reg) (b : VOp) (k : BitVec 3)
  /-- VSBC (R119). -/
  | vsbc (w : BitVec 3) (d a : Reg) (b : VOp) (k : BitVec 3)
  /-- VMUL (R118). -/
  | vmul (w : BitVec 3) (d a : Reg) (b : VOp) (p : BitVec 3)
  /-- VMULH (R118). -/
  | vmulh (w : BitVec 3) (d a : Reg) (b : VOp) (p : BitVec 3)
  /-- VMULHN (R118). -/
  | vmulhn (w : BitVec 3) (d a : Reg) (b : VOp) (p : BitVec 3)
  /-- VMACC (R118). -/
  | vmacc (w : BitVec 3) (d a : Reg) (b : VOp) (p : BitVec 3)
  /-- VAND (R118). -/
  | vand (w : BitVec 3) (d a : Reg) (b : VOp) (p : BitVec 3)
  /-- VOR (R118). -/
  | vor (w : BitVec 3) (d a : Reg) (b : VOp) (p : BitVec 3)
  /-- VXOR (R118). -/
  | vxor (w : BitVec 3) (d a : Reg) (b : VOp) (p : BitVec 3)
  /-- VSHL (R118). -/
  | vshl (w : BitVec 3) (d a : Reg) (b : VOp) (p : BitVec 3)
  /-- VSHR (R118). -/
  | vshr (w : BitVec 3) (d a : Reg) (b : VOp) (p : BitVec 3)
  /-- VSAR (R118). -/
  | vsar (w : BitVec 3) (d a : Reg) (b : VOp) (p : BitVec 3)
  /-- VMIN (R118). -/
  | vmin (w : BitVec 3) (d a : Reg) (b : VOp) (p : BitVec 3)
  /-- VMAX (R118). -/
  | vmax (w : BitVec 3) (d a : Reg) (b : VOp) (p : BitVec 3)
  /-- VMINN (R118). -/
  | vminn (w : BitVec 3) (d a : Reg) (b : VOp) (p : BitVec 3)
  /-- VMAXN (R118). -/
  | vmaxn (w : BitVec 3) (d a : Reg) (b : VOp) (p : BitVec 3)
  /-- VCEQ (R118). -/
  | vceq (w : BitVec 3) (d : MReg) (a : Reg) (b : VOp) (p : BitVec 3)
  /-- VCNE (R118). -/
  | vcne (w : BitVec 3) (d : MReg) (a : Reg) (b : VOp) (p : BitVec 3)
  /-- VCLT (R118). -/
  | vclt (w : BitVec 3) (d : MReg) (a : Reg) (b : VOp) (p : BitVec 3)
  /-- VCLE (R118). -/
  | vcle (w : BitVec 3) (d : MReg) (a : Reg) (b : VOp) (p : BitVec 3)
  /-- VCLTN (R118). -/
  | vcltn (w : BitVec 3) (d : MReg) (a : Reg) (b : VOp) (p : BitVec 3)
  /-- VCLEN (R118). -/
  | vclen (w : BitVec 3) (d : MReg) (a : Reg) (b : VOp) (p : BitVec 3)
  /-- VSEL (R118). -/
  | vsel (w : BitVec 3) (d a : Reg) (b : VOp) (p : BitVec 3)
  /-- VABSD (R118). -/
  | vabsd (w : BitVec 3) (d a : Reg) (b : VOp) (p : BitVec 3)
  /-- VSADD (R118). -/
  | vsadd (w : BitVec 3) (d a : Reg) (b : VOp) (p : BitVec 3)
  /-- VSSUB (R118). -/
  | vssub (w : BitVec 3) (d a : Reg) (b : VOp) (p : BitVec 3)
  /-- VGEN (R118). -/
  | vgen (w : BitVec 3) (d : MReg) (a : Reg) (b : VOp) (p : BitVec 3)
  /-- VMOV (R118). -/
  | vmov (w : BitVec 3) (d : Reg) (b : VOp) (p : BitVec 3)
  /-- VFADD (R120). -/
  | vfadd (w : BitVec 3) (d a : Reg) (b : VOp) (p : BitVec 3)
  /-- VFSUB (R120). -/
  | vfsub (w : BitVec 3) (d a : Reg) (b : VOp) (p : BitVec 3)
  /-- VFMUL (R120). -/
  | vfmul (w : BitVec 3) (d a : Reg) (b : VOp) (p : BitVec 3)
  /-- VFMA (R120). -/
  | vfma (w : BitVec 3) (d a : Reg) (b : VOp) (p : BitVec 3)
  /-- VFMS (R120). -/
  | vfms (w : BitVec 3) (d a : Reg) (b : VOp) (p : BitVec 3)
  /-- VFNMA (R120). -/
  | vfnma (w : BitVec 3) (d a : Reg) (b : VOp) (p : BitVec 3)
  /-- VFDIV (R120). -/
  | vfdiv (w : BitVec 3) (d a : Reg) (b : VOp) (p : BitVec 3)
  /-- VFSQRT (R120). -/
  | vfsqrt (w : BitVec 3) (d : Reg) (b : VOp) (p : BitVec 3)
  /-- VFMIN (R121). -/
  | vfmin (w : BitVec 3) (d a : Reg) (b : VOp) (p : BitVec 3)
  /-- VFMAX (R121). -/
  | vfmax (w : BitVec 3) (d a : Reg) (b : VOp) (p : BitVec 3)
  /-- VFCEQ (R121). -/
  | vfceq (w : BitVec 3) (d : MReg) (a : Reg) (b : VOp) (p : BitVec 3)
  /-- VFCLT (R121). -/
  | vfclt (w : BitVec 3) (d : MReg) (a : Reg) (b : VOp) (p : BitVec 3)
  /-- VFCLE (R121). -/
  | vfcle (w : BitVec 3) (d : MReg) (a : Reg) (b : VOp) (p : BitVec 3)
  /-- VFCUN (R121). -/
  | vfcun (w : BitVec 3) (d : MReg) (a : Reg) (b : VOp) (p : BitVec 3)
  /-- VFABS (R120). -/
  | vfabs (w : BitVec 3) (d : Reg) (b : VOp) (p : BitVec 3)
  /-- VFNEG (R120). -/
  | vfneg (w : BitVec 3) (d : Reg) (b : VOp) (p : BitVec 3)
  /-- VFSGN (R120). -/
  | vfsgn (w : BitVec 3) (d a : Reg) (b : VOp) (p : BitVec 3)
  /-- VFRECP (R122). -/
  | vfrecp (w : BitVec 3) (d : Reg) (b : VOp) (p : BitVec 3)
  /-- VFRSQE (R122). -/
  | vfrsqe (w : BitVec 3) (d : Reg) (b : VOp) (p : BitVec 3)
  /-- VFCLASS (R123). -/
  | vfclass (w : BitVec 3) (d : Reg) (b : VOp) (p : BitVec 3)
  /-- VFSCAL (R120). -/
  | vfscal (w : BitVec 3) (d a : Reg) (b : VOp) (p : BitVec 3)
  /-- VLD (R140). -/
  | vld (w : BitVec 3) (d a b : Reg) (c : BitVec 4) (p : BitVec 3)
  /-- VLDS (R140). -/
  | vlds (w : BitVec 3) (d a b : Reg) (c : BitVec 4) (p : BitVec 3)
  /-- VLDX (R140). -/
  | vldx (w : BitVec 3) (d a b : Reg) (c : BitVec 4) (p : BitVec 3)
  /-- VST (R141). -/
  | vst (w : BitVec 3) (d a b : Reg) (c : BitVec 4) (p : BitVec 3)
  /-- VSTS (R141). -/
  | vsts (w : BitVec 3) (d a b : Reg) (c : BitVec 4) (p : BitVec 3)
  /-- VSTX (R141). -/
  | vstx (w : BitVec 3) (d a b : Reg) (c : BitVec 4) (p : BitVec 3)
  /-- VLDQ (R145). -/
  | vldq (w : BitVec 3) (d a b : Reg) (c : BitVec 4)
  /-- VSTQ (R146). -/
  | vstq (w : BitVec 3) (d a b : Reg) (c : BitVec 4)
  /-- VXCH (R125). -/
  | vxch (w : BitVec 3) (d a b : Reg) (p : BitVec 3)
  /-- VSLUP (R125). -/
  | vslup (w : BitVec 3) (d a b : Reg) (p : BitVec 3)
  /-- VSLDN (R125). -/
  | vsldn (w : BitVec 3) (d a b : Reg) (p : BitVec 3)
  /-- VPERM (R125). -/
  | vperm (w : BitVec 3) (d a : Reg) (b : VOp) (p : BitVec 3)
  /-- VCMPR (R126). -/
  | vcmpr (w : BitVec 3) (d a : Reg) (p : BitVec 3)
  /-- VEXPD (R126). -/
  | vexpd (w : BitVec 3) (d a : Reg) (p : BitVec 3)
  /-- VRANK (R126). -/
  | vrank (w : BitVec 3) (d : Reg) (p : BitVec 3)
  /-- VREDSUM (R132). -/
  | vredsum (w : BitVec 3) (d a : Reg) (p : BitVec 3)
  /-- VREDMIN (R132). -/
  | vredmin (w : BitVec 3) (d a : Reg) (p : BitVec 3)
  /-- VREDMAX (R132). -/
  | vredmax (w : BitVec 3) (d a : Reg) (p : BitVec 3)
  /-- VREDAND (R132). -/
  | vredand (w : BitVec 3) (d a : Reg) (p : BitVec 3)
  /-- VREDOR (R132). -/
  | vredor (w : BitVec 3) (d a : Reg) (p : BitVec 3)
  /-- VFREDSUM (R133). -/
  | vfredsum (w : BitVec 3) (d a : Reg) (p : BitVec 3)
  /-- VFREDMIN (R133). -/
  | vfredmin (w : BitVec 3) (d a : Reg) (p : BitVec 3)
  /-- VFREDMAX (R133). -/
  | vfredmax (w : BitVec 3) (d a : Reg) (p : BitVec 3)
  /-- VFDOT (R133). -/
  | vfdot (w : BitVec 3) (d a : Reg) (b : VOp) (p : BitVec 3)
  /-- VCVT (R130). -/
  | vcvt (w : BitVec 3) (d a b : Reg) (p : BitVec 3)
  /-- VEXT (R127). -/
  | vext (w : BitVec 3) (d a b : Reg)
  /-- VINS (R127). -/
  | vins (w : BitVec 3) (d a b : Reg)
  /-- VVACC (R134). -/
  | vvacc (w : BitVec 3) (d a : Reg) (b : MReg) (p : BitVec 3)
  /-- VRESCL (R135). -/
  | vrescl (w : BitVec 3) (d a b : Reg) (p : BitVec 3)
  /-- SP_OPEN (R203). -/
  | spOpen (w : BitVec 3) (d : SReg) (a b : Reg)
  /-- SP_BIND (R204). -/
  | spBind (w : BitVec 3) (d : SReg) (a b : Reg)
  /-- SP_GATH (R205). -/
  | spGath (w : BitVec 3) (d : SReg) (a : Reg) (b : SReg)
  /-- SP_ISECT (R206). -/
  | spIsect (w : BitVec 3) (d a b : SReg)
  /-- SP_UNION (R206). -/
  | spUnion (w : BitVec 3) (d a b : SReg) (k : BitVec 3)
  /-- SP_SKIP (R210). -/
  | spSkip (w : BitVec 3) (d : SReg) (a : Reg)
  /-- SP_CRD (R211). -/
  | spCrd (w : BitVec 3) (d : Reg) (a : SReg) (p : BitVec 3)
  /-- SP_POS (R211). -/
  | spPos (w : BitVec 3) (d : Reg) (a : SReg) (p : BitVec 3)
  /-- SP_TAKE (R212). -/
  | spTake (w : BitVec 3) (d : Reg) (a : SReg) (b : Reg)
  /-- SP_SAVE (R213). -/
  | spSave (w : BitVec 3) (d : SReg) (a : Reg)
  /-- SP_REST (R214). -/
  | spRest (w : BitVec 3) (d : SReg) (a : Reg)
  /-- SP_CLOSE (R214). -/
  | spClose (w : BitVec 3) (d : SReg)
  /-- CX_ACC (R218). -/
  | cxAcc (w : BitVec 3) (d : MReg) (a : Reg) (b : VOp) (p : BitVec 3)
  /-- CX_GET (R219). -/
  | cxGet (w : BitVec 3) (d a : Reg) (b : MReg) (p : BitVec 3)
  /-- CX_DRAIN (R220). -/
  | cxDrain (w : BitVec 3) (d : SReg)
  /-- CX_CLR (R217). -/
  | cxClr (w : BitVec 3)
  /-- VPRUNE (R222). -/
  | vprune (w : BitVec 3) (d a b : Reg) (p : BitVec 3)
  /-- GRM_BIND (R250). -/
  | grmBind (w : BitVec 3) (a : Reg)
  /-- GRM_EVAL (R251). -/
  | grmEval (w : BitVec 3) (a b : Reg)
  /-- GRM_OUT (R254). -/
  | grmOut (w : BitVec 3) (d a b : Reg) (p : BitVec 3)
  /-- MX_CLAIM (R227). -/
  | mxClaim (w : BitVec 3) (d a : Reg)
  /-- MX_REL (R228). -/
  | mxRel (w : BitVec 3) (a : Reg)
  /-- MX_ZERO (R241). -/
  | mxZero (w : BitVec 3) (a : Reg)
  /-- MX_MM (R234). -/
  | mxMm (w : BitVec 3) (d : ZReg) (a b : OReg)
  /-- MX_MMS (R236). -/
  | mxMms (w : BitVec 3) (d : ZReg) (a b : OReg) (k : BitVec 3)
  /-- MX_CFG (R229). -/
  | mxCfg (w : BitVec 3) (a : Reg)
  /-- MX_COOP (R244). -/
  | mxCoop (w : BitVec 3) (a : Reg)
  /-- MX_WAIT (R239). -/
  | mxWait (w : BitVec 3)
  /-- MX_CVT (R242). -/
  | mxCvt (w : BitVec 3) (a : Reg)
  /-- VTO (R232). -/
  | vto (w : BitVec 3) (d : OReg) (a b : Reg) (p : BitVec 3)
  /-- VFROM (R243). -/
  | vfrom (w : BitVec 3) (d : Reg) (a : ZReg) (b : Reg) (p : BitVec 3)
  /-- FORK (R258). -/
  | fork (w : BitVec 3) (a b : Reg)
  /-- RDV (R259). -/
  | rdv (w : BitVec 3) (a : Reg)
  /-- DMA_SG (R267). -/
  | dmaSg (w : BitVec 3) (d a : Reg) (ch : BitVec 3)
  /-- DMA_LAY (R268). -/
  | dmaLay (w : BitVec 3) (d a b : Reg) (ch : BitVec 3)
  /-- DMA_WAIT (R264). -/
  | dmaWait (w : BitVec 3) (a : Reg) (ch : BitVec 3)
  /-- DMA_ST (R263). -/
  | dmaSt (w : BitVec 3) (d a : Reg) (ch : BitVec 3)
  /-- PUB (R273). -/
  | pub (w : BitVec 3) (a : Reg)
  /-- BAR_INIT (R275). -/
  | barInit (w : BitVec 3) (a b : Reg)
  /-- BAR_ARR (R276). -/
  | barArr (w : BitVec 3) (a b : Reg)
  /-- BAR_WAIT (R277). -/
  | barWait (w : BitVec 3) (d a b : Reg)
  /-- NET_SEND (R353). -/
  | netSend (w : BitVec 3) (d a : Reg) (ch : BitVec 3)
  /-- NET_MIST (R356). -/
  | netMist (w : BitVec 3) (d a : Reg) (ch : BitVec 3)
  /-- NET_FETCH (R353). -/
  | netFetch (w : BitVec 3) (d a : Reg) (ch : BitVec 3)
  /-- NET_WAIT (R355). -/
  | netWait (w : BitVec 3) (d a : Reg) (ch : BitVec 3)
  /-- TICK_WAIT (R360). -/
  | tickWait (w : BitVec 3) (d a : Reg)
  /-- PFX (R68). -/
  | pfx (pred : MReg) (inv : BitVec 1) (creg : Reg) (cv : BitVec 1)
  /-- TRAP_ENTRY (R331). -/
  | trapEntry (h : Nat)
  /-- WFE_WAKE (R96). -/
  | wfeWake (h : Nat)
  /-- PREEMPTION_REQUEST (R332). -/
  | preemptionRequest (hs : List Nat)
  /-- GRACE_WINDOW_EXPIRY (R334). -/
  | graceWindowExpiry (h : Nat)
  /-- LAUNCH (R301). -/
  | launch (m : Msg) (rec : BitVec 512)
  /-- GRAPH_REPLAY (R312). -/
  | graphReplay (m : Msg) (graph : Nat)
  /-- PATCH (R313). -/
  | patch (m : Msg) (graph node dst : Nat) (data : List (BitVec 8))
  /-- MAP (R350). -/
  | map (m : Msg) (r : MapReq)
  /-- UNMAP (R350). -/
  | unmap (m : Msg) (r : UnmapReq)
  /-- CONTEXT_LOAD (R315). -/
  | contextLoad (m : Msg) (root : Nat) (log : LogSetup)
  /-- CONTEXT_SAVE (R332). -/
  | contextSave (m : Msg)
  /-- GANG_SWITCH (R337). -/
  | gangSwitch (m : Msg) (out inc tick : Nat)
  /-- QUERY (R350). -/
  | query (m : Msg) (item : Nat)
  /-- ATTESTATION (R386). -/
  | attestation (m : Msg) (nonce : BitVec 256)
  /-- PARTITION_RESET (R345). -/
  | partitionReset (m : Msg)
  /-- SHADOW_PRELOAD (R337). -/
  | shadowPreload (c : Nat)
  /-- GANG_SWITCH_TICK (R337). -/
  | gangSwitchTick (part : Nat)
  /-- CLUSTER_FLIP (R337). -/
  | clusterFlip (c : Nat)
  /-- GRANULE_EXCHANGE (R338). -/
  | granuleExchange (c g : Nat)
  /-- WALKER_DISPATCH (R303). -/
  | walkerDispatch (c : Nat)
  /-- LAUNCH_COMPLETION (R307). -/
  | launchCompletion (part ctx l : Nat)
  /-- PRIORITY_AGING (R308). -/
  | priorityAging (part ctx l : Nat)
  /-- GANG_LAUNCH_TICK (R310). -/
  | gangLaunchTick (part ctx l : Nat)
  /-- STAGE2_FAULT (R325). -/
  | stage2Fault (part ia : Nat) (ans : S2Answer)
  /-- PAGE_MIGRATION (R326). -/
  | pageMigration (part ia pa : Nat)
  /-- PAGE_EVICTION (R329). -/
  | pageEviction (part : Nat)
  /-- SPINDLE_FETCH (R208). -/
  | spindleFetch (h : Nat) (sr : SReg)
  /-- POSTED_PART_PERFORM (R151). -/
  | postedPartPerform (h k : Nat)
  /-- LOOM_OP_START (R238). -/
  | loomOpStart (c : Nat)
  /-- LOOM_OP_COMPLETE (R238). -/
  | loomOpComplete (c : Nat)
  /-- CHANNEL_TRANSFER_START (R262). -/
  | channelTransferStart (c ch : Nat)
  /-- LIST_ELEMENT_START (R269). -/
  | listElementStart (c ch : Nat) (id : BitVec 32)
  /-- CHUNK_TRANSFER (R266). -/
  | chunkTransfer (c ch : Nat) (id : BitVec 32)
  /-- LIST_ELEMENT_COMPLETE (R266). -/
  | listElementComplete (c ch : Nat) (id : BitVec 32)
  /-- FABRIC_WRITE_PACKET (R353). -/
  | fabricWritePacket (x : Nat) (pk : Packet)
  /-- FABRIC_READ_REQUEST (R352). -/
  | fabricReadRequest (x : Nat) (pk : Packet)
  /-- MIST_ANNOUNCE (R356). -/
  | mistAnnounce (x : Nat) (pk : Packet)
  /-- MIST_BLOCK (R356). -/
  | mistBlock (x blk : Nat) (crcGood : Bool) (data : BitVec 2048)
  /-- MIST_DEADLINE (R356). -/
  | mistDeadline (x : Nat)
  /-- TRANSFER_ACK (R353). -/
  | transferAck (c ch : Nat) (id : BitVec 32) (missed : Nat)
  /-- RETRY_LIMIT (R353). -/
  | retryLimit (c ch : Nat) (id : BitVec 32) (remote : BitVec 8)
  /-- SRAM_SCRUB (R367). -/
  | sramScrub (loc : SramLoc) (found : Found)
  /-- HBM_PATROL_SCRUB (R368): the 32-byte unit that is read, with the line it lies in (R377). -/
  | hbmPatrolScrub (unit : Nat) (found : Found)
  /-- ALL_BANK_REFRESH (R375). -/
  | allBankRefresh (stack ch : Nat) (how : RefreshKind)
  /-- COLD_RESET (R383). -/
  | coldReset
  /-- WARM_RESET (R389). -/
  | warmReset (retrain : List (Nat × Bool))
  /-- WATCHDOG_EXPIRY (R389). -/
  | watchdogExpiry (retrain : List (Nat × Bool))
  /-- DEBUG_UNLOCK (R388). -/
  | debugUnlock (tok : DebugToken)
  /-- POWER_ROUND (R393), with the core current measured in it (R394). -/
  | powerRound (amps : Nat)
  /-- OVERCURRENT_REVOKE (R394). -/
  | overcurrentRevoke
  /-- GRANT_RESTORE (R394). -/
  | grantRestore
  /-- SYNC_LOSS (R359). -/
  | syncLoss
  /-- SYNC_REGAIN (R359). -/
  | syncRegain
  /-- ILLEGAL_WORD (R66). -/
  | illegalWord (word : BitVec 32)
  /-- INSTRUCTION_FETCH_FAULT (R35). -/
  | instructionFetchFault (cause : FetchCause) (va : BitVec 64)
  /-- FIXED_LATENCY_RESULT (R29). -/
  | fixedLatencyResult (h : Nat)
  /-- ACCESS_PERFORMS_AT_HOME (R182). -/
  | accessPerformsAtHome (h : Nat) (a : HomeStep)
  /-- SHADOW_WRITEBACK_COMPLETE (R337). -/
  | shadowWritebackComplete (c : Nat)
  /-- FRONT_TICK_REACHED (R360). -/
  | frontTickReached (h : Nat)
  /-- RMA_READ_RESPONSE (R353). -/
  | rmaReadResponse (c ch : Nat) (id : BitVec 32) (data : List (BitVec 8))
  /-- PARTITION_CREATE (R332). -/
  | partitionCreate (part : Nat) (cl : List Nat) (grace : Nat) (journal : Bool)
  /-- FWCAP_WRITE (R394). -/
  | fwcapWrite (amps : Nat)
  /-- RETAIN_FLAG_SET (R389). -/
  | retainFlagSet
  /-- GRACE_WINDOW_FORCED_STOP (R334). -/
  | graceWindowForcedStop (h : Nat)
  /-- SLOT_BUSY_END (R228). -/
  | slotBusyEnd (c : Nat) (o : OReg)
  deriving DecidableEq, Repr

end Sys2Proof
end

