-- ==== Sys2Proof/WellFormed.lean ====
section
/-! DEFINITION. Well-formed instructions: the field values that the encoding admits (R58-R62, R65, R68), and the
numbers of harts, clusters, partitions, contexts and channels that exist (R1, R22, R58, R349). -/

namespace Sys2Proof

/-- Operand b is a vector or a stream register (R59). -/
def VOp.notScalar : VOp → Bool
  | .sca _ => false
  | _ => true

/-- The control registers whose `mtc` has a row of its own in the opcode table (R94). -/
def ownMtcRow (csr : BitVec 10) : Bool :=
  csr == 0x000#10 || csr == 0x001#10 || csr == 0x002#10 || csr == 0x003#10 || csr == 0x091#10

/-- A cluster of the module (R1, R22). -/
def clusterId (c : Nat) : Bool := c < 256

/-- A hart of the module: `clid` in bits `11..4`, the hart in bits `3..0` (R22). -/
def hartId (h : Nat) : Bool := h < 4096 && h % 16 < 9

/-- The field values an instruction may hold. -/
def Instr.wellFormed : Instr → Bool
  | .nop _ => true
  | .jr _ _ => true
  | .svc _ _ => true
  | .tret _ => true
  | .brk _ _ => true
  | .halt _ => true
  | .mfc _ _ _ => true
  | .mtc _ _ csr => !ownMtcRow csr
  | .mtcHctl _ _ => true
  | .mtcVl _ _ => true
  | .mtcVtype _ _ => true
  | .mtcEstart _ _ => true
  | .mtcBstp _ _ => true
  | .fenceC _ _ sc => sc.toNat < 6
  | .fenceAll _ sc => sc.toNat < 6
  | .wfe _ _ _ _ => true
  | .rdtime _ _ => true
  | .rdcyc _ _ => true
  | .ctxSave _ _ => true
  | .ctxLoad _ _ => true
  | .tlbInv _ _ _ => true
  | .wait _ _ => true
  | .lanemap _ _ => true
  | .add _ _ _ _ => true
  | .sub _ _ _ _ => true
  | .and _ _ _ _ => true
  | .or _ _ _ _ => true
  | .xor _ _ _ _ => true
  | .andn _ _ _ _ => true
  | .shl _ _ _ _ => true
  | .shr _ _ _ _ => true
  | .sar _ _ _ _ => true
  | .rol _ _ _ _ => true
  | .slt _ _ _ _ => true
  | .sltn _ _ _ _ => true
  | .min _ _ _ _ => true
  | .max _ _ _ _ => true
  | .minn _ _ _ _ => true
  | .maxn _ _ _ _ => true
  | .mul _ _ _ _ => true
  | .mulh _ _ _ _ => true
  | .mulhn _ _ _ _ => true
  | .div _ _ _ _ => true
  | .divn _ _ _ _ => true
  | .rem _ _ _ _ => true
  | .remn _ _ _ _ => true
  | .clz _ _ _ => true
  | .ctz _ _ _ => true
  | .popc _ _ _ => true
  | .sext _ _ _ k => k.toNat < 3
  | .zext _ _ _ k => k.toNat < 3
  | .addi _ _ _ _ => true
  | .andi _ _ _ _ => true
  | .ori _ _ _ _ => true
  | .xori _ _ _ _ => true
  | .shli _ _ _ _ => true
  | .shri _ _ _ _ => true
  | .sari _ _ _ _ => true
  | .ldk _ _ k _ => k.toNat < 6
  | .beq _ _ _ _ => true
  | .bne _ _ _ _ => true
  | .blt _ _ _ _ => true
  | .bge _ _ _ _ => true
  | .bltn _ _ _ _ => true
  | .bgen _ _ _ _ => true
  | .ssb _ _ _ _ => true
  | .jal _ _ _ => true
  | .ldB _ _ _ _ _ => true
  | .ldH _ _ _ _ _ => true
  | .ldW _ _ _ _ _ => true
  | .ldD _ _ _ _ _ => true
  | .stB _ _ _ _ _ => true
  | .stH _ _ _ _ _ => true
  | .stW _ _ _ _ _ => true
  | .stD _ _ _ _ _ => true
  | .ldEAdd _ _ _ _ _ => true
  | .ldEFadd _ _ _ _ _ => true
  | .ldEMin _ _ _ _ _ => true
  | .ldEMax _ _ _ _ _ => true
  | .ldEMinn _ _ _ _ _ => true
  | .ldEMaxn _ _ _ _ _ => true
  | .ldEAnd _ _ _ _ _ => true
  | .ldEOr _ _ _ _ _ => true
  | .ldEXor _ _ _ _ _ => true
  | .stE _ _ _ _ _ => true
  | .amoEAdd _ _ _ _ _ => true
  | .amoEOr _ _ _ _ _ => true
  | .amoEAnd _ _ _ _ _ => true
  | .amoEMax _ _ _ _ _ => true
  | .amoAddCl _ _ _ _ _ => true
  | .amoAddSl _ _ _ _ _ => true
  | .amoAddSt _ _ _ _ _ => true
  | .amoAddMo _ _ _ _ _ => true
  | .amoAddPo _ _ _ _ _ => true
  | .amoAddSy _ _ _ _ _ => true
  | .amoFaddCl _ _ _ _ _ => true
  | .amoFaddSl _ _ _ _ _ => true
  | .amoFaddSt _ _ _ _ _ => true
  | .amoFaddMo _ _ _ _ _ => true
  | .amoFaddPo _ _ _ _ _ => true
  | .amoFaddSy _ _ _ _ _ => true
  | .amoMinCl _ _ _ _ _ => true
  | .amoMinSl _ _ _ _ _ => true
  | .amoMinSt _ _ _ _ _ => true
  | .amoMinMo _ _ _ _ _ => true
  | .amoMinPo _ _ _ _ _ => true
  | .amoMinSy _ _ _ _ _ => true
  | .amoMaxCl _ _ _ _ _ => true
  | .amoMaxSl _ _ _ _ _ => true
  | .amoMaxSt _ _ _ _ _ => true
  | .amoMaxMo _ _ _ _ _ => true
  | .amoMaxPo _ _ _ _ _ => true
  | .amoMaxSy _ _ _ _ _ => true
  | .amoAndCl _ _ _ _ _ => true
  | .amoAndSl _ _ _ _ _ => true
  | .amoAndSt _ _ _ _ _ => true
  | .amoAndMo _ _ _ _ _ => true
  | .amoAndPo _ _ _ _ _ => true
  | .amoAndSy _ _ _ _ _ => true
  | .amoOrCl _ _ _ _ _ => true
  | .amoOrSl _ _ _ _ _ => true
  | .amoOrSt _ _ _ _ _ => true
  | .amoOrMo _ _ _ _ _ => true
  | .amoOrPo _ _ _ _ _ => true
  | .amoOrSy _ _ _ _ _ => true
  | .amoSwapCl _ _ _ _ _ => true
  | .amoSwapSl _ _ _ _ _ => true
  | .amoSwapSt _ _ _ _ _ => true
  | .amoSwapMo _ _ _ _ _ => true
  | .amoSwapPo _ _ _ _ _ => true
  | .amoSwapSy _ _ _ _ _ => true
  | .amoCasCl _ _ _ _ _ => true
  | .amoCasSl _ _ _ _ _ => true
  | .amoCasSt _ _ _ _ _ => true
  | .amoCasMo _ _ _ _ _ => true
  | .amoCasPo _ _ _ _ _ => true
  | .amoCasSy _ _ _ _ _ => true
  | .vldEAdd _ _ _ _ _ => true
  | .vldEFadd _ _ _ _ _ => true
  | .vldEMin _ _ _ _ _ => true
  | .vldEMax _ _ _ _ _ => true
  | .vldEMinn _ _ _ _ _ => true
  | .vldEMaxn _ _ _ _ _ => true
  | .vldEAnd _ _ _ _ _ => true
  | .vldEOr _ _ _ _ _ => true
  | .vldEXor _ _ _ _ _ => true
  | .vstE _ _ _ _ _ => true
  | .vamoAddCl _ _ _ _ _ => true
  | .vamoAddSl _ _ _ _ _ => true
  | .vamoAddSt _ _ _ _ _ => true
  | .vamoAddMo _ _ _ _ _ => true
  | .vamoAddPo _ _ _ _ _ => true
  | .vamoAddSy _ _ _ _ _ => true
  | .vamoFaddCl _ _ _ _ _ => true
  | .vamoFaddSl _ _ _ _ _ => true
  | .vamoFaddSt _ _ _ _ _ => true
  | .vamoFaddMo _ _ _ _ _ => true
  | .vamoFaddPo _ _ _ _ _ => true
  | .vamoFaddSy _ _ _ _ _ => true
  | .vamoMinCl _ _ _ _ _ => true
  | .vamoMinSl _ _ _ _ _ => true
  | .vamoMinSt _ _ _ _ _ => true
  | .vamoMinMo _ _ _ _ _ => true
  | .vamoMinPo _ _ _ _ _ => true
  | .vamoMinSy _ _ _ _ _ => true
  | .vamoMaxCl _ _ _ _ _ => true
  | .vamoMaxSl _ _ _ _ _ => true
  | .vamoMaxSt _ _ _ _ _ => true
  | .vamoMaxMo _ _ _ _ _ => true
  | .vamoMaxPo _ _ _ _ _ => true
  | .vamoMaxSy _ _ _ _ _ => true
  | .vamoAndCl _ _ _ _ _ => true
  | .vamoAndSl _ _ _ _ _ => true
  | .vamoAndSt _ _ _ _ _ => true
  | .vamoAndMo _ _ _ _ _ => true
  | .vamoAndPo _ _ _ _ _ => true
  | .vamoAndSy _ _ _ _ _ => true
  | .vamoOrCl _ _ _ _ _ => true
  | .vamoOrSl _ _ _ _ _ => true
  | .vamoOrSt _ _ _ _ _ => true
  | .vamoOrMo _ _ _ _ _ => true
  | .vamoOrPo _ _ _ _ _ => true
  | .vamoOrSy _ _ _ _ _ => true
  | .vamoRetry _ _ _ _ _ => true
  | .setvl _ _ _ _ => true
  | .mand _ _ _ _ _ => true
  | .mor _ _ _ _ _ => true
  | .mxor _ _ _ _ _ => true
  | .mandn _ _ _ _ _ => true
  | .mnot _ _ _ _ => true
  | .mshl _ _ _ _ => true
  | .mshr _ _ _ _ => true
  | .mpop _ _ _ _ => true
  | .mfirst _ _ _ _ => true
  | .mget _ _ _ => true
  | .mput _ _ _ _ => true
  | .mset _ _ _ => true
  | .mclr _ _ _ => true
  | .vadd _ _ _ _ _ => true
  | .vsub _ _ _ _ _ => true
  | .vadc _ _ _ _ k => k != 0
  | .vsbc _ _ _ _ k => k != 0
  | .vmul _ _ _ _ _ => true
  | .vmulh _ _ _ _ _ => true
  | .vmulhn _ _ _ _ _ => true
  | .vmacc _ _ _ _ _ => true
  | .vand _ _ _ _ _ => true
  | .vor _ _ _ _ _ => true
  | .vxor _ _ _ _ _ => true
  | .vshl _ _ _ _ _ => true
  | .vshr _ _ _ _ _ => true
  | .vsar _ _ _ _ _ => true
  | .vmin _ _ _ _ _ => true
  | .vmax _ _ _ _ _ => true
  | .vminn _ _ _ _ _ => true
  | .vmaxn _ _ _ _ _ => true
  | .vceq _ _ _ _ _ => true
  | .vcne _ _ _ _ _ => true
  | .vclt _ _ _ _ _ => true
  | .vcle _ _ _ _ _ => true
  | .vcltn _ _ _ _ _ => true
  | .vclen _ _ _ _ _ => true
  | .vsel _ _ _ _ _ => true
  | .vabsd _ _ _ _ _ => true
  | .vsadd _ _ _ _ _ => true
  | .vssub _ _ _ _ _ => true
  | .vgen _ _ _ _ _ => true
  | .vmov _ _ _ _ => true
  | .vfadd _ _ _ _ _ => true
  | .vfsub _ _ _ _ _ => true
  | .vfmul _ _ _ _ _ => true
  | .vfma _ _ _ _ _ => true
  | .vfms _ _ _ _ _ => true
  | .vfnma _ _ _ _ _ => true
  | .vfdiv _ _ _ _ _ => true
  | .vfsqrt _ _ _ _ => true
  | .vfmin _ _ _ _ _ => true
  | .vfmax _ _ _ _ _ => true
  | .vfceq _ _ _ _ _ => true
  | .vfclt _ _ _ _ _ => true
  | .vfcle _ _ _ _ _ => true
  | .vfcun _ _ _ _ _ => true
  | .vfabs _ _ _ _ => true
  | .vfneg _ _ _ _ => true
  | .vfsgn _ _ _ _ _ => true
  | .vfrecp _ _ _ _ => true
  | .vfrsqe _ _ _ _ => true
  | .vfclass _ _ _ _ => true
  | .vfscal _ _ _ _ _ => true
  | .vld _ _ _ _ _ _ => true
  | .vlds _ _ _ _ _ _ => true
  | .vldx _ _ _ _ _ _ => true
  | .vst _ _ _ _ _ _ => true
  | .vsts _ _ _ _ _ _ => true
  | .vstx _ _ _ _ _ _ => true
  | .vldq _ _ _ _ _ => true
  | .vstq _ _ _ _ _ => true
  | .vxch _ _ _ _ _ => true
  | .vslup _ _ _ _ _ => true
  | .vsldn _ _ _ _ _ => true
  | .vperm _ _ _ b _ => b.notScalar
  | .vcmpr _ _ _ _ => true
  | .vexpd _ _ _ _ => true
  | .vrank _ _ _ => true
  | .vredsum _ _ _ _ => true
  | .vredmin _ _ _ _ => true
  | .vredmax _ _ _ _ => true
  | .vredand _ _ _ _ => true
  | .vredor _ _ _ _ => true
  | .vfredsum _ _ _ _ => true
  | .vfredmin _ _ _ _ => true
  | .vfredmax _ _ _ _ => true
  | .vfdot _ _ _ b _ => b.notScalar
  | .vcvt _ _ _ _ _ => true
  | .vext _ _ _ _ => true
  | .vins _ _ _ _ => true
  | .vvacc _ _ _ _ _ => true
  | .vrescl _ _ _ _ _ => true
  | .spOpen _ _ _ _ => true
  | .spBind _ _ _ _ => true
  | .spGath _ _ _ _ => true
  | .spIsect _ _ _ _ => true
  | .spUnion _ _ _ _ k => k != 0
  | .spSkip _ _ _ => true
  | .spCrd _ _ _ _ => true
  | .spPos _ _ _ _ => true
  | .spTake _ _ _ _ => true
  | .spSave _ _ _ => true
  | .spRest _ _ _ => true
  | .spClose _ _ => true
  | .cxAcc _ _ _ b _ => b.notScalar
  | .cxGet _ _ _ _ _ => true
  | .cxDrain _ _ => true
  | .cxClr _ => true
  | .vprune _ _ _ _ _ => true
  | .grmBind _ _ => true
  | .grmEval _ _ _ => true
  | .grmOut _ _ _ _ _ => true
  | .mxClaim _ _ _ => true
  | .mxRel _ _ => true
  | .mxZero _ _ => true
  | .mxMm _ _ _ _ => true
  | .mxMms _ _ _ _ k => k != 0
  | .mxCfg _ _ => true
  | .mxCoop _ _ => true
  | .mxWait _ => true
  | .mxCvt _ _ => true
  | .vto _ _ _ _ _ => true
  | .vfrom _ _ _ _ _ => true
  | .fork _ _ _ => true
  | .rdv _ _ => true
  | .dmaSg _ _ _ ch => ch.toNat < 6
  | .dmaLay _ _ _ _ ch => ch.toNat < 6
  | .dmaWait _ _ ch => ch.toNat < 6
  | .dmaSt _ _ _ ch => ch.toNat < 6
  | .pub _ _ => true
  | .barInit _ _ _ => true
  | .barArr _ _ _ => true
  | .barWait _ _ _ _ => true
  | .netSend _ _ _ ch => ch.toNat == 4 || ch.toNat == 5
  | .netMist _ _ _ ch => ch.toNat == 4 || ch.toNat == 5
  | .netFetch _ _ _ ch => ch.toNat == 4 || ch.toNat == 5
  | .netWait _ _ _ ch => ch.toNat == 4 || ch.toNat == 5
  | .tickWait _ _ _ => true
  | .pfx pred inv creg cv => (cv == 1 || creg == 0) && (pred != 0 || inv == 0)
  | .trapEntry h => hartId h
  | .wfeWake h => hartId h
  | .preemptionRequest hs => hs.all hartId
  | .graceWindowExpiry h => hartId h
  | .launch m _ => m.part < 16 && m.ctx < 8
  | .graphReplay m _ => m.part < 16 && m.ctx < 8
  | .patch m _ _ _ data => m.part < 16 && m.ctx < 8 && data.length ≤ 4096
  | .map m _ => m.part < 16 && m.ctx < 8
  | .unmap m _ => m.part < 16 && m.ctx < 8
  | .contextLoad m _ _ => m.part < 16 && m.ctx < 8
  | .contextSave m => m.part < 16 && m.ctx < 8
  | .gangSwitch m out inc _ => m.part < 16 && m.ctx < 8 && out < 8 && inc < 8
  | .query m _ => m.part < 16 && m.ctx < 8
  | .attestation m _ => m.part < 16 && m.ctx < 8
  | .partitionReset m => m.part < 16 && m.ctx < 8
  | .shadowPreload c => clusterId c
  | .gangSwitchTick part => part < 16
  | .clusterFlip c => clusterId c
  | .granuleExchange c _ => clusterId c
  | .walkerDispatch c => clusterId c
  | .launchCompletion part ctx _ => part < 16 && ctx < 8
  | .priorityAging part ctx _ => part < 16 && ctx < 8
  | .gangLaunchTick part ctx _ => part < 16 && ctx < 8
  | .stage2Fault part _ _ => part < 16
  | .pageMigration part _ _ => part < 16
  | .pageEviction part => part < 16
  | .spindleFetch h _ => hartId h
  | .postedPartPerform h _ => hartId h
  | .loomOpStart c => clusterId c
  | .loomOpComplete c => clusterId c
  | .channelTransferStart c ch => clusterId c && ch < 6
  | .listElementStart c ch _ => clusterId c && ch < 6
  | .chunkTransfer c ch _ => clusterId c && ch < 6
  | .listElementComplete c ch _ => clusterId c && ch < 6
  | .fabricWritePacket _ _ => true
  | .fabricReadRequest _ _ => true
  | .mistAnnounce _ _ => true
  | .mistBlock _ _ _ _ => true
  | .mistDeadline _ => true
  | .transferAck c ch _ _ => clusterId c && ch < 6
  | .retryLimit c ch _ _ => clusterId c && ch < 6
  | .sramScrub _ _ => true
  | .hbmPatrolScrub _ _ => true
  | .allBankRefresh stack ch _ => stack < 16 && ch < 32
  | .coldReset  => true
  | .warmReset r => r.all (fun e => e.1 < 512)
  | .watchdogExpiry r => r.all (fun e => e.1 < 512)
  | .debugUnlock _ => true
  | .powerRound _ => true
  | .overcurrentRevoke => true
  | .grantRestore => true
  | .syncLoss  => true
  | .syncRegain  => true
  | .illegalWord _ => true
  | .instructionFetchFault _ _ => true
  | .fixedLatencyResult h => hartId h
  | .accessPerformsAtHome h _ => hartId h
  | .shadowWritebackComplete c => clusterId c
  | .frontTickReached h => hartId h
  | .rmaReadResponse c ch _ _ => clusterId c && ch < 6
  | .partitionCreate part cl grace _ => part < 16 && cl.all clusterId && decide (10 ≤ grace ∧ grace ≤ 10000)
  | .fwcapWrite _ => true
  | .retainFlagSet  => true
  | .graceWindowForcedStop h => hartId h
  | .slotBusyEnd c _ => clusterId c

/-- The steps of the opcode table that are no words. -/
def Instr.isEvent : Instr → Bool
  | .trapEntry _ => true
  | .wfeWake _ => true
  | .preemptionRequest _ => true
  | .graceWindowExpiry _ => true
  | .launch _ _ => true
  | .graphReplay _ _ => true
  | .patch _ _ _ _ _ => true
  | .map _ _ => true
  | .unmap _ _ => true
  | .contextLoad _ _ _ => true
  | .contextSave _ => true
  | .gangSwitch _ _ _ _ => true
  | .query _ _ => true
  | .attestation _ _ => true
  | .partitionReset _ => true
  | .shadowPreload _ => true
  | .gangSwitchTick _ => true
  | .clusterFlip _ => true
  | .granuleExchange _ _ => true
  | .walkerDispatch _ => true
  | .launchCompletion _ _ _ => true
  | .priorityAging _ _ _ => true
  | .gangLaunchTick _ _ _ => true
  | .stage2Fault _ _ _ => true
  | .pageMigration _ _ _ => true
  | .pageEviction _ => true
  | .spindleFetch _ _ => true
  | .postedPartPerform _ _ => true
  | .loomOpStart _ => true
  | .loomOpComplete _ => true
  | .channelTransferStart _ _ => true
  | .listElementStart _ _ _ => true
  | .chunkTransfer _ _ _ => true
  | .listElementComplete _ _ _ => true
  | .fabricWritePacket _ _ => true
  | .fabricReadRequest _ _ => true
  | .mistAnnounce _ _ => true
  | .mistBlock _ _ _ _ => true
  | .mistDeadline _ => true
  | .transferAck _ _ _ _ => true
  | .retryLimit _ _ _ _ => true
  | .sramScrub _ _ => true
  | .hbmPatrolScrub _ _ => true
  | .allBankRefresh _ _ _ => true
  | .coldReset  => true
  | .warmReset _ => true
  | .watchdogExpiry _ => true
  | .debugUnlock _ => true
  | .powerRound _ => true
  | .overcurrentRevoke => true
  | .grantRestore => true
  | .syncLoss  => true
  | .syncRegain  => true
  | .illegalWord _ => true
  | .instructionFetchFault _ _ => true
  | .fixedLatencyResult _ => true
  | .accessPerformsAtHome _ _ => true
  | .shadowWritebackComplete _ => true
  | .frontTickReached _ => true
  | .rmaReadResponse _ _ _ _ => true
  | .partitionCreate _ _ _ _ => true
  | .fwcapWrite _ => true
  | .retainFlagSet  => true
  | .graceWindowForcedStop _ => true
  | .slotBusyEnd _ _ => true
  | _ => false

end Sys2Proof
end

