-- ==== Sys2Proof/Decode.lean ====
section
/-! DEFINITION. From bits to instructions and back (R55-R66): a total decoder that rejects by name, and after
it the encoder written from the same formats. -/

namespace Sys2Proof

/-- Why a word is no instruction (R58-R62, R66, R68). Every one of these traps with cause ILLEGAL. -/
inductive DecodeError where
  /-- Fewer than four bytes were given. -/
  | short
  /-- No row of R64 or R65 assigns the code. -/
  | unassigned
  /-- A reserved field is not zero, or a non-zero `q` or `p` stands where R59 or R60 forbids it. -/
  | reserved
  /-- A register field is outside the range of its class (R58). -/
  | badRegister
  /-- A code field (scope, width, k, channel, mask number) has a value its form does not assign. -/
  | badCode
  deriving DecidableEq, Repr

namespace Decode

/-- What decoding a word gives. -/
abbrev Result := Except DecodeError Instr

/-- The field `wt`, bits `31..29` (R55). -/
def fwt (x : BitVec 32) : BitVec 3 := x.extractLsb' 29 3
/-- The field `maj`, bits `28..25` (R55). -/
def fmaj (x : BitVec 32) : BitVec 4 := x.extractLsb' 25 4
/-- Bits `24..20`, field d of formats R, I, M and W (R57). -/
def fd (x : BitVec 32) : BitVec 5 := x.extractLsb' 20 5
/-- Bits `19..15`, field a (R57). -/
def fa (x : BitVec 32) : BitVec 5 := x.extractLsb' 15 5
/-- Bits `14..10`, field b (R57). -/
def fb (x : BitVec 32) : BitVec 5 := x.extractLsb' 10 5
/-- Bit 9, field q of format R (R57). -/
def fq (x : BitVec 32) : BitVec 1 := x.extractLsb' 9 1
/-- Bits `8..6`, field p of format R (R57). -/
def fp (x : BitVec 32) : BitVec 3 := x.extractLsb' 6 3
/-- Bits `5..0`, field fn of formats R and W (R57). -/
def ffn (x : BitVec 32) : BitVec 6 := x.extractLsb' 0 6
/-- Bits `9..6`, field cls of formats M and W (R57). -/
def fcls (x : BitVec 32) : BitVec 4 := x.extractLsb' 6 4
/-- Bits `5..3`, field p of format M (R57). -/
def fpM (x : BitVec 32) : BitVec 3 := x.extractLsb' 3 3
/-- Bits `2..0`, field fn of format M (R57). -/
def ffnM (x : BitVec 32) : BitVec 3 := x.extractLsb' 0 3
/-- Bits `14..12`, field fn of format I (R57). -/
def ffnI (x : BitVec 32) : BitVec 3 := x.extractLsb' 12 3
/-- Bits `11..0`, field imm12 of format I and off12 of format B (R57). -/
def fimm (x : BitVec 32) : BitVec 12 := x.extractLsb' 0 12
/-- Bits `24..22`, field cond of format B (R57). -/
def fcond (x : BitVec 32) : BitVec 3 := x.extractLsb' 22 3
/-- Bits `21..17`, field a of format B, or d of `jal` (R57). -/
def faB (x : BitVec 32) : BitVec 5 := x.extractLsb' 17 5
/-- Bits `16..12`, field b of format B (R57). -/
def fbB (x : BitVec 32) : BitVec 5 := x.extractLsb' 12 5
/-- Bits `16..0`, field off17 of `jal` (R57). -/
def foff17 (x : BitVec 32) : BitVec 17 := x.extractLsb' 0 17

/-- Go on when the check holds, otherwise reject by name. -/
def need (ok : Bool) (e : DecodeError) (k : Result) : Result := if ok then k else .error e
/-- A field of a class with 16 registers (R58). -/
def reg16 (x : BitVec 5) (k : BitVec 4 → Result) : Result :=
  need (x.toNat < 16) .badRegister (k (x.setWidth 4))
/-- A field of the class with four accumulator tiles (R58). -/
def reg4 (x : BitVec 5) (k : BitVec 2 → Result) : Result :=
  need (x.toNat < 4) .badRegister (k (x.setWidth 2))
/-- `q` and p are zero (R59, R60). -/
def noQP (x : BitVec 32) (k : Result) : Result := need (fcls x == 0) .reserved k
/-- `q` is zero (R59). -/
def noQ (x : BitVec 32) (k : Result) : Result := need (fq x == 0) .reserved k
/-- A field the form does not use is zero (R58). -/
def zero (f : BitVec 5) (k : Result) : Result := need (f == 0) .reserved k
/-- Operand b of VINT and VFP by fn bit 5 and `q` (R59, R61). -/
def vop (x : BitVec 32) (k : VOp → Result) : Result :=
  if x.getLsbD 5 then need (fq x == 0) .reserved (k (.sca (fb x)))
  else if fq x == 1 then reg16 (fb x) (fun s => k (.str s)) else k (.vec (fb x))
/-- Operand b of a VXR form or `cx.acc` that may be a stream (R59). -/
def vopX (x : BitVec 32) (k : VOp → Result) : Result :=
  if fq x == 1 then reg16 (fb x) (fun s => k (.str s)) else k (.vec (fb x))


/-- Format reader: no operand. -/
def rN (mk : BitVec 3 → Instr) (x : BitVec 32) : Result :=
  noQP x (zero (fd x) (zero (fa x) (zero (fb x) (.ok (mk (fwt x))))))

/-- Format reader: a scalar in a. -/
def rA (mk : BitVec 3 → Reg → Instr) (x : BitVec 32) : Result :=
  noQP x (zero (fd x) (zero (fb x) (.ok (mk (fwt x) (fa x)))))

/-- Format reader: a 10-bit code in d and b (R92). -/
def rCode (mk : BitVec 3 → BitVec 10 → Instr) (x : BitVec 32) : Result :=
  noQP x (zero (fa x) (.ok (mk (fwt x) (fd x ++ fb x))))

/-- Format reader: a scalar in d, a control register number in a and b (R16). -/
def rCsr (mk : BitVec 3 → Reg → BitVec 10 → Instr) (x : BitVec 32) : Result :=
  noQP x (.ok (mk (fwt x) (fd x) (fa x ++ fb x)))

/-- Format reader: a scalar in d. -/
def rD (mk : BitVec 3 → Reg → Instr) (x : BitVec 32) : Result :=
  noQP x (zero (fa x) (zero (fb x) (.ok (mk (fwt x) (fd x)))))

/-- Format reader: a stream in d. -/
def rDs (mk : BitVec 3 → SReg → Instr) (x : BitVec 32) : Result :=
  noQP x (zero (fa x) (zero (fb x) (reg16 (fd x) fun d => .ok (mk (fwt x) d))))

/-- Format reader: scalars in a and b. -/
def rAB (mk : BitVec 3 → Reg → Reg → Instr) (x : BitVec 32) : Result :=
  noQP x (zero (fd x) (.ok (mk (fwt x) (fa x) (fb x))))

/-- Format reader: a scalar in a, a scope in b (R92). -/
def rAScope (mk : BitVec 3 → Reg → BitVec 5 → Instr) (x : BitVec 32) : Result :=
  noQP x (zero (fd x) (need ((fb x).toNat < 6) .badCode (.ok (mk (fwt x) (fa x) (fb x)))))

/-- Format reader: a scope in b (R92). -/
def rScope (mk : BitVec 3 → BitVec 5 → Instr) (x : BitVec 32) : Result :=
  noQP x (zero (fd x) (zero (fa x) (need ((fb x).toNat < 6) .badCode (.ok (mk (fwt x) (fb x))))))

/-- Format reader: a number in b. -/
def rB (mk : BitVec 3 → BitVec 5 → Instr) (x : BitVec 32) : Result :=
  noQP x (zero (fd x) (zero (fa x) (.ok (mk (fwt x) (fb x)))))

/-- Format reader: registers in d, a and b. -/
def rDAB (mk : BitVec 3 → Reg → Reg → Reg → Instr) (x : BitVec 32) : Result :=
  noQP x (.ok (mk (fwt x) (fd x) (fa x) (fb x)))

/-- Format reader: d, a and a width code in b (R84). -/
def rWidth (mk : BitVec 3 → Reg → Reg → BitVec 5 → Instr) (x : BitVec 32) : Result :=
  noQP x (need ((fb x).toNat < 3) .badCode (.ok (mk (fwt x) (fd x) (fa x) (fb x))))

/-- Format reader: registers in d and a. -/
def rDA (mk : BitVec 3 → Reg → Reg → Instr) (x : BitVec 32) : Result :=
  noQP x (zero (fb x) (.ok (mk (fwt x) (fd x) (fa x))))

/-- Format reader: the operands of the type of `mk`, in field order. -/
def rMmm (mk : BitVec 3 → MReg → MReg → MReg → BitVec 3 → Instr) (x : BitVec 32) : Result :=
  noQ x (reg16 (fd x) fun d => reg16 (fa x) fun a => reg16 (fb x) fun b => .ok (mk (fwt x) d a b (fp x)))

/-- Format reader: the operands of the type of `mk`, in field order. -/
def rMm (mk : BitVec 3 → MReg → MReg → BitVec 3 → Instr) (x : BitVec 32) : Result :=
  noQ x (zero (fb x) (reg16 (fd x) fun d => reg16 (fa x) fun a => .ok (mk (fwt x) d a (fp x))))

/-- Format reader: the operands of the type of `mk`, in field order. -/
def rMmA (mk : BitVec 3 → MReg → MReg → Reg → Instr) (x : BitVec 32) : Result :=
  noQP x (reg16 (fd x) fun d => reg16 (fa x) fun a => .ok (mk (fwt x) d a (fb x)))

/-- Format reader: the operands of the type of `mk`, in field order. -/
def rXm (mk : BitVec 3 → Reg → MReg → BitVec 3 → Instr) (x : BitVec 32) : Result :=
  noQ x (zero (fb x) (reg16 (fa x) fun a => .ok (mk (fwt x) (fd x) a (fp x))))

/-- Format reader: the operands of the type of `mk`, in field order. -/
def rMp (mk : BitVec 3 → MReg → BitVec 3 → Instr) (x : BitVec 32) : Result :=
  noQ x (zero (fa x) (zero (fb x) (reg16 (fd x) fun d => .ok (mk (fwt x) d (fp x)))))

/-- Format reader: the operands of the type of `mk`, in field order. -/
def rMAA (mk : BitVec 3 → MReg → Reg → Reg → Instr) (x : BitVec 32) : Result :=
  noQP x (reg16 (fd x) fun d => .ok (mk (fwt x) d (fa x) (fb x)))

/-- Format reader: the operands of the type of `mk`, in field order. -/
def iImm (mk : BitVec 3 → Reg → Reg → BitVec 12 → Instr) (x : BitVec 32) : Result :=
  .ok (mk (fwt x) (fd x) (fa x) (fimm x))

/-- Format reader: the operands of the type of `mk`, in field order. -/
def iSh (mk : BitVec 3 → Reg → Reg → BitVec 6 → Instr) (x : BitVec 32) : Result :=
  need (x.extractLsb' 6 6 == 0) .reserved (.ok (mk (fwt x) (fd x) (fa x) (ffn x)))

/-- Format reader: the operands of the type of `mk`, in field order. -/
def iLdk (mk : BitVec 3 → Reg → BitVec 5 → BitVec 12 → Instr) (x : BitVec 32) : Result :=
  need ((fa x).toNat < 6) .badCode (.ok (mk (fwt x) (fd x) (fa x) (fimm x)))

/-- Format reader: the operands of the type of `mk`, in field order. -/
def bCond (mk : BitVec 3 → Reg → Reg → BitVec 12 → Instr) (x : BitVec 32) : Result :=
  .ok (mk (fwt x) (faB x) (fbB x) (fimm x))

/-- Format reader: the operands of the type of `mk`, in field order. -/
def bJal (mk : BitVec 3 → Reg → BitVec 17 → Instr) (x : BitVec 32) : Result :=
  .ok (mk (fwt x) (faB x) (foff17 x))

/-- Format reader: the operands of the type of `mk`, in field order. -/
def mMem (mk : BitVec 3 → Reg → Reg → Reg → BitVec 4 → Instr) (x : BitVec 32) : Result :=
  need (fpM x == 0) .reserved (.ok (mk (fwt x) (fd x) (fa x) (fb x) (fcls x)))

/-- Format reader: the operands of the type of `mk`, in field order. -/
def mVm (mk : BitVec 3 → Reg → Reg → Reg → BitVec 4 → BitVec 3 → Instr) (x : BitVec 32) : Result :=
  .ok (mk (fwt x) (fd x) (fa x) (fb x) (fcls x) (fpM x))

/-- Format reader: the operands of the type of `mk`, in field order. -/
def wFmt (mk : BitVec 3 → Reg → Reg → Reg → BitVec 4 → Instr) (x : BitVec 32) : Result :=
  .ok (mk (fwt x) (fd x) (fa x) (fb x) (fcls x))

/-- Format reader: the operands of the type of `mk`, in field order. -/
def rV3 (mk : BitVec 3 → Reg → Reg → VOp → BitVec 3 → Instr) (x : BitVec 32) : Result :=
  vop x fun b => .ok (mk (fwt x) (fd x) (fa x) b (fp x))

/-- Format reader: the operands of the type of `mk`, in field order. -/
def rV3m (mk : BitVec 3 → MReg → Reg → VOp → BitVec 3 → Instr) (x : BitVec 32) : Result :=
  vop x fun b => reg16 (fd x) fun d => .ok (mk (fwt x) d (fa x) b (fp x))

/-- Format reader: the operands of the type of `mk`, in field order. -/
def rV2 (mk : BitVec 3 → Reg → VOp → BitVec 3 → Instr) (x : BitVec 32) : Result :=
  zero (fa x) (vop x fun b => .ok (mk (fwt x) (fd x) b (fp x)))

/-- Format reader: the operands of the type of `mk`, in field order. -/
def rCarry (mk : BitVec 3 → Reg → Reg → VOp → BitVec 3 → Instr) (x : BitVec 32) : Result :=
  need (fp x != 0) .badCode (vop x fun b => .ok (mk (fwt x) (fd x) (fa x) b (fp x)))

/-- Format reader: the operands of the type of `mk`, in field order. -/
def rDABp (mk : BitVec 3 → Reg → Reg → Reg → BitVec 3 → Instr) (x : BitVec 32) : Result :=
  noQ x (.ok (mk (fwt x) (fd x) (fa x) (fb x) (fp x)))

/-- Format reader: the operands of the type of `mk`, in field order. -/
def rDAVp (mk : BitVec 3 → Reg → Reg → VOp → BitVec 3 → Instr) (x : BitVec 32) : Result :=
  vopX x fun b => .ok (mk (fwt x) (fd x) (fa x) b (fp x))

/-- Format reader: the operands of the type of `mk`, in field order. -/
def rDAp (mk : BitVec 3 → Reg → Reg → BitVec 3 → Instr) (x : BitVec 32) : Result :=
  noQ x (zero (fb x) (.ok (mk (fwt x) (fd x) (fa x) (fp x))))

/-- Format reader: the operands of the type of `mk`, in field order. -/
def rDp (mk : BitVec 3 → Reg → BitVec 3 → Instr) (x : BitVec 32) : Result :=
  noQ x (zero (fa x) (zero (fb x) (.ok (mk (fwt x) (fd x) (fp x)))))

/-- Format reader: the operands of the type of `mk`, in field order. -/
def rDAMp (mk : BitVec 3 → Reg → Reg → MReg → BitVec 3 → Instr) (x : BitVec 32) : Result :=
  noQ x (reg16 (fb x) fun b => .ok (mk (fwt x) (fd x) (fa x) b (fp x)))

/-- Format reader: the operands of the type of `mk`, in field order. -/
def rSAA (mk : BitVec 3 → SReg → Reg → Reg → Instr) (x : BitVec 32) : Result :=
  noQP x (reg16 (fd x) fun d => .ok (mk (fwt x) d (fa x) (fb x)))

/-- Format reader: the operands of the type of `mk`, in field order. -/
def rSAS (mk : BitVec 3 → SReg → Reg → SReg → Instr) (x : BitVec 32) : Result :=
  noQP x (reg16 (fd x) fun d => reg16 (fb x) fun b => .ok (mk (fwt x) d (fa x) b))

/-- Format reader: the operands of the type of `mk`, in field order. -/
def rSSS (mk : BitVec 3 → SReg → SReg → SReg → Instr) (x : BitVec 32) : Result :=
  noQP x (reg16 (fd x) fun d => reg16 (fa x) fun a => reg16 (fb x) fun b => .ok (mk (fwt x) d a b))

/-- Format reader: the operands of the type of `mk`, in field order. -/
def rSSSk (mk : BitVec 3 → SReg → SReg → SReg → BitVec 3 → Instr) (x : BitVec 32) : Result :=
  noQ x (need (fp x != 0) .badCode (reg16 (fd x) fun d => reg16 (fa x) fun a => reg16 (fb x) fun b => .ok (mk (fwt x) d a b (fp x))))

/-- Format reader: the operands of the type of `mk`, in field order. -/
def rSA (mk : BitVec 3 → SReg → Reg → Instr) (x : BitVec 32) : Result :=
  noQP x (zero (fb x) (reg16 (fd x) fun d => .ok (mk (fwt x) d (fa x))))

/-- Format reader: the operands of the type of `mk`, in field order. -/
def rVSp (mk : BitVec 3 → Reg → SReg → BitVec 3 → Instr) (x : BitVec 32) : Result :=
  noQ x (zero (fb x) (reg16 (fa x) fun a => .ok (mk (fwt x) (fd x) a (fp x))))

/-- Format reader: the operands of the type of `mk`, in field order. -/
def rASA (mk : BitVec 3 → Reg → SReg → Reg → Instr) (x : BitVec 32) : Result :=
  noQP x (reg16 (fa x) fun a => .ok (mk (fwt x) (fd x) a (fb x)))

/-- Format reader: the operands of the type of `mk`, in field order. -/
def rMVVp (mk : BitVec 3 → MReg → Reg → VOp → BitVec 3 → Instr) (x : BitVec 32) : Result :=
  vopX x fun b => reg16 (fd x) fun d => .ok (mk (fwt x) d (fa x) b (fp x))

/-- Format reader: the operands of the type of `mk`, in field order. -/
def rVVMp (mk : BitVec 3 → Reg → Reg → MReg → BitVec 3 → Instr) (x : BitVec 32) : Result :=
  noQ x (reg16 (fb x) fun b => .ok (mk (fwt x) (fd x) (fa x) b (fp x)))

/-- Format reader: the operands of the type of `mk`, in field order. -/
def rZOO (mk : BitVec 3 → ZReg → OReg → OReg → Instr) (x : BitVec 32) : Result :=
  noQP x (reg4 (fd x) fun d => reg16 (fa x) fun a => reg16 (fb x) fun b => .ok (mk (fwt x) d a b))

/-- Format reader: the operands of the type of `mk`, in field order. -/
def rZOOk (mk : BitVec 3 → ZReg → OReg → OReg → BitVec 3 → Instr) (x : BitVec 32) : Result :=
  noQ x (need (fp x != 0) .badCode (reg4 (fd x) fun d => reg16 (fa x) fun a => reg16 (fb x) fun b => .ok (mk (fwt x) d a b (fp x))))

/-- Format reader: the operands of the type of `mk`, in field order. -/
def rOVAp (mk : BitVec 3 → OReg → Reg → Reg → BitVec 3 → Instr) (x : BitVec 32) : Result :=
  noQ x (reg16 (fd x) fun d => .ok (mk (fwt x) d (fa x) (fb x) (fp x)))

/-- Format reader: the operands of the type of `mk`, in field order. -/
def rVZAp (mk : BitVec 3 → Reg → ZReg → Reg → BitVec 3 → Instr) (x : BitVec 32) : Result :=
  noQ x (reg4 (fa x) fun a => .ok (mk (fwt x) (fd x) a (fb x) (fp x)))

/-- Format reader: the operands of the type of `mk`, in field order. -/
def rDAch (mk : BitVec 3 → Reg → Reg → BitVec 3 → Instr) (x : BitVec 32) : Result :=
  noQ x (zero (fb x) (need ((fp x).toNat < 6) .badCode (.ok (mk (fwt x) (fd x) (fa x) (fp x)))))

/-- Format reader: the operands of the type of `mk`, in field order. -/
def rDABch (mk : BitVec 3 → Reg → Reg → Reg → BitVec 3 → Instr) (x : BitVec 32) : Result :=
  noQ x (need ((fp x).toNat < 6) .badCode (.ok (mk (fwt x) (fd x) (fa x) (fb x) (fp x))))

/-- Format reader: the operands of the type of `mk`, in field order. -/
def rAch (mk : BitVec 3 → Reg → BitVec 3 → Instr) (x : BitVec 32) : Result :=
  noQ x (zero (fd x) (zero (fb x) (need ((fp x).toNat < 6) .badCode (.ok (mk (fwt x) (fa x) (fp x))))))

/-- Format reader: the operands of the type of `mk`, in field order. -/
def rDAnet (mk : BitVec 3 → Reg → Reg → BitVec 3 → Instr) (x : BitVec 32) : Result :=
  noQ x (zero (fb x) (need ((fp x).toNat == 4 || (fp x).toNat == 5) .badCode (.ok (mk (fwt x) (fd x) (fa x) (fp x)))))

noncomputable section

/-- `mtc` by its control register number: five registers have a row of their own (R94). -/
def mtcRow (w : BitVec 3) (d : Reg) (csr : BitVec 10) : Instr :=
  if csr = 0x000#10 then .mtcHctl w d
  else if csr = 0x001#10 then .mtcVl w d
  else if csr = 0x002#10 then .mtcVtype w d
  else if csr = 0x003#10 then .mtcEstart w d
  else if csr = 0x091#10 then .mtcBstp w d
  else .mtc w d csr


/-- Major 0x0, codes 0 to 15 (R92). -/
def rowsSys0 : List (Option (BitVec 32 → Result)) :=
  [ some (rN .nop),
    some (rA .jr),
    some (rCode .svc),
    some (rN .tret),
    some (rCode .brk),
    some (rN .halt),
    some (rCsr .mfc),
    some (rCsr mtcRow),
    some (rAScope .fenceC),
    some (rScope .fenceAll),
    some (rDAB .wfe),
    some (rD .rdtime),
    some (rD .rdcyc),
    some (rA .ctxSave),
    some (rA .ctxLoad),
    some (rAB .tlbInv) ]

/-- Major 0x0, codes 16 to 17 (R92). -/
def rowsSys1 : List (Option (BitVec 32 → Result)) :=
  [ some (rB .wait),
    some (rA .lanemap) ]

/-- Major 0x0 (R64, R92). -/
def rowsSys : List (Option (BitVec 32 → Result)) := rowsSys0 ++ rowsSys1

/-- Major 0x1, codes 0 to 15 (R84). -/
def rowsAlu0 : List (Option (BitVec 32 → Result)) :=
  [ some (rDAB .add),
    some (rDAB .sub),
    some (rDAB .and),
    some (rDAB .or),
    some (rDAB .xor),
    some (rDAB .andn),
    some (rDAB .shl),
    some (rDAB .shr),
    some (rDAB .sar),
    some (rDAB .rol),
    some (rDAB .slt),
    some (rDAB .sltn),
    some (rDAB .min),
    some (rDAB .max),
    some (rDAB .minn),
    some (rDAB .maxn) ]

/-- Major 0x1, codes 16 to 27 (R84). -/
def rowsAlu1 : List (Option (BitVec 32 → Result)) :=
  [ some (rDAB .mul),
    some (rDAB .mulh),
    some (rDAB .mulhn),
    some (rDAB .div),
    some (rDAB .divn),
    some (rDAB .rem),
    some (rDAB .remn),
    some (rDA .clz),
    some (rDA .ctz),
    some (rDA .popc),
    some (rWidth .sext),
    some (rWidth .zext) ]

/-- Major 0x1 (R64, R84). -/
def rowsAlu : List (Option (BitVec 32 → Result)) := rowsAlu0 ++ rowsAlu1

/-- Major 0x2, codes 0 to 7 (R62). -/
def rowsAlui : List (Option (BitVec 32 → Result)) :=
  [ some (iImm .addi),
    some (iImm .andi),
    some (iImm .ori),
    some (iImm .xori),
    some (iSh .shli),
    some (iSh .shri),
    some (iSh .sari),
    some (iLdk .ldk) ]

/-- Major 0x3, codes 0 to 7 (R57). -/
def rowsBr : List (Option (BitVec 32 → Result)) :=
  [ some (bCond .beq),
    some (bCond .bne),
    some (bCond .blt),
    some (bCond .bge),
    some (bCond .bltn),
    some (bCond .bgen),
    some (bCond .ssb),
    some (bJal .jal) ]

/-- Major 0x4, codes 0 to 7 (R90). -/
def rowsMem : List (Option (BitVec 32 → Result)) :=
  [ some (mMem .ldB),
    some (mMem .ldH),
    some (mMem .ldW),
    some (mMem .ldD),
    some (mMem .stB),
    some (mMem .stH),
    some (mMem .stW),
    some (mMem .stD) ]

/-- Major 0x5, codes 0 to 15 (R65, R148). -/
def rowsWord0 : List (Option (BitVec 32 → Result)) :=
  [ some (wFmt .ldEAdd),
    some (wFmt .ldEFadd),
    some (wFmt .ldEMin),
    some (wFmt .ldEMax),
    some (wFmt .ldEMinn),
    some (wFmt .ldEMaxn),
    some (wFmt .ldEAnd),
    some (wFmt .ldEOr),
    some (wFmt .ldEXor),
    some (wFmt .stE),
    some (wFmt .amoEAdd),
    some (wFmt .amoEOr),
    some (wFmt .amoEAnd),
    some (wFmt .amoEMax),
    none,
    none ]

/-- Major 0x5, codes 16 to 31 (R65, R148). -/
def rowsWord1 : List (Option (BitVec 32 → Result)) :=
  [ some (wFmt .amoAddCl),
    some (wFmt .amoAddSl),
    some (wFmt .amoAddSt),
    some (wFmt .amoAddMo),
    some (wFmt .amoAddPo),
    some (wFmt .amoAddSy),
    some (wFmt .amoFaddCl),
    some (wFmt .amoFaddSl),
    some (wFmt .amoFaddSt),
    some (wFmt .amoFaddMo),
    some (wFmt .amoFaddPo),
    some (wFmt .amoFaddSy),
    some (wFmt .amoMinCl),
    some (wFmt .amoMinSl),
    some (wFmt .amoMinSt),
    some (wFmt .amoMinMo) ]

/-- Major 0x5, codes 32 to 47 (R65, R148). -/
def rowsWord2 : List (Option (BitVec 32 → Result)) :=
  [ some (wFmt .amoMinPo),
    some (wFmt .amoMinSy),
    some (wFmt .amoMaxCl),
    some (wFmt .amoMaxSl),
    some (wFmt .amoMaxSt),
    some (wFmt .amoMaxMo),
    some (wFmt .amoMaxPo),
    some (wFmt .amoMaxSy),
    some (wFmt .amoAndCl),
    some (wFmt .amoAndSl),
    some (wFmt .amoAndSt),
    some (wFmt .amoAndMo),
    some (wFmt .amoAndPo),
    some (wFmt .amoAndSy),
    some (wFmt .amoOrCl),
    some (wFmt .amoOrSl) ]

/-- Major 0x5, codes 48 to 63 (R65, R148). -/
def rowsWord3 : List (Option (BitVec 32 → Result)) :=
  [ some (wFmt .amoOrSt),
    some (wFmt .amoOrMo),
    some (wFmt .amoOrPo),
    some (wFmt .amoOrSy),
    some (wFmt .amoSwapCl),
    some (wFmt .amoSwapSl),
    some (wFmt .amoSwapSt),
    some (wFmt .amoSwapMo),
    some (wFmt .amoSwapPo),
    some (wFmt .amoSwapSy),
    some (wFmt .amoCasCl),
    some (wFmt .amoCasSl),
    some (wFmt .amoCasSt),
    some (wFmt .amoCasMo),
    some (wFmt .amoCasPo),
    some (wFmt .amoCasSy) ]

/-- Major 0x5 (R64, R65, R148). -/
def rowsWord : List (Option (BitVec 32 → Result)) := rowsWord0 ++ rowsWord1 ++ rowsWord2 ++ rowsWord3

/-- Major 0x6, codes 0 to 15 (R65, R72, R148). -/
def rowsVec0 : List (Option (BitVec 32 → Result)) :=
  [ some (wFmt .vldEAdd),
    some (wFmt .vldEFadd),
    some (wFmt .vldEMin),
    some (wFmt .vldEMax),
    some (wFmt .vldEMinn),
    some (wFmt .vldEMaxn),
    some (wFmt .vldEAnd),
    some (wFmt .vldEOr),
    some (wFmt .vldEXor),
    some (wFmt .vstE),
    none,
    none,
    none,
    none,
    none,
    none ]

/-- Major 0x6, codes 16 to 31 (R65, R72, R148). -/
def rowsVec1 : List (Option (BitVec 32 → Result)) :=
  [ some (wFmt .vamoAddCl),
    some (wFmt .vamoAddSl),
    some (wFmt .vamoAddSt),
    some (wFmt .vamoAddMo),
    some (wFmt .vamoAddPo),
    some (wFmt .vamoAddSy),
    some (wFmt .vamoFaddCl),
    some (wFmt .vamoFaddSl),
    some (wFmt .vamoFaddSt),
    some (wFmt .vamoFaddMo),
    some (wFmt .vamoFaddPo),
    some (wFmt .vamoFaddSy),
    some (wFmt .vamoMinCl),
    some (wFmt .vamoMinSl),
    some (wFmt .vamoMinSt),
    some (wFmt .vamoMinMo) ]

/-- Major 0x6, codes 32 to 47 (R65, R72, R148). -/
def rowsVec2 : List (Option (BitVec 32 → Result)) :=
  [ some (wFmt .vamoMinPo),
    some (wFmt .vamoMinSy),
    some (wFmt .vamoMaxCl),
    some (wFmt .vamoMaxSl),
    some (wFmt .vamoMaxSt),
    some (wFmt .vamoMaxMo),
    some (wFmt .vamoMaxPo),
    some (wFmt .vamoMaxSy),
    some (wFmt .vamoAndCl),
    some (wFmt .vamoAndSl),
    some (wFmt .vamoAndSt),
    some (wFmt .vamoAndMo),
    some (wFmt .vamoAndPo),
    some (wFmt .vamoAndSy),
    some (wFmt .vamoOrCl),
    some (wFmt .vamoOrSl) ]

/-- Major 0x6, codes 48 to 52 (R65, R72, R148). -/
def rowsVec3 : List (Option (BitVec 32 → Result)) :=
  [ some (wFmt .vamoOrSt),
    some (wFmt .vamoOrMo),
    some (wFmt .vamoOrPo),
    some (wFmt .vamoOrSy),
    some (wFmt .vamoRetry) ]

/-- Major 0x6 (R64, R65, R72, R148). -/
def rowsVec : List (Option (BitVec 32 → Result)) := rowsVec0 ++ rowsVec1 ++ rowsVec2 ++ rowsVec3

/-- Major 0x7, codes 0 to 13 (R107, R116). -/
def rowsVctl : List (Option (BitVec 32 → Result)) :=
  [ some (rDAB .setvl),
    some (rMmm .mand),
    some (rMmm .mor),
    some (rMmm .mxor),
    some (rMmm .mandn),
    some (rMm .mnot),
    some (rMmA .mshl),
    some (rMmA .mshr),
    some (rXm .mpop),
    some (rXm .mfirst),
    some (rMp .mget),
    some (rMAA .mput),
    some (rMp .mset),
    some (rMp .mclr) ]

/-- Major 0x8, codes 0 to 15 (R118). -/
def rowsVint0 : List (Option (BitVec 32 → Result)) :=
  [ some (rV3 .vadd),
    some (rV3 .vsub),
    some (rCarry .vadc),
    some (rCarry .vsbc),
    some (rV3 .vmul),
    some (rV3 .vmulh),
    some (rV3 .vmulhn),
    some (rV3 .vmacc),
    some (rV3 .vand),
    some (rV3 .vor),
    some (rV3 .vxor),
    some (rV3 .vshl),
    some (rV3 .vshr),
    some (rV3 .vsar),
    some (rV3 .vmin),
    some (rV3 .vmax) ]

/-- Major 0x8, codes 16 to 29 (R118). -/
def rowsVint1 : List (Option (BitVec 32 → Result)) :=
  [ some (rV3 .vminn),
    some (rV3 .vmaxn),
    some (rV3m .vceq),
    some (rV3m .vcne),
    some (rV3m .vclt),
    some (rV3m .vcle),
    some (rV3m .vcltn),
    some (rV3m .vclen),
    some (rV3 .vsel),
    some (rV3 .vabsd),
    some (rV3 .vsadd),
    some (rV3 .vssub),
    some (rV3m .vgen),
    some (rV2 .vmov) ]

/-- Major 0x8 (R64, R118). -/
def rowsVint : List (Option (BitVec 32 → Result)) := rowsVint0 ++ rowsVint1

/-- Major 0x9, codes 0 to 15 (R120). -/
def rowsVfp0 : List (Option (BitVec 32 → Result)) :=
  [ some (rV3 .vfadd),
    some (rV3 .vfsub),
    some (rV3 .vfmul),
    some (rV3 .vfma),
    some (rV3 .vfms),
    some (rV3 .vfnma),
    some (rV3 .vfdiv),
    some (rV2 .vfsqrt),
    some (rV3 .vfmin),
    some (rV3 .vfmax),
    some (rV3m .vfceq),
    some (rV3m .vfclt),
    some (rV3m .vfcle),
    some (rV3m .vfcun),
    some (rV2 .vfabs),
    some (rV2 .vfneg) ]

/-- Major 0x9, codes 16 to 20 (R120). -/
def rowsVfp1 : List (Option (BitVec 32 → Result)) :=
  [ some (rV3 .vfsgn),
    some (rV2 .vfrecp),
    some (rV2 .vfrsqe),
    some (rV2 .vfclass),
    some (rV3 .vfscal) ]

/-- Major 0x9 (R64, R120). -/
def rowsVfp : List (Option (BitVec 32 → Result)) := rowsVfp0 ++ rowsVfp1

/-- Major 0xa, codes 0 to 7 (R138). -/
def rowsVmem : List (Option (BitVec 32 → Result)) :=
  [ some (mVm .vld),
    some (mVm .vlds),
    some (mVm .vldx),
    some (mVm .vst),
    some (mVm .vsts),
    some (mVm .vstx),
    some (mMem .vldq),
    some (mMem .vstq) ]

/-- Major 0xb, codes 0 to 15 (R124). -/
def rowsVxr0 : List (Option (BitVec 32 → Result)) :=
  [ some (rDABp .vxch),
    some (rDABp .vslup),
    some (rDABp .vsldn),
    some (rDAVp .vperm),
    some (rDAp .vcmpr),
    some (rDAp .vexpd),
    some (rDp .vrank),
    some (rDAp .vredsum),
    some (rDAp .vredmin),
    some (rDAp .vredmax),
    some (rDAp .vredand),
    some (rDAp .vredor),
    some (rDAp .vfredsum),
    some (rDAp .vfredmin),
    some (rDAp .vfredmax),
    some (rDAVp .vfdot) ]

/-- Major 0xb, codes 16 to 20 (R124). -/
def rowsVxr1 : List (Option (BitVec 32 → Result)) :=
  [ some (rDABp .vcvt),
    some (rDAB .vext),
    some (rDAB .vins),
    some (rDAMp .vvacc),
    some (rDABp .vrescl) ]

/-- Major 0xb (R64, R124). -/
def rowsVxr : List (Option (BitVec 32 → Result)) := rowsVxr0 ++ rowsVxr1

/-- Major 0xc, codes 0 to 15 (R202). -/
def rowsSpin0 : List (Option (BitVec 32 → Result)) :=
  [ some (rSAA .spOpen),
    some (rSAA .spBind),
    some (rSAS .spGath),
    some (rSSS .spIsect),
    some (rSSSk .spUnion),
    some (rSA .spSkip),
    some (rVSp .spCrd),
    some (rVSp .spPos),
    some (rASA .spTake),
    some (rSA .spSave),
    some (rSA .spRest),
    some (rDs .spClose),
    some (rMVVp .cxAcc),
    some (rVVMp .cxGet),
    some (rDs .cxDrain),
    some (rN .cxClr) ]

/-- Major 0xc, codes 16 to 19 (R202). -/
def rowsSpin1 : List (Option (BitVec 32 → Result)) :=
  [ some (rDABp .vprune),
    some (rA .grmBind),
    some (rAB .grmEval),
    some (rDABp .grmOut) ]

/-- Major 0xc (R64, R202). -/
def rowsSpin : List (Option (BitVec 32 → Result)) := rowsSpin0 ++ rowsSpin1

/-- Major 0xd, codes 0 to 10 (R225). -/
def rowsMx : List (Option (BitVec 32 → Result)) :=
  [ some (rDA .mxClaim),
    some (rA .mxRel),
    some (rA .mxZero),
    some (rZOO .mxMm),
    some (rZOOk .mxMms),
    some (rA .mxCfg),
    some (rA .mxCoop),
    some (rN .mxWait),
    some (rA .mxCvt),
    some (rOVAp .vto),
    some (rVZAp .vfrom) ]

/-- Major 0xe, codes 0 to 14 (R256, R351). -/
def rowsEng : List (Option (BitVec 32 → Result)) :=
  [ some (rAB .fork),
    some (rA .rdv),
    some (rDAch .dmaSg),
    some (rDABch .dmaLay),
    some (rAch .dmaWait),
    some (rDAch .dmaSt),
    some (rA .pub),
    some (rAB .barInit),
    some (rAB .barArr),
    some (rDAB .barWait),
    some (rDAnet .netSend),
    some (rDAnet .netMist),
    some (rDAnet .netFetch),
    some (rDAnet .netWait),
    some (rDA .tickWait) ]

/-- Format P (R57, R68): with `cv` = 0 the field creg is zero, and `pred` = 0 has `inv` = 0. -/
def pfxWord (x : BitVec 32) : Result :=
  need (fwt x == 0 && x.extractLsb' 0 14 == 0) .reserved
    (need (x.getLsbD 14 || fa x == 0) .reserved
      (need (x.extractLsb' 21 4 != 0 || !x.getLsbD 20) .badCode
        (.ok (.pfx (x.extractLsb' 21 4) (x.extractLsb' 20 1) (fa x) (x.extractLsb' 14 1)))))

/-- The row of a code, or a rejection (R66). -/
def row (rows : List (Option (BitVec 32 → Result))) (code : Nat) (x : BitVec 32) : Result :=
  match rows[code]? with
  | some (some f) => f x
  | _ => .error .unassigned


/-- The instruction of a word, by major and code (R64, R65), or a rejection by name (R66). -/
def word (x : BitVec 32) : Result :=
  if fmaj x = 0#4 then row rowsSys (ffn x).toNat x
  else if fmaj x = 1#4 then row rowsAlu (ffn x).toNat x
  else if fmaj x = 2#4 then row rowsAlui (ffnI x).toNat x
  else if fmaj x = 3#4 then row rowsBr (fcond x).toNat x
  else if fmaj x = 4#4 then row rowsMem (ffnM x).toNat x
  else if fmaj x = 5#4 then row rowsWord (ffn x).toNat x
  else if fmaj x = 6#4 then row rowsVec (ffn x).toNat x
  else if fmaj x = 7#4 then row rowsVctl (ffn x).toNat x
  else if fmaj x = 8#4 then row rowsVint (x.extractLsb' 0 5).toNat x
  else if fmaj x = 9#4 then row rowsVfp (x.extractLsb' 0 5).toNat x
  else if fmaj x = 10#4 then row rowsVmem (ffnM x).toNat x
  else if fmaj x = 11#4 then row rowsVxr (ffn x).toNat x
  else if fmaj x = 12#4 then row rowsSpin (ffn x).toNat x
  else if fmaj x = 13#4 then row rowsMx (ffn x).toNat x
  else if fmaj x = 14#4 then row rowsEng (ffn x).toNat x
  else pfxWord x


/-- The word of four bytes, little-endian (R5, R55). -/
def wordOf (b0 b1 b2 b3 : Byte) : BitVec 32 := b3 ++ b2 ++ b1 ++ b0

/-- Decode the instruction at the head of a byte list, giving the bytes that follow it. -/
def bytes : List Byte → Except DecodeError (Instr × List Byte)
  | b0 :: b1 :: b2 :: b3 :: rest =>
    match word (wordOf b0 b1 b2 b3) with
    | .ok i => .ok (i, rest)
    | .error e => .error e
  | _ => .error .short

end

end Decode

/-- The four bytes of a word as memory holds them, lowest address first (R5). -/
def wordBytes (x : BitVec 32) : List Byte :=
  [x.extractLsb' 0 8, x.extractLsb' 8 8, x.extractLsb' 16 8, x.extractLsb' 24 8]

/-- The instruction this decoder reads from a word given as a number of `nbits` bits. -/
noncomputable def decodeTableWord (nbits w : Nat) : Option Instr :=
  match Decode.bytes (wordBytes (BitVec.ofNat 32 (w % 2 ^ nbits))) with
  | .ok (i, _) => some i
  | .error _ => none

namespace Encode

/-- Format R (R57). -/
def fmtR (maj : BitVec 4) (fn : BitVec 6) (w : BitVec 3) (d a b : BitVec 5) (q : BitVec 1) (p : BitVec 3) :
    BitVec 32 := w ++ maj ++ d ++ a ++ b ++ q ++ p ++ fn
/-- Format I (R57). -/
def fmtI (fn : BitVec 3) (w : BitVec 3) (d a : BitVec 5) (imm : BitVec 12) : BitVec 32 :=
  w ++ 2#4 ++ d ++ a ++ fn ++ imm
/-- Format B, cond 0-6 (R57). -/
def fmtB (cond : BitVec 3) (w : BitVec 3) (a b : BitVec 5) (off : BitVec 12) : BitVec 32 :=
  w ++ 3#4 ++ cond ++ a ++ b ++ off
/-- Format B, cond 7 (R57). -/
def fmtJ (w : BitVec 3) (d : BitVec 5) (off : BitVec 17) : BitVec 32 := w ++ 3#4 ++ 7#3 ++ d ++ off
/-- Format M (R57). -/
def fmtM (maj : BitVec 4) (fn : BitVec 3) (w : BitVec 3) (d a b : BitVec 5) (cls : BitVec 4) (p : BitVec 3) :
    BitVec 32 := w ++ maj ++ d ++ a ++ b ++ cls ++ p ++ fn
/-- Format W (R57). -/
def fmtW (maj : BitVec 4) (fn : BitVec 6) (w : BitVec 3) (d a b : BitVec 5) (cls : BitVec 4) : BitVec 32 :=
  w ++ maj ++ d ++ a ++ b ++ cls ++ fn
/-- Format P (R57). -/
def fmtP (pred : BitVec 4) (inv : BitVec 1) (creg : BitVec 5) (cv : BitVec 1) : BitVec 32 :=
  0#3 ++ 15#4 ++ pred ++ inv ++ creg ++ cv ++ 0#14
/-- A 16-register field in its five bits (R58). -/
def w4 (r : BitVec 4) : BitVec 5 := 0#1 ++ r
/-- A tile field in its five bits (R58). -/
def w2 (r : BitVec 2) : BitVec 5 := 0#3 ++ r
/-- Field b of operand b (R59). -/
def vb : VOp → BitVec 5
  | .vec r => r
  | .str s => w4 s
  | .sca r => r
/-- Field q of operand b (R59). -/
def vq : VOp → BitVec 1
  | .str _ => 1#1
  | _ => 0#1
/-- fn of a VINT or VFP form: bit 5 says that b is a scalar (R61). -/
def vfn (fn : BitVec 5) : VOp → BitVec 6
  | .sca _ => 1#1 ++ fn
  | _ => 0#1 ++ fn

end Encode


open Encode in
/-- The word of a well-formed instruction (R57-R65); a step that is no word has none. -/
def encode : Instr → Option (BitVec 32)
  | .nop w => some (fmtR 0#4 0#6 w 0#5 0#5 0#5 0#1 0#3)
  | .jr w a => some (fmtR 0#4 1#6 w 0#5 a 0#5 0#1 0#3)
  | .svc w code => some (fmtR 0#4 2#6 w (code.extractLsb' 5 5) 0#5 (code.extractLsb' 0 5) 0#1 0#3)
  | .tret w => some (fmtR 0#4 3#6 w 0#5 0#5 0#5 0#1 0#3)
  | .brk w code => some (fmtR 0#4 4#6 w (code.extractLsb' 5 5) 0#5 (code.extractLsb' 0 5) 0#1 0#3)
  | .halt w => some (fmtR 0#4 5#6 w 0#5 0#5 0#5 0#1 0#3)
  | .mfc w d csr => some (fmtR 0#4 6#6 w d (csr.extractLsb' 5 5) (csr.extractLsb' 0 5) 0#1 0#3)
  | .mtc w d csr => some (fmtR 0#4 7#6 w d (csr.extractLsb' 5 5) (csr.extractLsb' 0 5) 0#1 0#3)
  | .mtcHctl w d => some (fmtR 0#4 7#6 w d 0#5 0#5 0#1 0#3)
  | .mtcVl w d => some (fmtR 0#4 7#6 w d 0#5 1#5 0#1 0#3)
  | .mtcVtype w d => some (fmtR 0#4 7#6 w d 0#5 2#5 0#1 0#3)
  | .mtcEstart w d => some (fmtR 0#4 7#6 w d 0#5 3#5 0#1 0#3)
  | .mtcBstp w d => some (fmtR 0#4 7#6 w d 4#5 17#5 0#1 0#3)
  | .fenceC w a sc => some (fmtR 0#4 8#6 w 0#5 a sc 0#1 0#3)
  | .fenceAll w sc => some (fmtR 0#4 9#6 w 0#5 0#5 sc 0#1 0#3)
  | .wfe w d a b => some (fmtR 0#4 10#6 w d a b 0#1 0#3)
  | .rdtime w d => some (fmtR 0#4 11#6 w d 0#5 0#5 0#1 0#3)
  | .rdcyc w d => some (fmtR 0#4 12#6 w d 0#5 0#5 0#1 0#3)
  | .ctxSave w a => some (fmtR 0#4 13#6 w 0#5 a 0#5 0#1 0#3)
  | .ctxLoad w a => some (fmtR 0#4 14#6 w 0#5 a 0#5 0#1 0#3)
  | .tlbInv w a b => some (fmtR 0#4 15#6 w 0#5 a b 0#1 0#3)
  | .wait w n => some (fmtR 0#4 16#6 w 0#5 0#5 n 0#1 0#3)
  | .lanemap w a => some (fmtR 0#4 17#6 w 0#5 a 0#5 0#1 0#3)
  | .add w d a b => some (fmtR 1#4 0#6 w d a b 0#1 0#3)
  | .sub w d a b => some (fmtR 1#4 1#6 w d a b 0#1 0#3)
  | .and w d a b => some (fmtR 1#4 2#6 w d a b 0#1 0#3)
  | .or w d a b => some (fmtR 1#4 3#6 w d a b 0#1 0#3)
  | .xor w d a b => some (fmtR 1#4 4#6 w d a b 0#1 0#3)
  | .andn w d a b => some (fmtR 1#4 5#6 w d a b 0#1 0#3)
  | .shl w d a b => some (fmtR 1#4 6#6 w d a b 0#1 0#3)
  | .shr w d a b => some (fmtR 1#4 7#6 w d a b 0#1 0#3)
  | .sar w d a b => some (fmtR 1#4 8#6 w d a b 0#1 0#3)
  | .rol w d a b => some (fmtR 1#4 9#6 w d a b 0#1 0#3)
  | .slt w d a b => some (fmtR 1#4 10#6 w d a b 0#1 0#3)
  | .sltn w d a b => some (fmtR 1#4 11#6 w d a b 0#1 0#3)
  | .min w d a b => some (fmtR 1#4 12#6 w d a b 0#1 0#3)
  | .max w d a b => some (fmtR 1#4 13#6 w d a b 0#1 0#3)
  | .minn w d a b => some (fmtR 1#4 14#6 w d a b 0#1 0#3)
  | .maxn w d a b => some (fmtR 1#4 15#6 w d a b 0#1 0#3)
  | .mul w d a b => some (fmtR 1#4 16#6 w d a b 0#1 0#3)
  | .mulh w d a b => some (fmtR 1#4 17#6 w d a b 0#1 0#3)
  | .mulhn w d a b => some (fmtR 1#4 18#6 w d a b 0#1 0#3)
  | .div w d a b => some (fmtR 1#4 19#6 w d a b 0#1 0#3)
  | .divn w d a b => some (fmtR 1#4 20#6 w d a b 0#1 0#3)
  | .rem w d a b => some (fmtR 1#4 21#6 w d a b 0#1 0#3)
  | .remn w d a b => some (fmtR 1#4 22#6 w d a b 0#1 0#3)
  | .clz w d a => some (fmtR 1#4 23#6 w d a 0#5 0#1 0#3)
  | .ctz w d a => some (fmtR 1#4 24#6 w d a 0#5 0#1 0#3)
  | .popc w d a => some (fmtR 1#4 25#6 w d a 0#5 0#1 0#3)
  | .sext w d a k => some (fmtR 1#4 26#6 w d a k 0#1 0#3)
  | .zext w d a k => some (fmtR 1#4 27#6 w d a k 0#1 0#3)
  | .addi w d a imm => some (fmtI 0#3 w d a imm)
  | .andi w d a imm => some (fmtI 1#3 w d a imm)
  | .ori w d a imm => some (fmtI 2#3 w d a imm)
  | .xori w d a imm => some (fmtI 3#3 w d a imm)
  | .shli w d a sh => some (fmtI 4#3 w d a (0#6 ++ sh))
  | .shri w d a sh => some (fmtI 5#3 w d a (0#6 ++ sh))
  | .sari w d a sh => some (fmtI 6#3 w d a (0#6 ++ sh))
  | .ldk w d k imm => some (fmtI 7#3 w d k imm)
  | .beq w a b off => some (fmtB 0#3 w a b off)
  | .bne w a b off => some (fmtB 1#3 w a b off)
  | .blt w a b off => some (fmtB 2#3 w a b off)
  | .bge w a b off => some (fmtB 3#3 w a b off)
  | .bltn w a b off => some (fmtB 4#3 w a b off)
  | .bgen w a b off => some (fmtB 5#3 w a b off)
  | .ssb w a b off => some (fmtB 6#3 w a b off)
  | .jal w d off => some (fmtJ w d off)
  | .ldB w d a b c => some (fmtM 4#4 0#3 w d a b c 0#3)
  | .ldH w d a b c => some (fmtM 4#4 1#3 w d a b c 0#3)
  | .ldW w d a b c => some (fmtM 4#4 2#3 w d a b c 0#3)
  | .ldD w d a b c => some (fmtM 4#4 3#3 w d a b c 0#3)
  | .stB w d a b c => some (fmtM 4#4 4#3 w d a b c 0#3)
  | .stH w d a b c => some (fmtM 4#4 5#3 w d a b c 0#3)
  | .stW w d a b c => some (fmtM 4#4 6#3 w d a b c 0#3)
  | .stD w d a b c => some (fmtM 4#4 7#3 w d a b c 0#3)
  | .ldEAdd w d a b c => some (fmtW 5#4 0#6 w d a b c)
  | .ldEFadd w d a b c => some (fmtW 5#4 1#6 w d a b c)
  | .ldEMin w d a b c => some (fmtW 5#4 2#6 w d a b c)
  | .ldEMax w d a b c => some (fmtW 5#4 3#6 w d a b c)
  | .ldEMinn w d a b c => some (fmtW 5#4 4#6 w d a b c)
  | .ldEMaxn w d a b c => some (fmtW 5#4 5#6 w d a b c)
  | .ldEAnd w d a b c => some (fmtW 5#4 6#6 w d a b c)
  | .ldEOr w d a b c => some (fmtW 5#4 7#6 w d a b c)
  | .ldEXor w d a b c => some (fmtW 5#4 8#6 w d a b c)
  | .stE w d a b c => some (fmtW 5#4 9#6 w d a b c)
  | .amoEAdd w d a b c => some (fmtW 5#4 10#6 w d a b c)
  | .amoEOr w d a b c => some (fmtW 5#4 11#6 w d a b c)
  | .amoEAnd w d a b c => some (fmtW 5#4 12#6 w d a b c)
  | .amoEMax w d a b c => some (fmtW 5#4 13#6 w d a b c)
  | .amoAddCl w d a b c => some (fmtW 5#4 16#6 w d a b c)
  | .amoAddSl w d a b c => some (fmtW 5#4 17#6 w d a b c)
  | .amoAddSt w d a b c => some (fmtW 5#4 18#6 w d a b c)
  | .amoAddMo w d a b c => some (fmtW 5#4 19#6 w d a b c)
  | .amoAddPo w d a b c => some (fmtW 5#4 20#6 w d a b c)
  | .amoAddSy w d a b c => some (fmtW 5#4 21#6 w d a b c)
  | .amoFaddCl w d a b c => some (fmtW 5#4 22#6 w d a b c)
  | .amoFaddSl w d a b c => some (fmtW 5#4 23#6 w d a b c)
  | .amoFaddSt w d a b c => some (fmtW 5#4 24#6 w d a b c)
  | .amoFaddMo w d a b c => some (fmtW 5#4 25#6 w d a b c)
  | .amoFaddPo w d a b c => some (fmtW 5#4 26#6 w d a b c)
  | .amoFaddSy w d a b c => some (fmtW 5#4 27#6 w d a b c)
  | .amoMinCl w d a b c => some (fmtW 5#4 28#6 w d a b c)
  | .amoMinSl w d a b c => some (fmtW 5#4 29#6 w d a b c)
  | .amoMinSt w d a b c => some (fmtW 5#4 30#6 w d a b c)
  | .amoMinMo w d a b c => some (fmtW 5#4 31#6 w d a b c)
  | .amoMinPo w d a b c => some (fmtW 5#4 32#6 w d a b c)
  | .amoMinSy w d a b c => some (fmtW 5#4 33#6 w d a b c)
  | .amoMaxCl w d a b c => some (fmtW 5#4 34#6 w d a b c)
  | .amoMaxSl w d a b c => some (fmtW 5#4 35#6 w d a b c)
  | .amoMaxSt w d a b c => some (fmtW 5#4 36#6 w d a b c)
  | .amoMaxMo w d a b c => some (fmtW 5#4 37#6 w d a b c)
  | .amoMaxPo w d a b c => some (fmtW 5#4 38#6 w d a b c)
  | .amoMaxSy w d a b c => some (fmtW 5#4 39#6 w d a b c)
  | .amoAndCl w d a b c => some (fmtW 5#4 40#6 w d a b c)
  | .amoAndSl w d a b c => some (fmtW 5#4 41#6 w d a b c)
  | .amoAndSt w d a b c => some (fmtW 5#4 42#6 w d a b c)
  | .amoAndMo w d a b c => some (fmtW 5#4 43#6 w d a b c)
  | .amoAndPo w d a b c => some (fmtW 5#4 44#6 w d a b c)
  | .amoAndSy w d a b c => some (fmtW 5#4 45#6 w d a b c)
  | .amoOrCl w d a b c => some (fmtW 5#4 46#6 w d a b c)
  | .amoOrSl w d a b c => some (fmtW 5#4 47#6 w d a b c)
  | .amoOrSt w d a b c => some (fmtW 5#4 48#6 w d a b c)
  | .amoOrMo w d a b c => some (fmtW 5#4 49#6 w d a b c)
  | .amoOrPo w d a b c => some (fmtW 5#4 50#6 w d a b c)
  | .amoOrSy w d a b c => some (fmtW 5#4 51#6 w d a b c)
  | .amoSwapCl w d a b c => some (fmtW 5#4 52#6 w d a b c)
  | .amoSwapSl w d a b c => some (fmtW 5#4 53#6 w d a b c)
  | .amoSwapSt w d a b c => some (fmtW 5#4 54#6 w d a b c)
  | .amoSwapMo w d a b c => some (fmtW 5#4 55#6 w d a b c)
  | .amoSwapPo w d a b c => some (fmtW 5#4 56#6 w d a b c)
  | .amoSwapSy w d a b c => some (fmtW 5#4 57#6 w d a b c)
  | .amoCasCl w d a b c => some (fmtW 5#4 58#6 w d a b c)
  | .amoCasSl w d a b c => some (fmtW 5#4 59#6 w d a b c)
  | .amoCasSt w d a b c => some (fmtW 5#4 60#6 w d a b c)
  | .amoCasMo w d a b c => some (fmtW 5#4 61#6 w d a b c)
  | .amoCasPo w d a b c => some (fmtW 5#4 62#6 w d a b c)
  | .amoCasSy w d a b c => some (fmtW 5#4 63#6 w d a b c)
  | .vldEAdd w d a b c => some (fmtW 6#4 0#6 w d a b c)
  | .vldEFadd w d a b c => some (fmtW 6#4 1#6 w d a b c)
  | .vldEMin w d a b c => some (fmtW 6#4 2#6 w d a b c)
  | .vldEMax w d a b c => some (fmtW 6#4 3#6 w d a b c)
  | .vldEMinn w d a b c => some (fmtW 6#4 4#6 w d a b c)
  | .vldEMaxn w d a b c => some (fmtW 6#4 5#6 w d a b c)
  | .vldEAnd w d a b c => some (fmtW 6#4 6#6 w d a b c)
  | .vldEOr w d a b c => some (fmtW 6#4 7#6 w d a b c)
  | .vldEXor w d a b c => some (fmtW 6#4 8#6 w d a b c)
  | .vstE w d a b c => some (fmtW 6#4 9#6 w d a b c)
  | .vamoAddCl w d a b c => some (fmtW 6#4 16#6 w d a b c)
  | .vamoAddSl w d a b c => some (fmtW 6#4 17#6 w d a b c)
  | .vamoAddSt w d a b c => some (fmtW 6#4 18#6 w d a b c)
  | .vamoAddMo w d a b c => some (fmtW 6#4 19#6 w d a b c)
  | .vamoAddPo w d a b c => some (fmtW 6#4 20#6 w d a b c)
  | .vamoAddSy w d a b c => some (fmtW 6#4 21#6 w d a b c)
  | .vamoFaddCl w d a b c => some (fmtW 6#4 22#6 w d a b c)
  | .vamoFaddSl w d a b c => some (fmtW 6#4 23#6 w d a b c)
  | .vamoFaddSt w d a b c => some (fmtW 6#4 24#6 w d a b c)
  | .vamoFaddMo w d a b c => some (fmtW 6#4 25#6 w d a b c)
  | .vamoFaddPo w d a b c => some (fmtW 6#4 26#6 w d a b c)
  | .vamoFaddSy w d a b c => some (fmtW 6#4 27#6 w d a b c)
  | .vamoMinCl w d a b c => some (fmtW 6#4 28#6 w d a b c)
  | .vamoMinSl w d a b c => some (fmtW 6#4 29#6 w d a b c)
  | .vamoMinSt w d a b c => some (fmtW 6#4 30#6 w d a b c)
  | .vamoMinMo w d a b c => some (fmtW 6#4 31#6 w d a b c)
  | .vamoMinPo w d a b c => some (fmtW 6#4 32#6 w d a b c)
  | .vamoMinSy w d a b c => some (fmtW 6#4 33#6 w d a b c)
  | .vamoMaxCl w d a b c => some (fmtW 6#4 34#6 w d a b c)
  | .vamoMaxSl w d a b c => some (fmtW 6#4 35#6 w d a b c)
  | .vamoMaxSt w d a b c => some (fmtW 6#4 36#6 w d a b c)
  | .vamoMaxMo w d a b c => some (fmtW 6#4 37#6 w d a b c)
  | .vamoMaxPo w d a b c => some (fmtW 6#4 38#6 w d a b c)
  | .vamoMaxSy w d a b c => some (fmtW 6#4 39#6 w d a b c)
  | .vamoAndCl w d a b c => some (fmtW 6#4 40#6 w d a b c)
  | .vamoAndSl w d a b c => some (fmtW 6#4 41#6 w d a b c)
  | .vamoAndSt w d a b c => some (fmtW 6#4 42#6 w d a b c)
  | .vamoAndMo w d a b c => some (fmtW 6#4 43#6 w d a b c)
  | .vamoAndPo w d a b c => some (fmtW 6#4 44#6 w d a b c)
  | .vamoAndSy w d a b c => some (fmtW 6#4 45#6 w d a b c)
  | .vamoOrCl w d a b c => some (fmtW 6#4 46#6 w d a b c)
  | .vamoOrSl w d a b c => some (fmtW 6#4 47#6 w d a b c)
  | .vamoOrSt w d a b c => some (fmtW 6#4 48#6 w d a b c)
  | .vamoOrMo w d a b c => some (fmtW 6#4 49#6 w d a b c)
  | .vamoOrPo w d a b c => some (fmtW 6#4 50#6 w d a b c)
  | .vamoOrSy w d a b c => some (fmtW 6#4 51#6 w d a b c)
  | .vamoRetry w d a b c => some (fmtW 6#4 52#6 w d a b c)
  | .setvl w d a b => some (fmtR 7#4 0#6 w d a b 0#1 0#3)
  | .mand w d a b p => some (fmtR 7#4 1#6 w (w4 d) (w4 a) (w4 b) 0#1 p)
  | .mor w d a b p => some (fmtR 7#4 2#6 w (w4 d) (w4 a) (w4 b) 0#1 p)
  | .mxor w d a b p => some (fmtR 7#4 3#6 w (w4 d) (w4 a) (w4 b) 0#1 p)
  | .mandn w d a b p => some (fmtR 7#4 4#6 w (w4 d) (w4 a) (w4 b) 0#1 p)
  | .mnot w d a p => some (fmtR 7#4 5#6 w (w4 d) (w4 a) 0#5 0#1 p)
  | .mshl w d a b => some (fmtR 7#4 6#6 w (w4 d) (w4 a) b 0#1 0#3)
  | .mshr w d a b => some (fmtR 7#4 7#6 w (w4 d) (w4 a) b 0#1 0#3)
  | .mpop w d a p => some (fmtR 7#4 8#6 w d (w4 a) 0#5 0#1 p)
  | .mfirst w d a p => some (fmtR 7#4 9#6 w d (w4 a) 0#5 0#1 p)
  | .mget w d p => some (fmtR 7#4 10#6 w (w4 d) 0#5 0#5 0#1 p)
  | .mput w d a b => some (fmtR 7#4 11#6 w (w4 d) a b 0#1 0#3)
  | .mset w d p => some (fmtR 7#4 12#6 w (w4 d) 0#5 0#5 0#1 p)
  | .mclr w d p => some (fmtR 7#4 13#6 w (w4 d) 0#5 0#5 0#1 p)
  | .vadd w d a b p => some (fmtR 8#4 (vfn 0#5 b) w d a (vb b) (vq b) p)
  | .vsub w d a b p => some (fmtR 8#4 (vfn 1#5 b) w d a (vb b) (vq b) p)
  | .vadc w d a b k => some (fmtR 8#4 (vfn 2#5 b) w d a (vb b) (vq b) k)
  | .vsbc w d a b k => some (fmtR 8#4 (vfn 3#5 b) w d a (vb b) (vq b) k)
  | .vmul w d a b p => some (fmtR 8#4 (vfn 4#5 b) w d a (vb b) (vq b) p)
  | .vmulh w d a b p => some (fmtR 8#4 (vfn 5#5 b) w d a (vb b) (vq b) p)
  | .vmulhn w d a b p => some (fmtR 8#4 (vfn 6#5 b) w d a (vb b) (vq b) p)
  | .vmacc w d a b p => some (fmtR 8#4 (vfn 7#5 b) w d a (vb b) (vq b) p)
  | .vand w d a b p => some (fmtR 8#4 (vfn 8#5 b) w d a (vb b) (vq b) p)
  | .vor w d a b p => some (fmtR 8#4 (vfn 9#5 b) w d a (vb b) (vq b) p)
  | .vxor w d a b p => some (fmtR 8#4 (vfn 10#5 b) w d a (vb b) (vq b) p)
  | .vshl w d a b p => some (fmtR 8#4 (vfn 11#5 b) w d a (vb b) (vq b) p)
  | .vshr w d a b p => some (fmtR 8#4 (vfn 12#5 b) w d a (vb b) (vq b) p)
  | .vsar w d a b p => some (fmtR 8#4 (vfn 13#5 b) w d a (vb b) (vq b) p)
  | .vmin w d a b p => some (fmtR 8#4 (vfn 14#5 b) w d a (vb b) (vq b) p)
  | .vmax w d a b p => some (fmtR 8#4 (vfn 15#5 b) w d a (vb b) (vq b) p)
  | .vminn w d a b p => some (fmtR 8#4 (vfn 16#5 b) w d a (vb b) (vq b) p)
  | .vmaxn w d a b p => some (fmtR 8#4 (vfn 17#5 b) w d a (vb b) (vq b) p)
  | .vceq w d a b p => some (fmtR 8#4 (vfn 18#5 b) w (w4 d) a (vb b) (vq b) p)
  | .vcne w d a b p => some (fmtR 8#4 (vfn 19#5 b) w (w4 d) a (vb b) (vq b) p)
  | .vclt w d a b p => some (fmtR 8#4 (vfn 20#5 b) w (w4 d) a (vb b) (vq b) p)
  | .vcle w d a b p => some (fmtR 8#4 (vfn 21#5 b) w (w4 d) a (vb b) (vq b) p)
  | .vcltn w d a b p => some (fmtR 8#4 (vfn 22#5 b) w (w4 d) a (vb b) (vq b) p)
  | .vclen w d a b p => some (fmtR 8#4 (vfn 23#5 b) w (w4 d) a (vb b) (vq b) p)
  | .vsel w d a b p => some (fmtR 8#4 (vfn 24#5 b) w d a (vb b) (vq b) p)
  | .vabsd w d a b p => some (fmtR 8#4 (vfn 25#5 b) w d a (vb b) (vq b) p)
  | .vsadd w d a b p => some (fmtR 8#4 (vfn 26#5 b) w d a (vb b) (vq b) p)
  | .vssub w d a b p => some (fmtR 8#4 (vfn 27#5 b) w d a (vb b) (vq b) p)
  | .vgen w d a b p => some (fmtR 8#4 (vfn 28#5 b) w (w4 d) a (vb b) (vq b) p)
  | .vmov w d b p => some (fmtR 8#4 (vfn 29#5 b) w d 0#5 (vb b) (vq b) p)
  | .vfadd w d a b p => some (fmtR 9#4 (vfn 0#5 b) w d a (vb b) (vq b) p)
  | .vfsub w d a b p => some (fmtR 9#4 (vfn 1#5 b) w d a (vb b) (vq b) p)
  | .vfmul w d a b p => some (fmtR 9#4 (vfn 2#5 b) w d a (vb b) (vq b) p)
  | .vfma w d a b p => some (fmtR 9#4 (vfn 3#5 b) w d a (vb b) (vq b) p)
  | .vfms w d a b p => some (fmtR 9#4 (vfn 4#5 b) w d a (vb b) (vq b) p)
  | .vfnma w d a b p => some (fmtR 9#4 (vfn 5#5 b) w d a (vb b) (vq b) p)
  | .vfdiv w d a b p => some (fmtR 9#4 (vfn 6#5 b) w d a (vb b) (vq b) p)
  | .vfsqrt w d b p => some (fmtR 9#4 (vfn 7#5 b) w d 0#5 (vb b) (vq b) p)
  | .vfmin w d a b p => some (fmtR 9#4 (vfn 8#5 b) w d a (vb b) (vq b) p)
  | .vfmax w d a b p => some (fmtR 9#4 (vfn 9#5 b) w d a (vb b) (vq b) p)
  | .vfceq w d a b p => some (fmtR 9#4 (vfn 10#5 b) w (w4 d) a (vb b) (vq b) p)
  | .vfclt w d a b p => some (fmtR 9#4 (vfn 11#5 b) w (w4 d) a (vb b) (vq b) p)
  | .vfcle w d a b p => some (fmtR 9#4 (vfn 12#5 b) w (w4 d) a (vb b) (vq b) p)
  | .vfcun w d a b p => some (fmtR 9#4 (vfn 13#5 b) w (w4 d) a (vb b) (vq b) p)
  | .vfabs w d b p => some (fmtR 9#4 (vfn 14#5 b) w d 0#5 (vb b) (vq b) p)
  | .vfneg w d b p => some (fmtR 9#4 (vfn 15#5 b) w d 0#5 (vb b) (vq b) p)
  | .vfsgn w d a b p => some (fmtR 9#4 (vfn 16#5 b) w d a (vb b) (vq b) p)
  | .vfrecp w d b p => some (fmtR 9#4 (vfn 17#5 b) w d 0#5 (vb b) (vq b) p)
  | .vfrsqe w d b p => some (fmtR 9#4 (vfn 18#5 b) w d 0#5 (vb b) (vq b) p)
  | .vfclass w d b p => some (fmtR 9#4 (vfn 19#5 b) w d 0#5 (vb b) (vq b) p)
  | .vfscal w d a b p => some (fmtR 9#4 (vfn 20#5 b) w d a (vb b) (vq b) p)
  | .vld w d a b c p => some (fmtM 10#4 0#3 w d a b c p)
  | .vlds w d a b c p => some (fmtM 10#4 1#3 w d a b c p)
  | .vldx w d a b c p => some (fmtM 10#4 2#3 w d a b c p)
  | .vst w d a b c p => some (fmtM 10#4 3#3 w d a b c p)
  | .vsts w d a b c p => some (fmtM 10#4 4#3 w d a b c p)
  | .vstx w d a b c p => some (fmtM 10#4 5#3 w d a b c p)
  | .vldq w d a b c => some (fmtM 10#4 6#3 w d a b c 0#3)
  | .vstq w d a b c => some (fmtM 10#4 7#3 w d a b c 0#3)
  | .vxch w d a b p => some (fmtR 11#4 0#6 w d a b 0#1 p)
  | .vslup w d a b p => some (fmtR 11#4 1#6 w d a b 0#1 p)
  | .vsldn w d a b p => some (fmtR 11#4 2#6 w d a b 0#1 p)
  | .vperm w d a b p => some (fmtR 11#4 3#6 w d a (vb b) (vq b) p)
  | .vcmpr w d a p => some (fmtR 11#4 4#6 w d a 0#5 0#1 p)
  | .vexpd w d a p => some (fmtR 11#4 5#6 w d a 0#5 0#1 p)
  | .vrank w d p => some (fmtR 11#4 6#6 w d 0#5 0#5 0#1 p)
  | .vredsum w d a p => some (fmtR 11#4 7#6 w d a 0#5 0#1 p)
  | .vredmin w d a p => some (fmtR 11#4 8#6 w d a 0#5 0#1 p)
  | .vredmax w d a p => some (fmtR 11#4 9#6 w d a 0#5 0#1 p)
  | .vredand w d a p => some (fmtR 11#4 10#6 w d a 0#5 0#1 p)
  | .vredor w d a p => some (fmtR 11#4 11#6 w d a 0#5 0#1 p)
  | .vfredsum w d a p => some (fmtR 11#4 12#6 w d a 0#5 0#1 p)
  | .vfredmin w d a p => some (fmtR 11#4 13#6 w d a 0#5 0#1 p)
  | .vfredmax w d a p => some (fmtR 11#4 14#6 w d a 0#5 0#1 p)
  | .vfdot w d a b p => some (fmtR 11#4 15#6 w d a (vb b) (vq b) p)
  | .vcvt w d a b p => some (fmtR 11#4 16#6 w d a b 0#1 p)
  | .vext w d a b => some (fmtR 11#4 17#6 w d a b 0#1 0#3)
  | .vins w d a b => some (fmtR 11#4 18#6 w d a b 0#1 0#3)
  | .vvacc w d a b p => some (fmtR 11#4 19#6 w d a (w4 b) 0#1 p)
  | .vrescl w d a b p => some (fmtR 11#4 20#6 w d a b 0#1 p)
  | .spOpen w d a b => some (fmtR 12#4 0#6 w (w4 d) a b 0#1 0#3)
  | .spBind w d a b => some (fmtR 12#4 1#6 w (w4 d) a b 0#1 0#3)
  | .spGath w d a b => some (fmtR 12#4 2#6 w (w4 d) a (w4 b) 0#1 0#3)
  | .spIsect w d a b => some (fmtR 12#4 3#6 w (w4 d) (w4 a) (w4 b) 0#1 0#3)
  | .spUnion w d a b k => some (fmtR 12#4 4#6 w (w4 d) (w4 a) (w4 b) 0#1 k)
  | .spSkip w d a => some (fmtR 12#4 5#6 w (w4 d) a 0#5 0#1 0#3)
  | .spCrd w d a p => some (fmtR 12#4 6#6 w d (w4 a) 0#5 0#1 p)
  | .spPos w d a p => some (fmtR 12#4 7#6 w d (w4 a) 0#5 0#1 p)
  | .spTake w d a b => some (fmtR 12#4 8#6 w d (w4 a) b 0#1 0#3)
  | .spSave w d a => some (fmtR 12#4 9#6 w (w4 d) a 0#5 0#1 0#3)
  | .spRest w d a => some (fmtR 12#4 10#6 w (w4 d) a 0#5 0#1 0#3)
  | .spClose w d => some (fmtR 12#4 11#6 w (w4 d) 0#5 0#5 0#1 0#3)
  | .cxAcc w d a b p => some (fmtR 12#4 12#6 w (w4 d) a (vb b) (vq b) p)
  | .cxGet w d a b p => some (fmtR 12#4 13#6 w d a (w4 b) 0#1 p)
  | .cxDrain w d => some (fmtR 12#4 14#6 w (w4 d) 0#5 0#5 0#1 0#3)
  | .cxClr w => some (fmtR 12#4 15#6 w 0#5 0#5 0#5 0#1 0#3)
  | .vprune w d a b p => some (fmtR 12#4 16#6 w d a b 0#1 p)
  | .grmBind w a => some (fmtR 12#4 17#6 w 0#5 a 0#5 0#1 0#3)
  | .grmEval w a b => some (fmtR 12#4 18#6 w 0#5 a b 0#1 0#3)
  | .grmOut w d a b p => some (fmtR 12#4 19#6 w d a b 0#1 p)
  | .mxClaim w d a => some (fmtR 13#4 0#6 w d a 0#5 0#1 0#3)
  | .mxRel w a => some (fmtR 13#4 1#6 w 0#5 a 0#5 0#1 0#3)
  | .mxZero w a => some (fmtR 13#4 2#6 w 0#5 a 0#5 0#1 0#3)
  | .mxMm w d a b => some (fmtR 13#4 3#6 w (w2 d) (w4 a) (w4 b) 0#1 0#3)
  | .mxMms w d a b k => some (fmtR 13#4 4#6 w (w2 d) (w4 a) (w4 b) 0#1 k)
  | .mxCfg w a => some (fmtR 13#4 5#6 w 0#5 a 0#5 0#1 0#3)
  | .mxCoop w a => some (fmtR 13#4 6#6 w 0#5 a 0#5 0#1 0#3)
  | .mxWait w => some (fmtR 13#4 7#6 w 0#5 0#5 0#5 0#1 0#3)
  | .mxCvt w a => some (fmtR 13#4 8#6 w 0#5 a 0#5 0#1 0#3)
  | .vto w d a b p => some (fmtR 13#4 9#6 w (w4 d) a b 0#1 p)
  | .vfrom w d a b p => some (fmtR 13#4 10#6 w d (w2 a) b 0#1 p)
  | .fork w a b => some (fmtR 14#4 0#6 w 0#5 a b 0#1 0#3)
  | .rdv w a => some (fmtR 14#4 1#6 w 0#5 a 0#5 0#1 0#3)
  | .dmaSg w d a ch => some (fmtR 14#4 2#6 w d a 0#5 0#1 ch)
  | .dmaLay w d a b ch => some (fmtR 14#4 3#6 w d a b 0#1 ch)
  | .dmaWait w a ch => some (fmtR 14#4 4#6 w 0#5 a 0#5 0#1 ch)
  | .dmaSt w d a ch => some (fmtR 14#4 5#6 w d a 0#5 0#1 ch)
  | .pub w a => some (fmtR 14#4 6#6 w 0#5 a 0#5 0#1 0#3)
  | .barInit w a b => some (fmtR 14#4 7#6 w 0#5 a b 0#1 0#3)
  | .barArr w a b => some (fmtR 14#4 8#6 w 0#5 a b 0#1 0#3)
  | .barWait w d a b => some (fmtR 14#4 9#6 w d a b 0#1 0#3)
  | .netSend w d a ch => some (fmtR 14#4 10#6 w d a 0#5 0#1 ch)
  | .netMist w d a ch => some (fmtR 14#4 11#6 w d a 0#5 0#1 ch)
  | .netFetch w d a ch => some (fmtR 14#4 12#6 w d a 0#5 0#1 ch)
  | .netWait w d a ch => some (fmtR 14#4 13#6 w d a 0#5 0#1 ch)
  | .tickWait w d a => some (fmtR 14#4 14#6 w d a 0#5 0#1 0#3)
  | .pfx pred inv creg cv => some (fmtP pred inv creg cv)
  | .trapEntry _ => none
  | .wfeWake _ => none
  | .preemptionRequest _ => none
  | .graceWindowExpiry _ => none
  | .launch _ _ => none
  | .graphReplay _ _ => none
  | .patch _ _ _ _ _ => none
  | .map _ _ => none
  | .unmap _ _ => none
  | .contextLoad _ _ _ => none
  | .contextSave _ => none
  | .gangSwitch _ _ _ _ => none
  | .query _ _ => none
  | .attestation _ _ => none
  | .partitionReset _ => none
  | .shadowPreload _ => none
  | .gangSwitchTick _ => none
  | .clusterFlip _ => none
  | .granuleExchange _ _ => none
  | .walkerDispatch _ => none
  | .launchCompletion _ _ _ => none
  | .priorityAging _ _ _ => none
  | .gangLaunchTick _ _ _ => none
  | .stage2Fault _ _ _ => none
  | .pageMigration _ _ _ => none
  | .pageEviction _ => none
  | .spindleFetch _ _ => none
  | .postedPartPerform _ _ => none
  | .loomOpStart _ => none
  | .loomOpComplete _ => none
  | .channelTransferStart _ _ => none
  | .listElementStart _ _ _ => none
  | .chunkTransfer _ _ _ => none
  | .listElementComplete _ _ _ => none
  | .fabricWritePacket _ _ => none
  | .fabricReadRequest _ _ => none
  | .mistAnnounce _ _ => none
  | .mistBlock _ _ _ _ => none
  | .mistDeadline _ => none
  | .transferAck _ _ _ _ => none
  | .retryLimit _ _ _ _ => none
  | .sramScrub _ _ => none
  | .hbmPatrolScrub _ _ => none
  | .allBankRefresh _ _ _ => none
  | .coldReset  => none
  | .warmReset _ => none
  | .watchdogExpiry _ => none
  | .debugUnlock _ => none
  | .powerRound _ => none
  | .overcurrentRevoke => none
  | .grantRestore => none
  | .syncLoss  => none
  | .syncRegain  => none
  | .illegalWord _ => none
  | .instructionFetchFault _ _ => none
  | .fixedLatencyResult _ => none
  | .accessPerformsAtHome _ _ => none
  | .shadowWritebackComplete _ => none
  | .frontTickReached _ => none
  | .rmaReadResponse _ _ _ _ => none
  | .partitionCreate _ _ _ _ => none
  | .fwcapWrite _ => none
  | .retainFlagSet  => none
  | .graceWindowForcedStop _ => none
  | .slotBusyEnd _ _ => none

end Sys2Proof
end

