-- ==== Sys2Proof/Machine/Table.lean ====
section
/-! DEFINITION. Finite maps as plain data: lists of key and value pairs, and memory in its one canonical form. -/

namespace Sys2Proof.Machine

/-- The value listed for a key, or none. -/
def tget {α : Type} : List (Nat × α) → Nat → Option α
  | [], _ => none
  | (k', x) :: t, k => if k' = k then some x else tget t k

/-- The map with a key set to a value: keys stay in rising order. -/
def tput {α : Type} : List (Nat × α) → Nat → α → List (Nat × α)
  | [], k, x => [(k, x)]
  | (k', y) :: t, k, x =>
    if k' = k then (k, x) :: t
    else if k < k' then (k, x) :: (k', y) :: t
    else (k', y) :: tput t k x

/-- The map without a key. -/
def tdel {α : Type} (t : List (Nat × α)) (k : Nat) : List (Nat × α) := t.filter (fun e => e.1 != k)

/-- Memory: the bytes that differ from zero, addresses strictly rising (log entry 1: an unlisted byte reads 0). -/
abbrev Memory := List Host.Cell

/-- The byte at an address: zero where none is listed (DESIGN CHOICE, log entry 1). -/
def Memory.read (m : Memory) (k : Nat) : Byte := (tget m k).getD 0#8

/-- Store one byte; storing zero removes the entry, so that the form stays canonical. -/
def Memory.write (m : Memory) (k : Nat) (b : Byte) : Memory := if b = 0#8 then tdel m k else tput m k b

/-- Store bytes at rising addresses from `k` on. -/
def Memory.writeList (m : Memory) (k : Nat) : List Byte → Memory
  | [] => m
  | b :: bs => Memory.writeList (m.write k b) (k + 1) bs

/-- `n` bytes from `k` on, lowest address first. -/
def Memory.readList (m : Memory) (k : Nat) : Nat → List Byte
  | 0 => []
  | n + 1 => m.read k :: Memory.readList m (k + 1) n

/-- The keys after `lo` are strictly rising and no entry is zero. -/
def Memory.wfFrom : Nat → Memory → Bool
  | _, [] => true
  | lo, (k, b) :: t => decide (lo ≤ k) && b != 0#8 && Memory.wfFrom (k + 1) t

/-- The canonical form of memory: addresses strictly rising, no entry equal to what an unlisted byte reads as. -/
def Memory.wf (m : Memory) : Bool := Memory.wfFrom 0 m

/-- The number a list of bytes holds, little-endian (R5). -/
def leNat : List Byte → Nat
  | [] => 0
  | b :: bs => b.toNat + 256 * leNat bs

/-- `n` bytes of a number, little-endian (R5). -/
def leBytes : Nat → Nat → List Byte
  | 0, _ => []
  | n + 1, x => BitVec.ofNat 8 x :: leBytes n (x / 256)

/-- `n` bytes read as one little-endian number (R5). -/
def Memory.readLE (m : Memory) (k n : Nat) : Nat := leNat (m.readList k n)

/-- Store the low `n` bytes of a number, little-endian (R5). -/
def Memory.writeLE (m : Memory) (k n x : Nat) : Memory := m.writeList k (leBytes n x)


end Sys2Proof.Machine
end

