-- ==== Sys2Proof/Machine/State.lean ====
section
/-! DEFINITION. The state of the LH-8M-1024 module as plain data, and the machine right after reset. -/

namespace Sys2Proof.Machine

/-- Why a step stops. Both are named stops of the model alone: no instruction of the opcode table raises one. -/
inductive Fault where
  /-- Raised by `step` when the turn is given to a hart number that R22 does not have. Safe: no such hart exists. -/
  | noSuchHart
  /-- Raised by `step` when an entry of the agenda names an instruction word as a step of an engine. Safe: only
  the steps of the opcode table that are no words may stand there. -/
  | notAnEvent
  deriving DecidableEq, Repr

/-- Why an instruction is refused. -/
inductive Refusal where
  /-- Raised by an arm of `exec` whose instruction has no meaning yet. Safe: nothing is claimed of it. -/
  | notModelled (mnemonic : String)
  deriving DecidableEq, Repr

/-- The causes of R34. -/
inductive Cause where
  | illegal | priv | misalign | pageFetch | pageLoad | pageStore | pageStream | perm | ebankPartial
  | malformedCrd | ruleDepth | ruleOrder | underwait | overlap | brk | svc | eccFatal | laneRetire | fabric
  deriving DecidableEq, Repr

/-- What a hart does (R18, R93, R166, R333): `waiting` repeats the instruction at its pc, `stalled` waits for
Aczar to resolve a stage-2 miss (R326) or for a granule to be exchanged (R338). -/
inductive Status where
  | idle | running | waiting | stalled | halted | stopped
  deriving DecidableEq, Repr

/-- The state a prefix lends (R68); `viaTret` when `tret` restored it (R105). -/
structure Lent where
  pred : MReg
  inv : Bool
  creg : Reg
  cv : Bool
  viaTret : Bool
  deriving DecidableEq, Repr

/-- A register that an instruction writes. -/
inductive Dst where
  | a (r : Reg)
  | v (r : Reg)
  | m (r : MReg)
  deriving DecidableEq, Repr

/-- A fixed-latency result that is not yet in its register (R29, R30): the bits `mask` of the register take
`val` at cycle `ready`. -/
structure Pend where
  dst : Dst
  mask : BitVec 16384
  val : BitVec 16384
  ready : Nat
  deriving DecidableEq, Repr

/-- The operations of the one-word atomics (R65, R155). -/
inductive AmoOp where
  | add | min | max | and | or | fadd | swap | cas
  deriving DecidableEq, Repr

/-- The operations by which every-bank loads combine (R148). -/
inductive CombOp where
  | add | fadd | min | max | minn | maxn | and | or | xor
  deriving DecidableEq, Repr

/-- Where a value that comes late goes: bits `pos` to `pos + w - 1` of a register take it from its bit `sh` on, and so do those
of the copy register of its instruction (R69). -/
structure Place where
  dst : Dst
  pos : Nat
  w : Nat
  sh : Nat
  copy : Option Reg
  deriving DecidableEq, Repr

/-- What the access to a word that waits in its class queue is for: a place in a register, part `k` of what gather `g` waits
for, or an atomic, with the place of the old value. -/
inductive LateFor where
  | place (p : Place)
  | part (g k : Nat)
  | rmw (op : AmoOp) (fmt : BitVec 4) (rm : BitVec 2) (b cmp : Nat) (old : Option Place) (logged : Bool)
  deriving DecidableEq, Repr

/-- A load or atomic that has issued and has not performed (R184): its address, the key and number of its bytes, which lie in
one aligned word, and what it is for. -/
structure LateLoad where
  va : Word
  key : Nat
  n : Nat
  use : LateFor
  deriving DecidableEq, Repr

/-- What becomes of the parts of a gather: the banks of an every-bank load combine in order with `acc` (R149), or the bytes of
block `j` of a `vldq` are decoded (R145). -/
inductive GatherFor where
  | banks (op : CombOp) (fmt : BitVec 4) (rm : BitVec 2) (acc : Option Nat) (place : Place)
  | block (d : Reg) (j : Nat) (live : BitVec 13) (copy : Option Reg)
  deriving DecidableEq, Repr

/-- Parts of a result that an instruction waits for (R184): how many there are, those that have come by number, and what
becomes of them. -/
structure Gather where
  id : Nat
  need : Nat
  got : List (Nat × Nat)
  what : GatherFor
  deriving DecidableEq, Repr

/-- An access that has issued and waits in its class queue (R182): the part of a store that lies in one word, as bytes with
the bits they write, or a load or atomic. `grp` is the issue cycle of its instruction: the parts of one instruction are
unordered among themselves (R142, R187). -/
structure Issued where
  cls : BitVec 4
  grp : Nat
  cells : List (Nat × Byte × Byte)
  load : Option LateLoad
  deriving DecidableEq, Repr

/-- A part of `amo.e.*` handed to the fabric (R151, R186). -/
structure Posted where
  cls : BitVec 4
  key : Nat
  op : AmoOp
  operand : Word
  va : Word
  deriving DecidableEq, Repr

/-- A hart's copy of a valid bank set (R174, R176). -/
structure BankSet where
  id : BitVec 12
  size : Nat
  bases : List Word
  deriving DecidableEq, Repr

/-- An asynchronous cause that waits for an instruction boundary (R331). -/
structure Async where
  cause : Cause
  tval : Word
  deriving DecidableEq, Repr

/-- The stop record of a hart (R335); `scause` is `0x11` when it is stopped. -/
structure StopRec where
  stopped : Bool
  mid : Bool
  full : Bool
  why : BitVec 4
  spc : Word
  spfx : Word
  live : BitVec 13
  deriving DecidableEq, Repr

/-- The kinds of stream (R201). -/
inductive StreamKind where
  | closed | fibre | bind | gather | isectA | isectB | unionA | unionB | drain
  deriving DecidableEq, Repr

/-- A walk along one fibre (R198): the copy of its descriptor's fields, the next position and the end. For a
bind stream `vbase` is its base, `pos` the next index and `endp` its length. -/
structure Cursor where
  da : Word
  level : BitVec 2
  vfmt : BitVec 4
  clamp : Bool
  pos64 : Bool
  vbase : Word
  kind : BitVec 2
  ext : Nat
  parr : Word
  carr : Word
  /-- The level holds values: it is level nlev − 1 (R198). -/
  vals : Bool
  /-- The bounds `pos` and `endp` have been read. -/
  known : Bool
  parent : Nat
  pos : Nat
  endp : Nat
  /-- The coordinate before the next one, where the walk has seen it (R199). -/
  prev : Option Nat
  /-- The number of set bits below the next bit of a B fibre, where it has been counted. -/
  rank : Option Nat
  /-- Its position comes from a record, which does not hold the coordinate before it (R213). -/
  rest : Bool
  deriving DecidableEq, Repr

/-- What the record of R213 says of a stream: the position of the next pop. -/
structure StreamCore where
  kind : StreamKind
  fmt : BitVec 4
  /-- The mode of the hart when the stream was opened (R397). -/
  mode : Bool
  ca : Cursor
  cb : Cursor
  xbase : Word
  /-- Drain: elements delivered (R220). -/
  n : Nat
  /-- Drain: the lowest coordinate not yet delivered. -/
  low : Nat
  pk : BitVec 3
  /-- The backing of each publishable region that the instruction which opened the stream chose (R191). -/
  views : List (Nat × Nat)
  deriving DecidableEq, Repr

/-- A fault that a spindle has met ahead and holds (R208); `bounds` where it lies in the bounds of the fibre. -/
structure Held where
  cause : Cause
  tval : Word
  bounds : Bool
  deriving DecidableEq, Repr

/-- An element of a stream: coordinate, position, the address of its value (none: the value is +0), the value once
it is fetched, which of the two fibres of a union have it, and the position after it. -/
structure StreamElem where
  crd : Nat
  pos : Word
  addr : Option Word
  val : Nat
  inA : Bool
  inB : Bool
  after : StreamCore
  /-- A fault held on its value (R208). -/
  held : Option Held
  deriving DecidableEq, Repr

/-- A stream register (R201): its position, the elements its spindle has fetched ahead, and the fault it holds on the
coordinate or bounds of the element after them (R208). -/
structure Stream where
  core : StreamCore
  buf : List StreamElem
  held : Option Held
  deriving DecidableEq, Repr

/-- The mode of an accumulator tile (R240). -/
inductive TileMode where
  | empty | floating | integer
  | converted (f : BitVec 4)
  deriving DecidableEq, Repr

/-- Where a vector hart stands in an instruction that takes more than one turn: a `vfrom` that waits for the operations
that had been queued when it issued, with the mode that they leave its tile in (R243); a `vto` part of whose bytes are
written (R233); a `grm.eval` that has the grammar engine, with the backings it chose (R171, R191, R297); an every-bank
load part of whose elements are read, with the backings it chose (R191); an instruction whose checks are made: a `cx.*` part
of whose elements are taken (R221), or a `vto` that waits for its slot (R232). -/
inductive Engaged where
  | reading (ops : Nat) (mode : TileMode)
  | writing
  | evaluating (views : List (Nat × Nat))
  | viewing (views : List (Nat × Nat))
  | taking
  deriving DecidableEq, Repr

/-- A hart: its registers (R12, R16) and the rest of its own state. -/
structure Hart where
  status : Status
  a : Vector Word 32
  v : Vector (BitVec 16384) 32
  m : Vector (BitVec 4096) 16
  st : Vector Stream 16
  pc : Word
  hctl : Word
  vl : BitVec 13
  vtype : Word
  live : BitVec 13
  estart : BitVec 13
  lgp : Vector (BitVec 13) 16
  tcause : Word
  tval : Word
  tpc : Word
  tpfx : Word
  tstat : Word
  fstat : BitVec 8
  rng0 : Word
  rng1 : Word
  smiss : BitVec 4096
  /-- The hidden copy of `smiss` (R17). -/
  smissCopy : BitVec 4096
  bdone : Word
  hwm : Vector (BitVec 13) 32
  lmap : Word
  tvec : Word
  bstp : Word
  scpwin : Word
  lent : Option Lent
  /-- Cycles since the cluster left reset: the issue cycle of the next instruction (R29, R97). -/
  now : Nat
  /-- Cycles of stalls, waits and sleep beside those of issue (R97, log entry 8). -/
  stalls : Nat
  pend : List Pend
  queue : List Issued
  /-- Results whose words have not all been read (R184). -/
  gathers : List Gather
  engaged : Option Engaged
  /-- Model's own: elements below it come before a stop of the instruction in hand, for one of them has stalled (R327). -/
  floor : Nat
  posted : List Posted
  banks : List BankSet
  async : List Async
  /-- A pre-emption request is pending (R332). -/
  preempt : Bool
  /-- The module time at which it was posted, from which its grace window counts (R333). -/
  asked : Nat
  /-- The grace window of that request is over (R333). -/
  expired : Bool
  /-- A wake condition of the `wfe` this hart sleeps in has come (R96). -/
  woken : Bool
  /-- The hart sleeps in `wfe` (R96). -/
  asleep : Bool
  stop : StopRec
  /-- It was stopped by the `ctx.save` of its control core (R342, R343). -/
  bySave : Bool
  /-- Model's own: its request is that of a full log region and of nothing else, or it was stopped by such a request (R380). -/
  byLog : Bool
  deriving DecidableEq, Repr

/-- A matrix operation in the loom queue (R226), with what its issue captured. -/
inductive LoomWhat where
  | mm (d : ZReg) (a b : OReg) (cfg : Word) (kmask : Option (BitVec 4096)) (int : Bool) (leader : Option Nat)
      (team : BitVec 4)
  | zero (tiles : BitVec 4)
  | cvt (tiles : BitVec 4) (f : BitVec 4) (rm : BitVec 2) (modes : List TileMode)
  | rel (slots : BitVec 16)
  | cfg
  | coop
  deriving DecidableEq, Repr

/-- An operation in the loom queue; once started it holds the operand contents it reads, and `reading` has the
slots of its own cluster, `readingA` says whether it still reads the leader's slot. -/
structure LoomOp where
  what : LoomWhat
  started : Bool
  reading : BitVec 16
  readingA : Bool
  snapA : BitVec 262144
  snapB : BitVec 262144
  snapB1 : BitVec 262144
  deriving DecidableEq, Repr

/-- The grammar bound to the engine of a cluster (R250). -/
structure Grammar where
  ncol : Nat
  ndict : Nat
  nrow : Nat
  nrules : Nat
  rtab : Word
  stab : Word
  dtab : Word
  omap : Word
  rows : List Nat
  deriving DecidableEq, Repr

/-- A publishable region (R271), with the physical addresses of its two backings. -/
structure Region where
  n : Nat
  lo : Nat
  size : Nat
  visible : Nat
  shadow : Nat
  deriving DecidableEq, Repr

/-- The party for which an access is translated (R168, R319, R397). -/
structure Who where
  cluster : Nat
  /-- The scratchpad window, or none for inbound fabric traffic. -/
  win : Option Word
  /-- Mode P. -/
  priv : Bool
  part : Nat
  ctx : Nat
  /-- A channel or the fabric: it writes a region's shadow (R271). -/
  chan : Bool
  regions : List Region
  deriving DecidableEq, Repr

/-- A list element (R265). -/
structure Element where
  addr : Word
  src : Word
  dst : Word
  arr : Bool
  cskip : Bool
  side : Bool
  ndim : Nat
  len : Nat
  next : Word
  padr : Word
  pexp : Word
  badr : Word
  ext : List Nat
  str : List Int
  deriving DecidableEq, Repr

/-- A fabric descriptor (R352). -/
structure FabDesc where
  lva : Word
  rva : Word
  route : Nat
  vsz : Nat
  len : Nat
  dl : Nat
  vmap : Word
  bar : Word
  deriving DecidableEq, Repr

/-- The kinds of transfer (R261, R351). -/
inductive XferKind where
  | list | send | mist | fetch
  deriving DecidableEq, Repr

/-- A chunk of a list element, or the bytes of a packet to be sent, on the way (R266, R353): the address of its source, the
key of every source byte and, for a chunk, of every destination byte; the aligned words of the source that are still to be read; the bytes that have
been read and not written, by their place; and the aligned words of the destination still to be written (R181, R189). -/
structure Burst where
  va : Word
  src : List Nat
  dst : List Nat
  unread : List Nat
  got : List (Nat × Byte)
  unwritten : List Nat
  deriving DecidableEq, Repr

/-- A transfer a channel has been issued and has not completed (R261, R262). -/
structure Transfer where
  id : BitVec 32
  kind : XferKind
  hart : Nat
  who : Who
  /-- The launch under which it was issued (R307): partition, context, launch number. -/
  launch : Option (Nat × Nat × Nat)
  started : Bool
  /-- The element in hand, or for a fabric transfer none. -/
  elem : Option Element
  /-- The element has passed its checks and its chunks move (R266). -/
  running : Bool
  skip : Bool
  barKey : Option Nat
  /-- The page of that translation, start and size (R100, R324). -/
  barPage : Option (Nat × Nat)
  chunk : Nat
  /-- The address of the list element that comes after the one in hand. -/
  next : Word
  /-- The regions that its elements so far write (R273). -/
  dests : List Nat
  desc : Option FabDesc
  burst : Option Burst
  /-- What a backing that an element reads held when a `pub` took it out of view, by region (R272, R273); by 16, what memory held
  when a `pub` showed part of what the element writes: its source counts as read before (R272). -/
  old : List (Nat × Memory)
  /-- The words of a fetch that have come, by number (R348). -/
  came : List Nat
  deriving DecidableEq, Repr

/-- What became of a complete transfer (R263, R355): its cause code and missed blocks. -/
structure XferEnd where
  id : BitVec 32
  cause : Nat
  missed : Nat
  deriving DecidableEq, Repr

/-- A copy channel (R261-R263): its next-id counter, its fault record and fault address, its transfers in id
order, and the ends of its complete transfers. -/
structure Channel where
  next : BitVec 32
  frec : Word
  faddr : Word
  xfers : List Transfer
  ends : List XferEnd
  /-- What transfers have written while an earlier one was not complete: id and keys (R262). -/
  wrote : List (BitVec 32 × List Nat)
  deriving DecidableEq, Repr

/-- An iteration that runs on a cluster (R305, R307): partition, context, launch number, iteration number. -/
structure Iter where
  part : Nat
  ctx : Nat
  launch : Nat
  n : Nat
  deriving DecidableEq, Repr

/-- The state of a cluster that belongs to the running context (R336). -/
structure Fast where
  party : BitVec 8
  arrived : BitVec 8
  slots : Vector (BitVec 262144) 16
  claimed : BitVec 16
  tiles : Vector (Vector (BitVec 80) 8192) 4
  tmode : Vector TileMode 4
  cfg : Option Word
  coop : BitVec 4
  seqn : Nat
  /-- This cluster's control core is at its cooperative operation number `seqn` (R245). -/
  coopAt : Bool
  /-- Another member has found every member there, and issued: this one issues too (R245). -/
  coopGo : Bool
  rvf : Vector (BitVec 512) 4096
  rvalid : BitVec 4096
  gram : Option Grammar
  /-- The skein: coordinates in rising order with their values (R216). -/
  skein : List (Nat × Word)
  skfmt : BitVec 4
  chans : Vector Channel 6
  iter : Option Iter
  deriving DecidableEq, Repr

/-- What a context keeps of a cluster while it does not run there (R336): the cluster's fast state, its nine
harts, and its scratchpad, keyed by offset. -/
structure Image where
  fast : Fast
  harts : List Hart
  scratch : Memory
  deriving DecidableEq, Repr

/-- A cached translation (R322): one page of a partition and context, stage 1 and stage 2 together. `page` and
`pageSize` are those of the stage-1 leaf it came from, by which `tlb.inv` names it (R100). -/
structure TlbEntry where
  part : Nat
  ctx : Nat
  va : Nat
  size : Nat
  ia : Nat
  key : Nat
  r : Bool
  w : Bool
  x : Bool
  u : Bool
  page : Nat
  pageSize : Nat
  deriving DecidableEq, Repr

/-- What a shadow bank holds (R337): the fast state preloaded for a context, or, once flipped, the outgoing one
on its way to its image. -/
structure Shadow where
  ctx : Nat
  outgoing : Bool
  fast : Fast
  harts : List Hart
  deriving DecidableEq, Repr

/-- The part of a cluster that belongs to no context. -/
structure Cluster where
  fast : Fast
  queue : List LoomOp
  /-- Operations that have entered the queue (R243). -/
  looms : Nat
  tlb : List TlbEntry
  /-- The launch for which the walker has reserved this cluster (R306): partition, context, launch number. -/
  reserved : Option (Nat × Nat × Nat)
  shadow : Option Shadow
  /-- The context whose image holds what a granule not yet exchanged must become, and the one to write back. -/
  exchIn : Nat
  exchOut : Nat
  exch : List Nat
  /-- Repair map: working lane groups of each vector hart as marked, and as in force since its last context
  boundary (R101, R369). -/
  marked : Vector (BitVec 16) 8
  force : Vector (BitVec 16) 8
  /-- Times of corrected errors in the lane groups of a hart (R369): hart, group, time. -/
  corr : List (Nat × Nat × Nat)
  /-- Times of corrected errors in granules the cluster shares (R370). -/
  shcorr : List Nat
  /-- The cluster is marked for retirement (R370). -/
  retire : Bool
  loomGrant : Bool
  vecGrant : Bool
  /-- A vector floating-point form has issued since the last round of the arbiter (R393). -/
  vfp : Bool
  deriving DecidableEq, Repr

/-- A queued launch (R300-R308). -/
structure Launch where
  num : Nat
  record : BitVec 512
  entry : Word
  param : Word
  /-- The iteration counter (R303). -/
  counter : Nat
  /-- Iterations that have ended, each member of a group counted. -/
  ended : Nat
  prio : Nat
  /-- The dispatch number of its last dispatch; none: never dispatched (R308). -/
  last : Option Nat
  /-- The module time from which the next 2 ms period counts (R308). -/
  since : Nat
  /-- The task graph, replay and node it belongs to (R312). -/
  node : Option (Nat × Nat × Nat)
  deriving DecidableEq, Repr

/-- A node of a task graph: its launch record, the entry chosen for it (R373), and the nodes that depend on it
(R311). -/
structure GraphNode where
  record : BitVec 512
  entry : Word
  succ : BitVec 64
  deriving DecidableEq, Repr

/-- A replay of a task graph that has been accepted (R312, R313): its generation once it has started, the nodes, those
it has queued and those that have completed. -/
structure Replay where
  num : Nat
  gen : Nat
  gdone : Word
  nodes : List GraphNode
  queued : List Nat
  done : List Nat
  deriving DecidableEq, Repr

/-- What waits in a graph's one queue (R313): the start of a replay, or a patch with its request. -/
inductive GraphItem where
  | replay (r : Replay)
  | patch (m : Msg) (node : Nat) (dst : Word) (data : List Byte)
  deriving DecidableEq, Repr

/-- A task graph as the service knows it (R311-R313): its address, its generation, the versions of its nodes'
parameter blocks (node, generation, address, length) in rising order of generation, its queue and the replay that runs. -/
structure Graph where
  addr : Nat
  gen : Nat
  versions : List (Nat × Nat × Word × Nat)
  queue : List GraphItem
  running : Option Replay
  nextReplay : Nat
  deriving DecidableEq, Repr

/-- An entry of a log stream (R378, R379). -/
structure LogEntry where
  kind : Nat
  hart : Nat
  seq : Nat
  words : List Word
  deriving DecidableEq, Repr

/-- A resident context (R336, R309, R378). -/
structure Ctx where
  root : Nat
  images : List (Nat × Image)
  launches : List Launch
  nextLaunch : Nat
  dispatches : Nat
  graphs : List Graph
  mode : LogMode
  /-- The parts of HBM4 that make up the log region, each by address and words (R378, R380). -/
  region : List (Nat × Nat)
  /-- Log streams: cluster c, and 256 + stack (R378). A replay takes an entry away when it consumes it. -/
  log : List (Nat × List LogEntry)
  /-- Entries of a kind for a hart that were logged or, in replay, consumed; keyed by 8 × hart + kind (R379). -/
  used : List (Nat × Nat)
  /-- A hart has met an input that differs from its log (R381): hart, kind. -/
  diverged : Option (Nat × Nat)
  deriving DecidableEq, Repr

/-- A gang switch that Aczar has accepted (R337). -/
structure GangSwitch where
  out : Nat
  inc : Nat
  tick : Nat
  /-- The tick has come; these clusters have not flipped yet. -/
  under : Bool
  left : List Nat
  deriving DecidableEq, Repr

/-- A partition (R332, R336, R345, R350). -/
structure Part where
  clusters : List Nat
  grace : Nat
  journal : Bool
  halted : Bool
  running : Option Nat
  ctxs : List (Nat × Ctx)
  regions : List Region
  resetArea : Option Nat
  routes : List (Nat × RouteTo)
  switch : Option GangSwitch
  /-- A double trap of one of its harts has been reported (R18). -/
  doubleTrap : Bool
  /-- The `tcause` code of the hart that halted last, until a context load restarts it (R93, R307). -/
  haltedBy : Option Nat
  deriving DecidableEq, Repr

/-- Aczar's use states of a resident migratable page (R328). -/
inductive UseState where
  | useOnce | retained | ordinary
  deriving DecidableEq, Repr

/-- A page of stage 2 as Aczar records it (R325-R328). -/
structure S2Page where
  part : Nat
  ia : Nat
  size : Nat
  r : Bool
  w : Bool
  x : Bool
  /-- The physical address in HBM4, where it is resident. -/
  hbm : Option Nat
  /-- The peer or host memory that holds it. -/
  holder : Option Residency
  pinned : Bool
  use : UseState
  /-- Order of the last fill. -/
  fill : Nat
  /-- Order in which it became resident. -/
  born : Nat
  deriving DecidableEq, Repr

/-- A stage-2 miss that waits for Aczar (R325): the cluster whose access it is (256 for inbound fabric traffic), partition,
intermediate address, and whether it was refused. -/
structure S2Miss where
  cluster : Nat
  part : Nat
  ia : Nat
  refused : Bool
  deriving DecidableEq, Repr

/-- The body of a reply (R350). -/
inductive ReplyBody where
  | none
  | value (w : Word)
  | report (bytes : List Byte)
  /-- The divergence of a replay: hart and kind (R381). -/
  | diverged (hart kind : Nat)
  deriving DecidableEq, Repr

/-- A reply of Aczar (R349): the header of its request with a status, and a body. -/
structure Reply where
  conn : Nat
  seq : Nat
  kind : Nat
  part : Nat
  ctx : Nat
  status : Nat
  body : ReplyBody
  deriving DecidableEq, Repr

/-- A request that has been accepted and whose reply is not sent (R349): it is not made yet, or it waits for that of an
earlier request of its connection. -/
structure Unsent where
  conn : Nat
  seq : Nat
  reply : Option Reply
  deriving DecidableEq, Repr

/-- What a channel sends to a peer (R353, R356): cluster, channel, id, the descriptor, the offset and bytes. -/
structure Sent where
  cluster : Nat
  chan : Nat
  id : BitVec 32
  desc : FabDesc
  off : Nat
  bytes : List Byte
  deriving DecidableEq, Repr

/-- An acknowledgement or fault returned to the sender of an inbound transfer (R353, R356). -/
structure FabAck where
  x : Nat
  cause : Nat
  missed : Nat
  deriving DecidableEq, Repr

/-- A mist block that is being written word by word (R181): its number, whether it is valid, and the words that are still to be
written, by their places in the block. -/
structure BlockWrite where
  blk : Nat
  valid : Bool
  left : List (Nat × Word)
  deriving DecidableEq, Repr

/-- An inbound transfer being received (R353, R356), with what its announce or first packet carries. Each access is
translated as it is made (R192, R271). -/
structure Inbound where
  x : Nat
  mist : Bool
  part : Nat
  ctx : Nat
  rva : Word
  len : Nat
  vsz : Nat
  dl : Nat
  vmap : Word
  bar : Word
  /-- Bytes received (send) or settled blocks (mist). -/
  got : Nat
  settled : List Nat
  missed : Nat
  writing : Option BlockWrite
  deriving DecidableEq, Repr

/-- The refresh state of an HBM4 channel (R374, R375). -/
structure RefCh where
  /-- Refreshes postponed (positive) or pulled in (negative). -/
  owed : Int
  group : Nat
  pass : Nat
  f32 : List Nat
  f64 : List Nat
  deriving DecidableEq, Repr

/-- Where the module is on the way from reset to service (R383, R390). -/
inductive BootStage where
  | rom | dead | service
  deriving DecidableEq, Repr

/-- An Ultra Ethernet port (R387, R390): its link is trained, and the limiter and filter that it has loaded. -/
structure Port where
  trained : Bool
  rate : Nat
  filter : List Nat
  deriving DecidableEq, Repr

/-- Boot, trust and the firmware's limits (R383-R390). -/
structure Boot where
  stage : BootStage
  flash0 : List Byte
  flash1 : List Byte
  /-- The service cores' execute region, and whether it is locked. -/
  region : List Byte
  locked : Bool
  dig : BitVec 512
  ver : BitVec 32
  keyDigest : BitVec 512
  rollback : BitVec 32
  /-- The fused debug keys (R388): Ed25519 and ML-DSA-65. -/
  debugE : List Byte
  debugM : List Byte
  fcap : Nat
  fwcap : Nat
  retain : Bool
  debug : Bool
  identity : BitVec 512
  challenge : BitVec 256
  /-- The twelve ports (R348); none before the links are trained. -/
  ports : List Port
  failedCh : List Nat
  deriving DecidableEq, Repr

/-- The power arbiter (R392-R394). -/
structure Power where
  /-- The cluster served last. -/
  last : Nat
  /-- The granted current. -/
  total : Nat
  revoked : Bool
  /-- The core current measured in the last round, and the rounds of 1 µs on end in which it has exceeded `fcap` (R394). -/
  amps : Nat
  above : Nat
  /-- Clusters whose loom request was skipped in the last round and is taken again. -/
  againLoom : List Nat
  /-- Clusters whose vector request was skipped in the last round and is taken again. -/
  again : List Nat
  deriving DecidableEq, Repr

/-- Who acts in a turn: a hart; a hart whose turn ends within its instruction, before element `k`; or an engine by one of the
steps of the opcode table that are no words. -/
inductive Act where
  | hart (h : Nat)
  | partly (h k : Nat)
  | event (i : Instr)
  deriving DecidableEq, Repr

/-- A turn of the agenda (log entry 6): the nanoseconds that pass before it, and who acts. -/
structure Turn where
  dt : Nat
  act : Act
  deriving DecidableEq, Repr

/-- The module. Harts are keyed by `hartid` and clusters by `clid` (R22); a missing entry is at its reset value. -/
structure State where
  mem : Memory
  harts : List (Nat × Hart)
  clusters : List (Nat × Cluster)
  /-- Last-level TLBs by die (R322). -/
  dieTlb : List (Nat × List TlbEntry)
  parts : List (Nat × Part)
  mtime : Nat
  synced : Bool
  s2 : List S2Page
  s2miss : List S2Miss
  fills : Nat
  replies : List Reply
  unsent : List Unsent
  /-- Harts reported to Aczar as halted by their runtime (R93), and double traps (R18). -/
  reports : List (Nat × Bool)
  sent : List Sent
  acks : List FabAck
  /-- What has been returned to peers' fetches (R353): transfer and bytes. -/
  reads : List (Nat × List Byte)
  inbound : List Inbound
  /-- Inbound transfers that a warm reset has cut off: nothing answers them (R391). -/
  deaf : List Nat
  /-- Poisoned 64-byte lines of HBM4 (R368). -/
  poisoned : List Nat
  /-- SRAM granules that hold two bad bits (R367). -/
  badSram : List SramLoc
  /-- Bytes of poisoned lines and bad granules that have been written since (R368, log entry 25). -/
  rewritten : List Nat
  /-- The 64-byte line each sleeping `wfe` watches, by hart, until a store or atomic performs on it (R96). -/
  watched : List (Nat × Nat)
  refresh : List (Nat × RefCh)
  defects : BitVec 256
  boot : Boot
  power : Power
  /-- The word of the instruction in hand: what `tval` holds for ILLEGAL and PRIV (R34). -/
  word : BitVec 32
  /-- Model's own: the hart whose turn it is (log entry 6). -/
  cur : Nat
  /-- Model's own: the turns to come; with none, the hart `cur` goes on (log entry 6). -/
  agenda : List Turn
  /-- Model's own: accesses wait in their class queues until performed by a step of their own (log entry 7). -/
  queued : Bool
  /-- Model's own: posted parts and late atomics that an order asked for before their turn in a replay (R381, log entry 6). -/
  early : Nat
  /-- Model's own: where the turn in hand ends within its instruction (log entry 6). -/
  partly : Option Nat
  /-- Model's own: the number of free values drawn (log entry 9). -/
  free : Nat
  deriving DecidableEq, Repr

/-- A cursor that walks nothing. -/
def Cursor.idle : Cursor :=
  { da := 0, level := 0, vfmt := 0, clamp := false, pos64 := false, vbase := 0, kind := 0, ext := 0, parr := 0,
    carr := 0, vals := false, known := true, parent := 0, pos := 0, endp := 0, prev := .none, rank := .none,
    rest := false }

/-- A closed stream register (R201). -/
def StreamCore.closed : StreamCore :=
  { kind := .closed, fmt := 0, mode := false, ca := Cursor.idle, cb := Cursor.idle, xbase := 0, n := 0, low := 0,
    pk := 0, views := [] }

/-- A closed stream register with nothing fetched (R201). -/
def Stream.closed : Stream := { core := StreamCore.closed, buf := [], held := .none }

/-- The stop record of a hart that has not stopped (R335: 0). -/
def StopRec.clear : StopRec :=
  { stopped := false, mid := false, full := false, why := 0, spc := 0, spfx := 0, live := 0 }

/-- Hart `id` at reset (R16): the control registers at the values R16 gives; `a`, `v`, `m`, `scpwin`, the live
length and the copy of `smiss` at 0 (DESIGN CHOICE, log entry 3); idle at pc 0 (log entry 4). -/
def Hart.reset (id : Nat) : Hart :=
  { status := .idle, a := Vector.replicate 32 0, v := Vector.replicate 32 0, m := Vector.replicate 16 0,
    st := Vector.replicate 16 Stream.closed, pc := 0, hctl := 0, vl := 0, vtype := 0x8000000000000000, live := 0,
    estart := 0, lgp := Vector.replicate 16 0, tcause := 0, tval := 0, tpc := 0, tpfx := 0, tstat := 0, fstat := 0,
    rng0 := 0x9E3779B97F4A7C15, rng1 := BitVec.ofNat 64 id, smiss := 0, smissCopy := 0, bdone := 0,
    hwm := Vector.replicate 32 0, lmap := 0x40FFFF, tvec := 0, bstp := 0, scpwin := 0, lent := .none, now := 0,
    stalls := 0,
    pend := [], queue := [], gathers := [], engaged := .none, floor := 0, posted := [],
    banks := [], async := [], preempt := false, asked := 0, expired := false, woken := false, asleep := false, stop := StopRec.clear, bySave := false,
    byLog := false }

/-- A channel at reset: first id 0 (DESIGN CHOICE, log entry 3), no transfer, no fault. -/
def Channel.reset : Channel := { next := 0, frec := 0, faddr := 0, xfers := [], ends := [], wrote := [] }

/-- The context's part of a cluster at reset: no slot claimed, tiles empty, `mx.cfg` unset, membership off (R224),
skein empty in w64 (R216); slots and rule values 0 (DESIGN CHOICE, log entry 3). -/
def Fast.reset : Fast :=
  { party := 0, arrived := 0, slots := Vector.replicate 16 0, claimed := 0,
    tiles := Vector.replicate 4 (Vector.replicate 8192 0), tmode := Vector.replicate 4 .empty, cfg := .none,
    coop := 0, seqn := 0, coopAt := false, coopGo := false, rvf := Vector.replicate 4096 0, rvalid := 0, gram := .none,
    skein := [], skfmt := 3, chans := Vector.replicate 6 Channel.reset, iter := .none }

/-- A cluster at reset: all lane groups of its harts work (log entry 4). -/
def Cluster.reset : Cluster :=
  { fast := Fast.reset, queue := [], looms := 0, tlb := [], reserved := .none, shadow := .none, exchIn := 0, exchOut := 0,
    exch := [], marked := Vector.replicate 8 0xFFFF, force := Vector.replicate 8 0xFFFF, corr := [], shcorr := [],
    retire := false, loomGrant := false, vecGrant := false, vfp := false }

/-- A refresh channel at reset (log entry 4). -/
def RefCh.reset : RefCh := { owed := 0, group := 0, pass := 0, f32 := [], f64 := [] }

/-- Boot state at cold reset: service core 0 in ROM (R383), `fcap` 12,000 A (R387); the rest log entry 4. -/
def Boot.reset : Boot :=
  { stage := .rom, flash0 := [], flash1 := [], region := [], locked := false, dig := 0, ver := 0, keyDigest := 0,
    rollback := 0, debugE := [], debugM := [], fcap := 12000, fwcap := 12000, retain := false, debug := false,
    identity := 0, challenge := 0, ports := [], failedCh := [] }

/-- The module right after reset (R16, R224, R383, R389): every hart and cluster at its reset value, no partition,
no translation, nothing in memory. The turn is vector hart 0 of cluster 0's (log entry 4). -/
def State.reset : State :=
  { mem := [], harts := [], clusters := [], dieTlb := [], parts := [], mtime := 0, synced := false, s2 := [],
    s2miss := [], fills := 0, replies := [], unsent := [], reports := [], sent := [], acks := [], reads := [],
    inbound := [], deaf := [], poisoned := [], badSram := [], rewritten := [], watched := [], refresh := [], defects := 0, boot := Boot.reset,
    power := { last := 255, total := 0, revoked := false, amps := 0, above := 0, againLoom := [], again := [] },
    word := 0, cur := 0, agenda := [], queued := false, early := 0, partly := .none, free := 0 }

end Sys2Proof.Machine
end

