-- ==== Sys2Proof/Machine/Ops.lean ====
section
/-! DEFINITION. The named operations over the state: harts and clusters, registers and fixed-latency results,
memory and translation, taking a trap and returning from one, stops, and the issue of one instruction. -/

namespace Sys2Proof.Machine

/-! ### Harts, clusters, partitions -/

/-- The cluster of a hart (R22). -/
def clusterOf (id : Nat) : Nat := id / 16

/-- Hart 8 of a cluster is its control core (R22). -/
def isControl (id : Nat) : Bool := id % 16 == 8

/-- A hart by its `hartid`. -/
def State.hart (s : State) (id : Nat) : Hart := (tget s.harts id).getD (Hart.reset id)

/-- Replace a hart. -/
def State.setHart (s : State) (id : Nat) (h : Hart) : State := { s with harts := tput s.harts id h }

/-- The hart whose turn it is. -/
def State.me (s : State) : Hart := s.hart s.cur

/-- Replace the hart whose turn it is. -/
def State.setMe (s : State) (h : Hart) : State := s.setHart s.cur h

/-- A cluster by its `clid`. -/
def State.cluster (s : State) (c : Nat) : Cluster := (tget s.clusters c).getD Cluster.reset

/-- Replace a cluster. -/
def State.setCluster (s : State) (c : Nat) (k : Cluster) : State := { s with clusters := tput s.clusters c k }

/-- The fast state of a cluster (R336). -/
def State.fast (s : State) (c : Nat) : Fast := (s.cluster c).fast

/-- Replace the fast state of a cluster. -/
def State.setFast (s : State) (c : Nat) (f : Fast) : State := s.setCluster c { s.cluster c with fast := f }

/-- The cluster of the hart whose turn it is. -/
def State.myCluster (s : State) : Nat := clusterOf s.cur

/-- The fast state of the cluster of the hart whose turn it is. -/
def State.myFast (s : State) : Fast := s.fast s.myCluster

/-- Replace it. -/
def State.setMyFast (s : State) (f : Fast) : State := s.setFast s.myCluster f

/-- The partition that holds a cluster. -/
def State.partOf (s : State) (c : Nat) : Option (Nat × Part) := s.parts.find? (fun e => e.2.clusters.contains c)

/-- Replace a partition. -/
def State.setPart (s : State) (p : Nat) (x : Part) : State := { s with parts := tput s.parts p x }

/-- The context that runs on a cluster of a partition: while a gang switch is under way, a cluster that has not
flipped still runs the outgoing one (R337). -/
def Part.ctxOn (p : Part) (c : Nat) : Option Nat :=
  match p.switch with
  | some g => if g.under && g.left.contains c then some g.out else p.running
  | none => p.running

/-- Partition and context of a cluster; 16 and 8 where it has none. -/
def State.spaceOf (s : State) (c : Nat) : Nat × Nat :=
  match s.partOf c with
  | some (p, x) => (p, (x.ctxOn c).getD 8)
  | none => (16, 8)

/-- A context of a partition. -/
def State.ctx (s : State) (p x : Nat) : Option Ctx := (tget s.parts p).bind (fun q => tget q.ctxs x)

/-- Replace a context of a partition that exists. -/
def State.setCtx (s : State) (p x : Nat) (k : Ctx) : State :=
  match tget s.parts p with
  | some q => s.setPart p { q with ctxs := tput q.ctxs x k }
  | none => s

/-- Draw a free value: the counter moves on (log entry 9). -/
def State.drawn (s : State) : State := { s with free := s.free + 1 }

/-! ### Control register fields -/

/-- `hctl.mode`: mode P (R18). -/
def Hart.priv (h : Hart) : Bool := h.hctl.getLsbD 0
/-- `hctl.chk` (R18). -/
def Hart.chk (h : Hart) : Bool := h.hctl.getLsbD 1
/-- `hctl.rm` (R18). -/
def Hart.rm (h : Hart) : BitVec 2 := h.hctl.extractLsb' 2 2
/-- `hctl.tb` (R18). -/
def Hart.tb (h : Hart) : Bool := h.hctl.getLsbD 4
/-- A value of `hctl` from its fields (R18). -/
def mkHctl (tb : Bool) (rm : BitVec 2) (chk mode : Bool) : Word :=
  (BitVec.ofBool tb ++ rm ++ BitVec.ofBool chk ++ BitVec.ofBool mode : BitVec 5).setWidth 64
/-- `vtype.vbad` (R19). -/
def Hart.vbad (h : Hart) : Bool := h.vtype.getLsbD 63
/-- `vtype.fmt` (R19). -/
def Hart.fmt (h : Hart) : BitVec 4 := h.vtype.extractLsb' 0 4
/-- `vtype.la` (R19). -/
def Hart.la (h : Hart) : Bool := h.vtype.getLsbD 7
/-- The code `vtype.blen` (R19). -/
def Hart.blen (h : Hart) : Nat := (h.vtype.extractLsb' 4 3).toNat
/-- The width of a format code (R15, R37); a reserved code has the width of w8. -/
def fmtWidth (f : BitVec 4) : Nat :=
  match f.toNat with
  | 0 => 8 | 1 => 16 | 2 => 32 | 3 => 64 | 4 => 64 | 5 => 32 | 6 => 16 | 7 => 16 | 8 => 8 | 9 => 8
  | 10 => 4 | 11 => 4 | _ => 8
/-- The element width W of the hart's format. -/
def Hart.width (h : Hart) : Nat := fmtWidth h.fmt
/-- The block length of a `blen` code (R19). -/
def blockLen (code : Nat) : Nat :=
  match code with
  | 1 => 16 | 2 => 32 | 3 => 64 | 4 => 128 | _ => 1
/-- An operand of `setvl` or `mtc vtype` that is not valid (R19). -/
def vtypeBad (t : Word) : Bool :=
  (t >>> 8 != 0) || decide (12 ≤ (t.extractLsb' 0 4).toNat) || decide (5 ≤ (t.extractLsb' 4 3).toNat)
    || ((t.extractLsb' 0 4).toNat == 10 && (t.extractLsb' 4 3).toNat == 0)
/-- The number of working lanes L: `lmap` bits `22..16` (R23). -/
def Hart.lanes (h : Hart) : Nat := (h.lmap.extractLsb' 16 7).toNat
/-- The retired lane group by `lmap` bits `15..0`, if any (R14, R23). -/
def Hart.gap (h : Hart) : Option Nat := (List.range 16).find? (fun k => !h.lmap.getLsbD k)
/-- VLMAX for a width (R15). -/
def Hart.vlmax (h : Hart) (w : Nat) : Nat := h.lanes * 256 / w
/-- Physical lane of working lane j: the lanes of a retired group are skipped (R14). -/
def physLane (gap : Option Nat) (j : Nat) : Nat :=
  match gap with
  | none => j
  | some g => if j < 4 * g then j else j + 4
/-- `lane(i)` of R36. -/
def Hart.lane (h : Hart) (i : Nat) : Nat := physLane h.gap (i % h.lanes)
/-- The first bit of element i of width w in a vector register (R14). -/
def Hart.bitPos (h : Hart) (w i : Nat) : Nat := 256 * h.lane i + w * (i / h.lanes)

/-! ### Registers and fixed-latency results (R29, R30) -/

/-- Replace the bits of a mask. -/
def putBits {n : Nat} (old mask val : BitVec n) : BitVec n := (old &&& ~~~mask) ||| (val &&& mask)

/-- The number of a mask register as an index. -/
def Hart.getM (h : Hart) (r : MReg) : BitVec 4096 := h.m[r.toNat]'(r.isLt)
/-- A vector register. -/
def Hart.getV (h : Hart) (r : Reg) : BitVec 16384 := h.v[r.toNat]'(r.isLt)
/-- A scalar register: `a0` reads as zero (R12). -/
def Hart.getA (h : Hart) (r : Reg) : Word := if r = 0 then 0 else h.a[r.toNat]'(r.isLt)
/-- A stream register. -/
def Hart.getS (h : Hart) (r : SReg) : Stream := h.st[r.toNat]'(r.isLt)
/-- Replace a stream register. -/
def Hart.setS (h : Hart) (r : SReg) (x : Stream) : Hart := { h with st := h.st.set r.toNat x r.isLt }

/-- Put the masked bits of a value into a register: `a0` ignores writes (R12). -/
def Hart.put (h : Hart) (d : Dst) (mask val : BitVec 16384) : Hart :=
  match d with
  | .a r =>
    if r = 0 then h
    else { h with a := h.a.set r.toNat (putBits (h.a[r.toNat]'(r.isLt)) (mask.setWidth 64) (val.setWidth 64)) r.isLt }
  | .v r => { h with v := h.v.set r.toNat (putBits (h.v[r.toNat]'(r.isLt)) mask val) r.isLt }
  | .m r =>
    { h with m := h.m.set r.toNat (putBits (h.m[r.toNat]'(r.isLt)) (mask.setWidth 4096) (val.setWidth 4096)) r.isLt }

/-- A later write to the same bits takes them away from a pending result (R30). -/
def Pend.cut (d : Dst) (mask : BitVec 16384) (p : Pend) : Pend :=
  if p.dst = d then { p with mask := p.mask &&& ~~~mask } else p

/-- Go through the pending results in program order: those readable at cycle `t` reach their registers, and the
later one in program order is the one that remains (R30). -/
def settleFrom (t : Nat) : List Pend → Hart → List Pend → Hart
  | [], h, kept => { h with pend := kept }
  | p :: ps, h, kept =>
    if p.ready ≤ t then settleFrom t ps (h.put p.dst p.mask p.val) (kept.map (Pend.cut p.dst p.mask))
    else settleFrom t ps h (kept ++ [p])

/-- The hart with every result in place that is readable at cycle `t`. -/
def Hart.settle (h : Hart) (t : Nat) : Hart := settleFrom t h.pend h []

/-- Complete every pending fixed-latency result (R30, R103). -/
def Hart.finish (h : Hart) : Hart :=
  let k := h.pend.foldl (fun k p => k.put p.dst p.mask p.val) h
  { k with pend := [] }

/-- The last cycle at which a pending result becomes readable, at least `t`. -/
def Hart.lastReady (h : Hart) (t : Nat) : Nat := h.pend.foldl (fun m p => max m p.ready) t

/-- Write a result of latency `lat` (R29): of latency 1 it is readable by the next instruction. -/
def Hart.write (h : Hart) (d : Dst) (mask val : BitVec 16384) (lat : Nat) : Hart :=
  if lat ≤ 1 then
    let k := h.put d mask val
    { k with pend := h.pend.map (Pend.cut d mask) }
  else { h with pend := h.pend ++ [{ dst := d, mask := mask, val := val, ready := h.now + lat }] }

/-- The mask of the low `n` bits. -/
def lowMask (n : Nat) : BitVec 16384 := BitVec.ofNat 16384 (2 ^ n - 1)

/-- Write a scalar register. -/
def Hart.setA (h : Hart) (r : Reg) (x : Word) (lat : Nat) : Hart :=
  if r = 0 then h else h.write (.a r) (lowMask 64) (x.setWidth 16384) lat

/-- Write the masked bits of a mask register. -/
def Hart.setM (h : Hart) (r : MReg) (mask x : BitVec 4096) (lat : Nat) : Hart :=
  h.write (.m r) (mask.setWidth 16384) (x.setWidth 16384) lat

/-- Raise a high-water mark to at least `n` (R24). -/
def Hart.mark (h : Hart) (r : Reg) (n : Nat) : Hart :=
  { h with hwm := h.hwm.set r.toNat (BitVec.ofNat 13 (max (h.hwm[r.toNat]'(r.isLt)).toNat n)) r.isLt }

/-- Write a scalar register of the hart whose turn it is. -/
def State.setA (s : State) (r : Reg) (x : Word) (lat : Nat) : State := s.setMe (s.me.setA r x lat)

/-- Write masked bits of a mask register of the hart whose turn it is. -/
def State.setM (s : State) (r : MReg) (mask x : BitVec 4096) (lat : Nat) : State := s.setMe (s.me.setM r mask x lat)

/-- Some bits of a register are still to be written by a result that is not readable yet (R30): a later write to the
same bits has not taken them all away. -/
def Hart.waits (h : Hart) (d : Dst) : Bool :=
  h.pend.any (fun p => p.dst == d && p.mask != 0 && decide (h.now < p.ready))

/-- Set sticky flags (R21). -/
def Hart.flag (h : Hart) (f : BitVec 8) : Hart := { h with fstat := h.fstat ||| f }

/-- Element progress cleared (R27). -/
def Hart.progress0 (h : Hart) : Hart := { h with estart := 0, lgp := Vector.replicate 16 0 }

/-- Element progress at element k (R26): a lane group that was further on keeps its counter. -/
def Hart.progressAt (h : Hart) (k : Nat) : Hart :=
  { h with estart := BitVec.ofNat 13 k, lgp := h.lgp.map (fun x => if x.toNat < k then BitVec.ofNat 13 k else x) }

/-- Element i is still to be performed (R26). -/
def Hart.todo (h : Hart) (i : Nat) : Bool :=
  decide (h.estart.toNat ≤ i) && decide (((h.lgp.toList)[h.lane i / 4]?.getD 0).toNat ≤ i)

/-- Some element progress is held (R33, R335). -/
def Hart.midway (h : Hart) : Bool := h.estart != 0 || h.lgp.any (· != 0) || h.bdone != 0

/-! ### Physical memory (R376) and homes (R154) -/

/-- The scratchpad of cluster c (R376). -/
def scratchBase (c : Nat) : Nat := 0x8000000000000 + 0x800000 * c
/-- The size of a scratchpad: 6 MiB (R168). -/
def scratchSize : Nat := 0x600000
/-- Where a residency lies: HBM4 and scratchpads at their physical addresses, peer memory from 2^53 and host
memory from 2^54 on (log entry 2). -/
def resKey : Residency → Nat
  | .hbm pa => pa
  | .peer a => 2 ^ 53 + a % 2 ^ 53
  | .host a => 2 ^ 54 + a % 2 ^ 54
/-- The home scope of a word as seen from a cluster (R154), as a scope code: 0 `cl` to 5 `sy`. -/
def homeScope (c key : Nat) : Nat :=
  if key < 2 ^ 40 then (if key / 2 ^ 36 == c / 16 then 2 else 3)
  else if key < 2 ^ 52 then
    let o := (key - 0x8000000000000) / 0x800000
    if o == c then 0 else if o / 4 == c / 4 then 1 else 3
  else if key < 2 ^ 54 then 4 else 5
/-- A key lies in memory of the module. -/
def inModule (key : Nat) : Bool := decide (key < 2 ^ 52)

/-- The 64-byte line of HBM4, or the 8-byte granule of a scratchpad or of the L2, that holds a byte carries an
uncorrectable error (R367, R368). -/
def State.badAt (s : State) (key : Nat) : Bool :=
  s.poisoned.contains (key / 64) && decide (key < 2 ^ 40)
    || s.badSram.any (fun l => match l with
        | .scratch c g => decide (scratchBase c + 8 * g ≤ key ∧ key < scratchBase c + 8 * g + 8)
        | .l2 g => key / 8 == g
        | _ => false)

/-- Writing every byte of a poisoned line or bad granule, at once or one after another, clears it (R368, log entry 25). -/
def State.heal (s : State) (keys : List Nat) : State :=
  let w := s.rewritten ++ keys.filter s.badAt
  let full := fun lo n => (List.range n).all (fun i => w.contains (lo + i))
  let t : State :=
    { s with
      poisoned := s.poisoned.filter (fun l => !full (64 * l) 64)
      badSram := s.badSram.filter (fun l => match l with
        | .scratch c g => !full (scratchBase c + 8 * g) 8
        | .l2 g => !full (8 * g) 8
        | _ => true) }
  { t with rewritten := w.filter t.badAt }

/-- Store bytes through their bit masks. -/
def Memory.putCells (m : Memory) : List (Nat × Byte × Byte) → Memory
  | [] => m
  | (k, b, mk) :: t => Memory.putCells (m.write k (putBits (m.read k) mk b)) t

/-- Perform a store at its home (R36): a `wfe` that watches a line it writes sleeps no longer (R96). -/
def State.perform (s : State) (cells : List (Nat × Byte × Byte)) : State :=
  let t : State :=
    { s with
      mem := s.mem.putCells cells
      watched := s.watched.filter (fun e => !cells.any (fun c => c.1 / 64 == e.2)) }
  t.heal (cells.map (fun c => c.1))

/-- The cells of the low `n` bytes of a value at `key` (R5). -/
def cellsOf (key n x : Nat) : List (Nat × Byte × Byte) :=
  (List.range n).map (fun i => (key + i, BitVec.ofNat 8 (x >>> (8 * i)), 0xFF#8))

/-- Cells in runs that each lie in one aligned word (R181). -/
def splitWords : List (Nat × Byte × Byte) → List (List (Nat × Byte × Byte))
  | [] => []
  | c :: cs =>
    match splitWords cs with
    | (d :: ds) :: t => if c.1 / 8 == d.1 / 8 then (c :: d :: ds) :: t else [c] :: (d :: ds) :: t
    | t => [c] :: t

/-- The queue entries of a store, one for each word (R181, R187). -/
def entriesOf (cls : BitVec 4) (grp : Nat) (cells : List (Nat × Byte × Byte)) : List Issued :=
  (splitWords cells).map (fun l => { cls := cls, grp := grp, cells := l, load := none })

/-- A store of a hart in a class (R182): performed at once, or entered into the class queue (log entry 7). -/
def State.issueStore (s : State) (id : Nat) (cls : BitVec 4) (cells : List (Nat × Byte × Byte)) : State :=
  if s.queued then
    s.setHart id { s.hart id with queue := (s.hart id).queue ++ entriesOf cls (s.hart id).now cells }
  else s.perform cells

/-- The bytes that a queue entry accesses. -/
def Issued.keys (q : Issued) : List Nat :=
  match q.load with
  | some l => [l.key]
  | none => q.cells.map (fun c => c.1)

/-! ### Translation (R315-R330) -/

/-- The kinds of access `xlate` distinguishes (R36). -/
inductive Kind where
  | fetch | load | store | stream | atomic
  deriving DecidableEq, Repr

/-- How an access reaches a page, for its use state (R328). -/
inductive Use where
  | unit | elem | other
  deriving DecidableEq, Repr

/-- The PAGE cause of a kind (R319). -/
def Kind.page : Kind → Cause
  | .fetch => .pageFetch
  | .load => .pageLoad
  | .store => .pageStore
  | .stream => .pageStream
  | .atomic => .pageStore

/-- A kind that writes. -/
def Kind.writes : Kind → Bool
  | .store => true
  | .atomic => true
  | _ => false

/-- The permissions a kind needs (R319): r, w, x. -/
def Kind.allowed (k : Kind) (r w x : Bool) : Bool :=
  match k with
  | .fetch => x
  | .load => r
  | .stream => r
  | .store => w
  | .atomic => r && w

/-- What an access gives: a value, a cause, or a stall until Aczar or the granule exchange has done its part. -/
inductive Acc (α : Type) where
  | ok (x : α) (s : State)
  | trap (c : Cause) (s : State)
  | stall (s : State)

/-- Go on with the value of an access. -/
def Acc.bind {α β : Type} (a : Acc α) (f : α → State → Acc β) : Acc β :=
  match a with
  | .ok x s => f x s
  | .trap c s => .trap c s
  | .stall s => .stall s

/-- The stage-2 record that covers an intermediate address. -/
def State.s2page (s : State) (p ia : Nat) : Option S2Page :=
  s.s2.find? (fun e => e.part == p && decide (e.ia ≤ ia ∧ ia < e.ia + e.size))

/-- A stage-2 miss or permission failure of an access of cluster c (R325): it waits for Aczar, or raises PERM once Aczar
has refused it. -/
def State.s2stall {α : Type} (s : State) (c p ia : Nat) : Acc α :=
  let b := ia / 4096 * 4096
  let mine := fun m : S2Miss => m.cluster == c && m.part == p && m.ia == b
  if s.s2miss.any (fun m => mine m && m.refused) then .trap .perm { s with s2miss := s.s2miss.filter (fun m => !mine m) }
  else if s.s2miss.any mine then .stall s
  else .stall { s with s2miss := s.s2miss ++ [{ cluster := c, part := p, ia := b, refused := false }] }

/-- Where a page that is not resident is accessed: a pinned page, or one above 1 MiB, where it lies (R326). -/
def S2Page.place (e : S2Page) : Option Nat :=
  match e.hbm with
  | some pa => some pa
  | none =>
    match e.holder with
    | some r => if e.pinned || decide (2 ^ 20 < e.size) then some (resKey r) else none
    | none => none

/-- A leaf of stage 1: the page's intermediate address, its size and permissions (R317). -/
structure Leaf where
  ia : Nat
  size : Nat
  r : Bool
  w : Bool
  x : Bool
  u : Bool
  deriving DecidableEq, Repr

/-- The size of a page of size code `sz` (R318). -/
def pageSize (sz : Nat) : Nat := 4096 * 4 ^ sz

/-- The level at which a leaf of size code `sz` lies (R318); 5 for a reserved code. -/
def leafLevel (sz : Nat) : Nat := if sz < 5 then 0 else if sz < 9 then 1 else if sz < 12 then 2 else 5

/-- An entry has a reserved bit set (R317). -/
def pteReserved (e : BitVec 64) : Bool :=
  e.extractLsb' 60 4 != 0 || e.extractLsb' 52 4 != 0 || e.extractLsb' 6 2 != 0

/-- What a stage-1 entry at a level is: a leaf, the next node, or invalid or malformed (R317, R318). -/
inductive Pte where
  | bad
  | next (node : Nat)
  | leaf (l : Leaf)
  deriving DecidableEq, Repr

/-- Read a stage-1 entry at a level (R317, R318). -/
def readPte (e : BitVec 64) (lev : Nat) : Pte :=
  if !e.getLsbD 0 || pteReserved e then .bad
  else if e.getLsbD 1 then
    let sz := (e.extractLsb' 8 4).toNat
    let oa := (e.extractLsb' 12 40).toNat * 4096
    if leafLevel sz == lev && oa % pageSize sz == 0 then
      .leaf { ia := oa, size := pageSize sz, r := e.getLsbD 3, w := e.getLsbD 4, x := e.getLsbD 5, u := e.getLsbD 2 }
    else .bad
  else if e.extractLsb' 2 4 != 0 || e.extractLsb' 8 4 != 0 || lev == 0 then .bad
  else .next ((e.extractLsb' 12 40).toNat * 4096)

/-- The size code of a page size (R318); a reserved one where no code has it. -/
def sizeCode (n : Nat) : Nat := ((List.range 12).find? (fun k => pageSize k == n)).getD 15

/-- The stage-2 leaf that Aczar writes for a page, in the format of R317 (R325); a place outside the module has no physical
address, and its `oa` is 0 (log entry 11). -/
def S2Page.leaf (e : S2Page) : BitVec 64 :=
  let oa := match e.hbm with | some pa => pa / 4096 * 4096 | none => 0
  BitVec.ofNat 64 (7 + 8 * e.r.toNat + 16 * e.w.toNat + 32 * e.x.toNat + 256 * sizeCode e.size + oa)

/-- The span of one entry of a level (R316). -/
def levelSpan (lev : Nat) : Nat := 2 ^ (12 + 9 * lev)

/-- The stage-2 entry of a partition at a level for an intermediate address (R325): the leaf of the page that covers it, a
table entry where pages lie below it, or none. -/
def State.s2entry (s : State) (p ia lev : Nat) : BitVec 64 :=
  match (s.s2page p ia).filter (fun e => leafLevel (sizeCode e.size) == lev) with
  | some e => e.leaf
  | none =>
    if s.s2.any (fun e => e.part == p && decide (leafLevel (sizeCode e.size) < lev ∧ e.ia / levelSpan lev = ia / levelSpan lev))
    then 1 else 0

/-- The stage-2 walk of an intermediate address from a level on (R325, R316): the page whose leaf it reaches. -/
def State.walk2 (s : State) (p ia : Nat) : Nat → Option S2Page
  | 0 =>
    match readPte (s.s2entry p ia 0) 0 with
    | .leaf _ => s.s2page p ia
    | _ => none
  | lev + 1 =>
    match readPte (s.s2entry p ia (lev + 1)) (lev + 1) with
    | .leaf _ => s.s2page p ia
    | .next _ => State.walk2 s p ia lev
    | .bad => none

/-- Stage 2 of an intermediate address for an access of cluster c (R325): the walk starts at level 4, which bits `51..48`
index; it gives the key of the word, and the size of what is linear around it. -/
def State.stage2 (s : State) (c p ia : Nat) (k : Kind) : Acc (Nat × Nat) :=
  match s.walk2 p ia 4 with
  | none => s.s2stall c p ia
  | some e =>
    if k.allowed e.r e.w e.x then
      match e.place with
      | some b => .ok (b + (ia - e.ia), e.size) s
      | none => s.s2stall c p ia
    else s.s2stall c p ia

/-- The index of an address at a level (R316). -/
def pteIndex (va lev : Nat) : Nat := va >>> (12 + 9 * lev) % (if lev == 4 then 256 else 512)

/-- A byte lies in a scratchpad granule that has not been exchanged since the flip of its cluster (R338). -/
def State.away (s : State) (key : Nat) : Bool :=
  decide (2 ^ 51 ≤ key ∧ key < 2 ^ 52)
    && (s.cluster ((key - 2 ^ 51) / 0x800000)).exch.contains ((key - 2 ^ 51) % 0x800000 / 65536)

/-- The context whose bytes a granule of a scratchpad holds (R338): until it is exchanged that of the outgoing context. -/
def State.holderOf (s : State) (q : Part) (c g : Nat) : Option Nat :=
  if (s.cluster c).exch.contains g then some (s.cluster c).exchOut else q.ctxOn c

/-- The cluster in whose image a byte lies for context x of partition p (R354, R361): a byte of a scratchpad whose granule
another context holds. -/
def State.imageAt (s : State) (p x key : Nat) : Option Nat :=
  if 2 ^ 51 ≤ key ∧ key < 2 ^ 52 then
    let c := (key - 2 ^ 51) / 0x800000
    match tget s.parts p with
    | some q =>
      if q.clusters.contains c && s.holderOf q c ((key - 2 ^ 51) % 0x800000 / 65536) != some x then some c else none
    | none => none
  else none

/-- The scratchpad of cluster c in the image of context x of partition p (R336). -/
def State.scratchOf (s : State) (p x c : Nat) : Memory :=
  (((s.ctx p x).bind (fun k => tget k.images c)).map (fun i => i.scratch)).getD []

/-- Read `n` bytes at a key for a context, running or suspended (R192, R354). -/
def State.readIn (s : State) (p x key n : Nat) : Nat :=
  match s.imageAt p x key with
  | some c => (s.scratchOf p x c).readLE (key - scratchBase c) n
  | none => s.mem.readLE key n

/-- The stage-1 entry of an address in a node at a level (R316), for context x; the read is translated by stage 2. A node on a
scratchpad page is that of the context (R315, R354), and a walk of a hart or channel waits until its granule is exchanged
(R338). -/
def State.pteAt (s : State) (c p x va lev node : Nat) : Acc Pte :=
  (s.stage2 c p (node + 8 * pteIndex va lev) .load).bind fun key s =>
    if s.badAt key.1 then .trap .eccFatal s
    else if c < 256 && s.away key.1 then .stall s
    else .ok (readPte (BitVec.ofNat 64 (s.readIn p x key.1 8)) lev) s

/-- The stage-1 walk of an access of cluster c from a node at a level (R319). -/
def walk (c p x va : Nat) (k : Kind) : Nat → Nat → State → Acc Leaf
  | 0, node, s =>
    (s.pteAt c p x va 0 node).bind fun e s =>
      match e with
      | .leaf l => .ok l s
      | _ => .trap k.page s
  | lev + 1, node, s =>
    (s.pteAt c p x va (lev + 1) node).bind fun e s =>
      match e with
      | .leaf l => .ok l s
      | .next n => walk c p x va k lev n s
      | .bad => .trap k.page s

/-- The TLB entry that covers an address of a space. -/
def tlbFind (t : List TlbEntry) (p x va : Nat) : Option TlbEntry :=
  t.find? (fun e => e.part == p && e.ctx == x && decide (e.va ≤ va ∧ va < e.va + e.size))

/-- The bank of a page in a cluster TLB (R322). -/
def tlbBank (e : TlbEntry) : Nat :=
  let n := e.va / e.size
  (n % 16) ^^^ (n / 16 % 16)

/-- Fill a set that holds at most `cap` entries: a full set gives one up (R322, log entry 10). An entry already there is
not entered again. -/
def tlbFill (same : TlbEntry → Bool) (cap v : Nat) (l : List TlbEntry) (e : TlbEntry) : List TlbEntry :=
  let t := l.filter (fun x => x != e)
  let set := t.filter same
  if set.length < cap then e :: t
  else e :: (t.filter (fun x => !same x) ++ set.eraseIdx (v % cap))

/-- The use state after an access (R328): a page's first fill since it became resident sets it. -/
def useAfter (fresh : Bool) (old : UseState) : Use → UseState
  | .elem => .retained
  | .unit => if fresh then .useOnce else old
  | .other => if fresh || old == .useOnce then .ordinary else old

/-- Record an access through a TLB fill in the page's use state (R328). -/
def State.touch (s : State) (p ia : Nat) (u : Use) : State :=
  { s with
    fills := s.fills + 1
    s2 := s.s2.map (fun e =>
      if e.part == p && decide (e.ia ≤ ia ∧ ia < e.ia + e.size) then
        { e with use := useAfter (e.fill == 0) e.use u, fill := s.fills + 1 }
      else e) }

/-- Enter a translation into the cluster TLB (R322). -/
def State.fillTlb (s : State) (c : Nat) (e : TlbEntry) : State :=
  let k := s.cluster c
  (s.setCluster c { k with tlb := tlbFill (fun x => tlbBank x == tlbBank e) 32 (Config.victim s.free) k.tlb e }).drawn

/-- Enter a translation into the die's last-level TLB (R322). -/
def State.fillDie (s : State) (c : Nat) (e : TlbEntry) : State :=
  let d := (tget s.dieTlb (c / 32)).getD []
  let t : State :=
    { s with dieTlb := tput s.dieTlb (c / 32) (tlbFill (fun _ => true) 6144 (Config.victim s.free) d e) }
  t.drawn

/-- The region of the list that holds an address (R271). -/
def regionAt (rs : List Region) (va : Nat) : Option Region :=
  rs.find? (fun r => decide (r.lo ≤ va ∧ va < r.lo + r.size))

/-- Check a leaf's permissions (R319): `u` is needed in mode U. -/
def leafAllows (priv : Bool) (k : Kind) (r w x u : Bool) : Bool := k.allowed r w x && (priv || u)

/-- Stage 1 of an address, without the TLBs (R319): the leaf, or the cause. -/
def State.stage1 (s : State) (w : Who) (k : Kind) (va : Nat) : Acc Leaf :=
  match s.ctx w.part w.ctx with
  | some c => walk w.cluster w.part w.ctx va k 4 c.root s
  | none => .trap k.page s

/-- The stage-1 page of an address as the tables hold it, from a node at a level on (R316-R318): its start and size. An invalid
entry stands for all that its level spans. -/
def pageFrom (c p x va : Nat) : Nat → Nat → State → Nat × Nat
  | 0, node, s =>
    match s.pteAt c p x va 0 node with
    | .ok (.leaf l) _ => (va / l.size * l.size, l.size)
    | .ok _ _ => (va / levelSpan 0 * levelSpan 0, levelSpan 0)
    | _ => (va, 1)
  | lev + 1, node, s =>
    match s.pteAt c p x va (lev + 1) node with
    | .ok (.leaf l) _ => (va / l.size * l.size, l.size)
    | .ok (.next n) _ => pageFrom c p x va lev n s
    | .ok _ _ => (va / levelSpan (lev + 1) * levelSpan (lev + 1), levelSpan (lev + 1))
    | _ => (va, 1)

/-- The page of an address as the tables of a party's context hold it now. -/
def State.storedPage (s : State) (w : Who) (va : Nat) : Nat × Nat :=
  match s.ctx w.part w.ctx with
  | some c => pageFrom w.cluster w.part w.ctx va 4 c.root s
  | none => (va, 1)

/-- The page through which an access of a party at an address has just been translated (R100, R322). -/
def State.usedPage (s : State) (w : Who) (va : Nat) : Nat × Nat :=
  match tlbFind (s.cluster w.cluster).tlb w.part w.ctx va with
  | some e => (e.page, e.pageSize)
  | none => s.storedPage w va

/-- Translate an address outside the window that no TLB holds, and fill the TLBs (R319, R322). -/
def State.xlateMiss (s : State) (w : Who) (k : Kind) (u : Use) (va : Nat) : Acc Nat :=
  (s.stage1 w k va).bind fun l s =>
    if leafAllows w.priv k l.r l.w l.x l.u then
      match regionAt w.regions va with
      | some g => .ok ((if k.writes then g.shadow else g.visible) + (va - g.lo)) s
      | none =>
        let off := va % l.size
        (s.stage2 w.cluster w.part (l.ia + off) k).bind fun key s =>
          let size := min l.size key.2
          let e : TlbEntry :=
            { part := w.part, ctx := w.ctx, va := va / size * size, size := size, ia := (l.ia + off) / size * size,
              key := key.1 - va % size, r := l.r, w := l.w, x := l.x, u := l.u, page := va / l.size * l.size,
              pageSize := l.size }
          .ok key.1 (((s.touch w.part (l.ia + off) u).fillTlb w.cluster e).fillDie w.cluster e)
    else .trap .perm s

/-- Whether stage 2 permits an access through a cached translation whose page it still covers (R325). -/
def State.s2permits (s : State) (e : TlbEntry) (va : Nat) (k : Kind) : Bool :=
  match s.s2page e.part (e.ia + (va - e.va)) with
  | some q => k.allowed q.r q.w q.x
  | none => true

/-- Where an address leads by the window, a publishable region, the TLBs or the tables (R168, R315, R319, R271). -/
def State.place (s : State) (w : Who) (k : Kind) (u : Use) (va : Word) : Acc Nat :=
  let inWin := match w.win with
    | some b => decide ((va - b).toNat < scratchSize)
    | none => false
  if decide (2 ^ 56 ≤ va.toNat) then .trap k.page s
  else if inWin then
    let off := (va - w.win.getD 0).toNat
    if k == .fetch then .trap .pageFetch s
    else .ok (scratchBase w.cluster + off) s
  else if k.writes && !w.chan && (regionAt w.regions va.toNat).isSome then .trap .perm s
  else if (regionAt w.regions va.toNat).isSome then s.xlateMiss w k u va.toNat
  else
    match tlbFind (s.cluster w.cluster).tlb w.part w.ctx va.toNat with
    | some e =>
      if s.badSram.contains (.tlb w.cluster (e.va / 4096)) then .trap .eccFatal s
      else if leafAllows w.priv k e.r e.w e.x e.u then
        if s.s2permits e va.toNat k then .ok (e.key + (va.toNat - e.va)) s
        else s.s2stall w.cluster w.part (e.ia + (va.toNat - e.va))
      else .trap .perm s
    | none =>
      match tlbFind ((tget s.dieTlb (w.cluster / 32)).getD []) w.part w.ctx va.toNat with
      | some e =>
        if s.badSram.contains (.tlb (256 + w.cluster / 32) (e.va / 4096)) then .trap .eccFatal s
        else if leafAllows w.priv k e.r e.w e.x e.u then
          if s.s2permits e va.toNat k then
            .ok (e.key + (va.toNat - e.va)) ((s.touch w.part (e.ia + (va.toNat - e.va)) u).fillTlb w.cluster e)
          else s.s2stall w.cluster w.part (e.ia + (va.toNat - e.va))
        else .trap .perm s
      | none => s.xlateMiss w k u va.toNat

/-- `xlate(va, kind)` (R36): the key of the byte at `va`, or the cause, or a stall where the byte lies in a scratchpad
granule that is not yet exchanged (R338). -/
def State.xlate (s : State) (w : Who) (k : Kind) (u : Use) (va : Word) : Acc Nat :=
  (s.place w k u va).bind fun key s => if s.away key then .stall s else .ok key s

/-- A region as a reader sees it that chose its backings before (R191). -/
def Region.seenBy (v : List (Nat × Nat)) (r : Region) : Region :=
  if v.contains (r.n, r.shadow) then { r with visible := r.shadow, shadow := r.visible } else r

/-- The regions as the instruction in hand sees them: one that has chosen its backings in an earlier turn keeps them (R191). -/
def Hart.seen (h : Hart) (rs : List Region) : List Region :=
  match h.engaged with
  | some (.viewing v) => rs.map (Region.seenBy v)
  | _ => rs

/-- The party a hart is for translation (R319): its cluster, window, mode, and the regions of its partition. -/
def State.who (s : State) (id : Nat) : Who :=
  let c := clusterOf id
  let sp := s.spaceOf c
  { cluster := c, win := some (s.hart id).scpwin, priv := (s.hart id).priv, part := sp.1, ctx := sp.2, chan := false,
    regions := (s.hart id).seen (match s.partOf c with | some (_, p) => p.regions | none => []) }

/-- The instruction word at an address, read for a hart's fetch (R319). -/
def State.codeAt (s : State) (pc : Word) : Acc (BitVec 32) :=
  (s.xlate (s.who s.cur) .fetch .other pc).bind fun key s =>
    if s.badAt key then .trap .eccFatal s else .ok (BitVec.ofNat 32 (s.mem.readLE key 4)) s

/-- Read `n` bytes (at most 8, within one aligned word) at a virtual address (R36). -/
def State.readVa (s : State) (w : Who) (k : Kind) (u : Use) (va : Word) (n : Nat) : Acc Nat :=
  (s.xlate w k u va).bind fun key s =>
    if s.badAt key then .trap .eccFatal s else .ok (s.mem.readLE key n) s

/-- Read `n` aligned 8-byte words at rising addresses, giving the words and, at a fault, its address. -/
def State.readWords (s : State) (w : Who) (k : Kind) (va : Word) : Nat → Acc (List Word)
  | 0 => .ok [] s
  | n + 1 =>
    (s.readVa w k .other va 8).bind fun x s =>
      (State.readWords s w k (va + 8) n).bind fun xs s => .ok (BitVec.ofNat 64 x :: xs) s

/-! ### Taking a trap, returning from one, stopping (R102-R106, R331-R335) -/

/-- The code of a cause (R34). -/
def Cause.code : Cause → BitVec 8
  | .illegal => 0x01 | .priv => 0x02 | .misalign => 0x03 | .pageFetch => 0x04 | .pageLoad => 0x05
  | .pageStore => 0x06 | .pageStream => 0x07 | .perm => 0x08 | .ebankPartial => 0x09 | .malformedCrd => 0x0A
  | .ruleDepth => 0x0B | .ruleOrder => 0x0C | .underwait => 0x0D | .overlap => 0x0E | .brk => 0x0F | .svc => 0x10
  | .eccFatal => 0x12 | .laneRetire => 0x13 | .fabric => 0x14

/-- The trap slot of a hart: the last 576 bytes of its cluster's scratchpad (R102). -/
def slotKey (id : Nat) : Nat := scratchBase (clusterOf id) + 0x5FFDC0 + 64 * (id % 16)

/-- The lent state in the format of `tpfx`, with `pv` = 1 (R31). -/
def lentWord : Option Lent → Word
  | none => 0
  | some l =>
    (1#1 ++ 0#38 ++ l.pred ++ BitVec.ofBool l.inv ++ l.creg ++ BitVec.ofBool l.cv ++ 0#14 : BitVec 64)

/-- The lent state that a word in the format of `tpfx` holds, when its `pv` is 1 (R31). -/
def lentOf (w : Word) : Option Lent :=
  if w.getLsbD 63 then
    some { pred := w.extractLsb' 21 4, inv := w.getLsbD 20, creg := w.extractLsb' 15 5, cv := w.getLsbD 14,
           viaTret := true }
  else none

/-- The harts of a list of clusters. -/
def hartsOf (cs : List Nat) : List Nat := cs.flatMap (fun c => (List.range 9).map (fun k => 16 * c + k))

/-- The harts of a hart's partition, or the hart alone where its cluster has none. -/
def State.fellows (s : State) (id : Nat) : List Nat :=
  match s.partOf (clusterOf id) with
  | some (_, p) => hartsOf p.clusters
  | none => [id]

/-- Halt harts (R18, R93). -/
def State.haltAll (s : State) (ids : List Nat) : State :=
  ids.foldl (fun s i => s.setHart i { s.hart i with status := .halted }) s

/-- A `halt`, or a trap while `tb` = 1: the partition's harts halt and Aczar is told which hart it was and whether it was
a double trap (R18, R93, R331). -/
def State.haltPart (s : State) (id : Nat) (double : Bool) : State :=
  let s := s.haltAll (s.fellows id)
  let s := match s.partOf (clusterOf id) with
    | some (p, x) => s.setPart p { x with
        halted := true, doubleTrap := x.doubleTrap || double, haltedBy := some ((s.hart id).tcause.toNat % 2 ^ 8) }
    | none => s
  { s with reports := s.reports ++ [(id, double)] }

/-- The hart after trap entry (R103). -/
def Hart.enter (h : Hart) (c : Cause) (tval tpc : Word) (lent : Option Lent) (mid : Bool) : Hart :=
  { h with
    status := .running
    tcause := c.code.setWidth 64
    tval := tval
    tpc := tpc
    tstat := (BitVec.ofBool mid ++ BitVec.ofBool h.priv : BitVec 2).setWidth 64
    smissCopy := h.smiss
    tpfx := lentWord lent
    hctl := mkHctl true h.rm h.chk true
    lent := none
    engaged := none
    floor := 0
    asleep := false
    woken := false
    pc := h.tvec
    now := h.now + 8 }

/-- Every member of a cluster's membership runs the same context and is at its cooperative operation of the same number,
or past it (R245, R246). A count that a member has left from an earlier membership, before its own new `mx.coop`, counts as
well (DESIGN CHOICE, log entry 45). -/
def State.coopReady (s : State) (c : Nat) : Bool :=
  let f := s.fast c
  f.coopAt && (f.coopGo || (List.range 4).all (fun p =>
    let g := s.fast (4 * (c / 4) + p)
    !f.coop.getLsbD p
      || (s.spaceOf (4 * (c / 4) + p) == s.spaceOf c
        && (decide (f.seqn < g.seqn) || (f.seqn == g.seqn && g.coopAt)))))

/-- A hart may leave what it waits in: a control core only with its loom queue drained (R246), and not once its
cooperative operation may issue on every member. -/
def State.mayStop (s : State) (id : Nat) : Bool :=
  !(isControl id) || ((s.cluster (clusterOf id)).queue.isEmpty && !s.coopReady (clusterOf id))

/-- A control core that leaves its wait is no longer at its cooperative operation (R246, R396). -/
def State.leaveCoop (s : State) (id : Nat) : State :=
  if isControl id && (s.fast (clusterOf id)).coopAt then
    s.setFast (clusterOf id) { s.fast (clusterOf id) with coopAt := false, coopGo := false }
  else s

/-- Trap entry writes the control registers 0x20-0x24 of the hart whole, which clears their errors (R103, R367; log
entry 25). -/
def State.healRecord (s : State) (id : Nat) : State :=
  { s with badSram := s.badSram.filter (fun l => match l with
      | .control h n => !(h == id && 0x20 ≤ n && n ≤ 0x24)
      | _ => true) }

/-- Taking a trap (R103): the pending results complete; with `tb` = 1 it is a double trap; otherwise a1-a4 go to
the slot without translation, the trap record is written, and the hart enters mode P at `tvec`. -/
def State.takeTrap (s : State) (id : Nat) (c : Cause) (tval tpc : Word) (lent : Option Lent) (mid : Bool) : State :=
  let s := s.leaveCoop id
  let h := (s.hart id).finish
  if h.tb then (s.setHart id h).haltPart id true
  else
    let s := s.perform (cellsOf (slotKey id) 8 (h.getA 1).toNat ++ cellsOf (slotKey id + 8) 8 (h.getA 2).toNat
      ++ cellsOf (slotKey id + 16) 8 (h.getA 3).toNat ++ cellsOf (slotKey id + 24) 8 (h.getA 4).toNat)
    (s.healRecord id).setHart id (h.enter c tval tpc lent mid)

/-- What a stalled instruction leaves: the state before it, with the request to Aczar recorded (R326). -/
def State.rollback (s0 s : State) : State :=
  { s0 with s2miss := s.s2miss }

/-- What an instruction leaves that stalls at element k: it is undone, and will execute that element again before a stop
reaches it (R326, R327). -/
def State.stuck (s0 s : State) (k : Nat) : State :=
  let r := s0.rollback s
  r.setMe { r.me with floor := k + 1 }

/-- The trap slot of a hart lies in a granule that is not yet exchanged (R102, R338). -/
def State.slotAway (s : State) (id : Nat) : Bool := s.away (slotKey id)

/-- An instruction that began in `s0` raises a cause: the trap is taken (R103), but for a hart whose slot is not yet
exchanged: it stalls with the instruction undone, and executes it again (R338). -/
def State.raise (s s0 : State) (c : Cause) (tval tpc : Word) (lent : Option Lent) (mid : Bool) : State :=
  if s.slotAway s.cur && !s.me.tb then
    let r := s0.rollback s
    r.setMe { r.me with status := .stalled }
  else s.takeTrap s.cur c tval tpc lent mid

/-- The return of `tret` (R105), its alignment check passed. -/
def State.trapReturn (s : State) : State :=
  let h := s.me
  let k := slotKey s.cur
  let rd := fun n => BitVec.ofNat 64 (s.mem.readLE (k + n) 8)
  let h := (((h.setA 1 (rd 0) 1).setA 2 (rd 8) 1).setA 3 (rd 16) 1).setA 4 (rd 24) 1
  s.setMe { h with
    pc := h.tpc
    hctl := mkHctl false h.rm h.chk (h.tstat.getLsbD 0)
    smiss := h.smissCopy
    lent := lentOf h.tpfx
    tpfx := h.tpfx &&& 0x7FFFFFFFFFFFFFFF
    now := h.now + 8 }

/-- A stop of a hart (R333-R335): the stop record is written, the trap registers are not. -/
def State.takeStop (s : State) (id : Nat) (why : BitVec 4) : State :=
  let s := s.leaveCoop id
  let h := (s.hart id).finish
  s.setHart id { h with
    status := .stopped
    preempt := false
    expired := false
    asleep := false
    woken := false
    engaged := none
    floor := 0
    lent := none
    stop := { stopped := true, mid := h.midway, full := !(isControl id) && why != 1, why := why, spc := h.pc,
              spfx := lentWord h.lent, live := h.live } }

/-! ### Issuing an instruction (R35, R67-R71) -/

/-- What executing an instruction comes to, before it retires. -/
inductive Res where
  /-- It has had its effect and the next instruction follows. -/
  | done (s : State)
  /-- It has had its effect and execution goes on at an address. -/
  | goto (s : State) (t : Word)
  /-- It raises a cause; the flag says whether element progress is valid (R33). -/
  | trap (s : State) (c : Cause) (tval : Word) (mid : Bool)
  /-- It waits, with no effect so far (R333, R396). -/
  | wait (s : State)
  /-- It waits where neither a trap nor a stop reaches it: a stage-2 miss, a granule not yet exchanged, a wait for the
  loom (R326, R333, R338, R396). -/
  | stall (s : State)
  /-- It leaves the hart in this state as it is (a stop, a halt). -/
  | leave (s : State)

/-- The harts that hold a form (R67). -/
inductive On where
  | both | vector | control
  deriving DecidableEq, Repr

/-- How a form takes a lent predicate (R68, R70): not at all, as a condition for the whole instruction, or bit by
bit. -/
inductive Lending where
  | no | whole | bits
  deriving DecidableEq, Repr

/-- Where a form meets an uncorrectable error of a vector or mask register that it reads (R367): in one of the granules that
hold what it reads, by register and number; at an element that it takes up, before any effect; or in its own element loop,
which performs the elements below it. -/
inductive EccAt where
  | reads (l : List (Dst × Nat))
  | elems | loop
  deriving DecidableEq, Repr

/-- The granule of element i of width w of vector register r (R367). -/
def Hart.granule (h : Hart) (r : Reg) (w i : Nat) : Dst × Nat := (.v r, h.bitPos w i / 64)

/-- What issue must know of a form. -/
structure Info where
  /-- `wt` (R56). -/
  wt : BitVec 3
  on : On
  /-- Mode P is needed (R67). -/
  priv : Bool
  lending : Lending
  /-- The p field, where it is a predicate field (`predfield` of R68). -/
  pred : Option (BitVec 3)
  /-- `pfx`, BR, `jr`, `tret`, `setvl`: never the second word of a pair (R32). -/
  flow : Bool
  /-- Traps with cause ILLEGAL while `vbad` = 1 (R19). -/
  vec : Bool
  dest : Option Dst
  srcs : List Dst
  /-- The latency of the destination (R29). -/
  lat : Nat
  /-- A check the form makes at issue fails (R35). -/
  ill : Bool
  /-- A check by R16, which R67 makes even where a lent predicate is false (R70). -/
  illCsr : Bool
  /-- Where it meets an uncorrectable error of a vector or mask register it reads (R367). -/
  ecc : EccAt
  deriving DecidableEq, Repr

/-- The form exists on the hart (R67). -/
def On.holds (o : On) (id : Nat) : Bool :=
  match o with
  | .both => true
  | .vector => !isControl id
  | .control => isControl id

/-- The class of a destination copy register agrees with the destination (R68, R69). -/
def copyFits (d : Option Dst) (creg : Reg) : Bool :=
  match d with
  | some (.a _) => true
  | some (.v _) => true
  | some (.m _) => decide (creg.toNat < 16)
  | none => false

/-- The checks of R68 for the second word of a pair. -/
def pairBad (i : Info) (l : Lent) : Bool :=
  (l.pred == 0 && l.inv)
    || i.flow
    || (l.pred != 0 && (match i.pred with | some p => p != 0 | none => false))
    || (l.pred != 0 && i.lending == .no)
    || (l.cv && !copyFits i.dest l.creg)
    || (!l.cv && l.creg != 0)

/-- The destination that a code of R64 and R65 has, by its file (R69): register 0 stands for the file. -/
def codeDest (maj fn : Nat) : Option Dst :=
  match maj with
  | 0 => if fn == 6 || (10 ≤ fn && fn ≤ 12) then some (.a 0) else none
  | 1 => some (.a 0)
  | 2 => some (.a 0)
  | 4 => if fn < 4 then some (.a 0) else none
  | 5 => if 9 ≤ fn && fn ≤ 13 then none else some (.a 0)
  | 6 => if fn < 9 then some (.v 0) else none
  | 7 => if fn == 8 || fn == 9 then some (.a 0) else some (.m 0)
  | 8 => if (18 ≤ fn && fn ≤ 23) || fn == 28 then some (.m 0) else some (.v 0)
  | 9 => if 10 ≤ fn && fn ≤ 13 then some (.m 0) else some (.v 0)
  | 10 => if fn < 3 || fn == 6 then some (.v 0) else none
  | 11 => if (7 ≤ fn && fn ≤ 15) || fn == 17 then some (.a 0) else some (.v 0)
  | 12 =>
    if fn == 8 then some (.a 0) else if fn == 12 then some (.m 0)
    else if [6, 7, 13, 16, 19].contains fn then some (.v 0) else none
  | 13 => if fn == 0 then some (.a 0) else if fn == 10 then some (.v 0) else none
  | 14 => if [2, 3, 5].contains fn || 9 ≤ fn then some (.a 0) else none
  | _ => none

/-- How a code takes a lent predicate (`lendable` of R68). -/
def codeLending (maj fn : Nat) : Lending :=
  if maj ≤ 5 then .whole
  else match maj with
    | 7 => if [6, 7, 11].contains fn then .no else .bits
    | 10 => if 6 ≤ fn then .no else .bits
    | 11 => if fn == 17 || fn == 18 then .no else .bits
    | 12 => if [6, 7, 12, 13, 16, 19].contains fn then .bits else .no
    | 13 => if fn == 9 || fn == 10 then .bits else .no
    | 14 => .no
    | _ => .bits

/-- The code of a word within its major (R57, R64): VINT and VFP have a bit for operand b, MEM and VMEM three bits. -/
def codeOf (y : BitVec 32) : Nat :=
  match (Decode.fmaj y).toNat with
  | 4 => (y.extractLsb' 0 3).toNat
  | 8 => (y.extractLsb' 0 5).toNat
  | 9 => (y.extractLsb' 0 5).toNat
  | 10 => (y.extractLsb' 0 3).toNat
  | _ => (y.extractLsb' 0 6).toNat

/-- The p field of a word, where its format, R or M, has one that is a predicate field (R57, R60; `predfield` of R68): in
`sp.union`, `mx.mms` and the channel forms, which cannot be lent a predicate, it names something else. -/
def codePred (maj fn : Nat) (y : BitVec 32) : Option (BitVec 3) :=
  match maj with
  | 0 => some (y.extractLsb' 6 3)
  | 1 => some (y.extractLsb' 6 3)
  | 4 => some (y.extractLsb' 3 3)
  | 7 => some (y.extractLsb' 6 3)
  | 8 => if fn == 2 || fn == 3 then none else some (y.extractLsb' 6 3)
  | 9 => some (y.extractLsb' 6 3)
  | 10 => some (y.extractLsb' 3 3)
  | 11 => some (y.extractLsb' 6 3)
  | 12 => if codeLending maj fn == .bits then some (y.extractLsb' 6 3) else none
  | 13 => if codeLending maj fn == .bits then some (y.extractLsb' 6 3) else none
  | _ => none

/-- A code is assigned (R64-R66). -/
def codeAssigned (maj fn : Nat) : Bool :=
  match maj with
  | 0 => fn < 18
  | 1 => fn < 28
  | 5 => fn < 14 || 16 ≤ fn
  | 6 => fn < 10 || (16 ≤ fn && fn < 53)
  | 7 => fn < 14
  | 8 => fn < 30
  | 9 => fn < 21
  | 11 => fn < 21
  | 12 => fn < 20
  | 13 => fn < 11
  | 14 => fn < 15
  | _ => true

/-- The word is `pfx`, BR, `jr`, `tret` or `setvl`, well formed or not (R32, R68). -/
def codeFlow (maj fn : Nat) : Bool :=
  maj == 15 || maj == 3 || (maj == 0 && (fn == 1 || fn == 3)) || (maj == 7 && fn == 0)

/-- The word y after a prefix makes the pair ILLEGAL (R32, R68). -/
def pairWordBad (l : Lent) (y : BitVec 32) : Bool :=
  let maj := (Decode.fmaj y).toNat
  let fn := codeOf y
  codeAssigned maj fn
    && pairBad { wt := 0, on := .both, priv := false, lending := codeLending maj fn, pred := codePred maj fn y,
                 flow := codeFlow maj fn, vec := false, dest := codeDest maj fn, srcs := [], lat := 1, ill := false,
                 illCsr := false, ecc := .elems } l

/-- The predicate of the p field, if it is one (R60). -/
def fieldPred (i : Info) : Option (MReg × Bool) :=
  match i.pred with
  | some p => if p != 0 then some (0#1 ++ p, false) else none
  | none => none

/-- The mask register that predicates the instruction and whether it is inverted (R68): a lent predicate, else the
p field. -/
def predOf (i : Info) (h : Hart) : Option (MReg × Bool) :=
  match h.lent with
  | some l => if l.pred != 0 then some (l.pred, l.inv) else fieldPred i
  | none => fieldPred i

/-- The active elements (R13): bit i of the predicate, inverted where the prefix says so. -/
def activeMask (i : Info) (h : Hart) : BitVec 4096 :=
  match predOf i h with
  | some (r, inv) => if inv then ~~~(h.getM r) else h.getM r
  | none => BitVec.allOnes 4096

/-- A scalar form under a lent predicate that is false (R70). -/
def skipped (i : Info) (h : Hart) : Bool :=
  i.lending == .whole && !(activeMask i h).getLsbD 0

/-- UNDERWAIT's `tval` for a register (R34). -/
def underwaitVal : Dst → Word
  | .a r => r.setWidth 64
  | .v r => 0x20 ||| r.setWidth 64
  | .m r => 0x40 ||| r.setWidth 64

/-- The first register of a list that is read before it is readable (R30). Where several are, the spec does not say which
one UNDERWAIT names; the model takes the predicate first and then the sources in the order a form lists them (DESIGN
CHOICE, log entry 42). -/
def firstWaiting (h : Hart) : List Dst → Option Dst
  | [] => none
  | d :: ds => if h.waits d then some d else firstWaiting h ds

/-- A granule of one of the registers carries an uncorrectable error (R367). -/
def State.srcBad (s : State) (ds : List Dst) : Bool :=
  s.badSram.any (fun l => match l with
    | .scalar h r => h == s.cur && ds.any (fun d => match d with | .a x => x.toNat == r | _ => false)
    | .mask h r _ => h == s.cur && ds.any (fun d => match d with | .m x => x.toNat == r | _ => false)
    | .lane h r _ => h == s.cur && ds.any (fun d => match d with | .v x => x.toNat == r | _ => false)
    | _ => false)

/-- A granule of a register of the hart whose turn it is carries an uncorrectable error (R367). -/
def State.granuleBad (s : State) (e : Dst × Nat) : Bool :=
  s.badSram.any (fun l => match l, e.1 with
    | .mask h r g, .m x => h == s.cur && r == x.toNat && g == e.2
    | .lane h r g, .v x => h == s.cur && r == x.toNat && g == e.2
    | _, _ => false)

/-- Element i of one of the vector registers, or bit i of one of the masks, lies in a granule that carries an
uncorrectable error (R367). -/
def State.badElem (s : State) (ds : List Dst) (i : Nat) : Bool :=
  s.badSram.any (fun l => match l with
    | .mask h r g => h == s.cur && i / 64 == g && ds.any (fun d => match d with | .m x => x.toNat == r | _ => false)
    | .lane h r g =>
      h == s.cur && s.me.bitPos s.me.width i / 64 == g
        && ds.any (fun d => match d with | .v x => x.toNat == r | _ => false)
    | _ => false)

/-- The lowest element at which a loop over the elements of `act` below `n` meets an uncorrectable error of a register it
reads (R367). -/
def State.eccCut (s : State) (ds : List Dst) (act : BitVec 4096) (n : Nat) : Option Nat :=
  if s.srcBad ds then (List.range n).find? (fun i => s.me.todo i && act.getLsbD i && s.badElem ds i) else none

/-- An error that a form meets at issue (R367): of a scalar register it reads, of a mask that predicates it, or of a
vector or mask source as its kind says. -/
def State.eccAtIssue (s : State) (i : Info) (act : BitVec 4096) (pr srcs : List Dst) : Bool :=
  let isA := fun d : Dst => match d with | .a _ => true | _ => false
  let n := if isControl s.cur then 4096 else s.me.vl.toNat
  s.srcBad (pr ++ srcs)
    && (s.srcBad (srcs.filter isA)
      || (List.range n).any (fun k => s.badElem pr k)
      || (match i.ecc with
        | .reads l => l.any s.granuleBad
        | .elems => (s.eccCut srcs act n).isSome
        | .loop => false))

/-- One of the control registers with these numbers (R16) carries an uncorrectable error on the hart whose turn it is (R367). -/
def State.ctlBad (s : State) (ns : List Nat) : Bool :=
  s.badSram.any (fun l => match l with
    | .control h n => h == s.cur && ns.contains n
    | _ => false)

/-- A shared part of cluster c carries an uncorrectable error (R367). -/
def State.sharedBad (s : State) (c unit n : Nat) : Bool := s.badSram.contains (.shared c unit n)

/-- Writing shared parts of a cluster whole clears their errors (R367). -/
def State.healShared (s : State) (c unit : Nat) (which : Nat → Bool) : State :=
  { s with badSram := s.badSram.filter (fun l => match l with
      | .shared k u n => !(k == c && u == unit && which n)
      | _ => true) }

/-- What a failed check of issue raises: the cause, its value, and whether the pair as a whole traps at its prefix
(R71). -/
structure IssueTrap where
  cause : Cause
  tval : Word
  atPrefix : Bool
  deriving DecidableEq, Repr

/-- The word of the prefix whose state is lent. -/
def prefixWord (l : Lent) : BitVec 32 :=
  Encode.fmtP l.pred (BitVec.ofBool l.inv) l.creg (BitVec.ofBool l.cv)

/-- The checks made at issue in the order of R35: the pair (R68), ILLEGAL, PRIV, UNDERWAIT, and ECC-FATAL of a
register the form reads. A scalar form whose lent predicate is false raises none after PRIV but for the predicate
itself (R70). -/
def issueCheck (i : Info) (s : State) : Option IssueTrap :=
  let h := s.me
  let w : Word := s.word.setWidth 64
  let pr := (predOf i h).toList.map (fun p => Dst.m p.1)
  if (match h.lent with | some l => pairBad i l | none => false) then
    match h.lent with
    | some l =>
      if l.viaTret then some { cause := .illegal, tval := w, atPrefix := false }
      else some { cause := .illegal, tval := (prefixWord l).setWidth 64, atPrefix := true }
    | none => none
  else if !i.on.holds s.cur || (i.vec && h.vbad) || i.illCsr then some { cause := .illegal, tval := w, atPrefix := false }
  else if i.ill && !skipped i h then some { cause := .illegal, tval := w, atPrefix := false }
  else if i.priv && !h.priv then some { cause := .priv, tval := w, atPrefix := false }
  else
    let srcs := if skipped i h then pr else pr ++ i.srcs
    match if h.chk then firstWaiting h srcs else none with
    | some d => some { cause := .underwait, tval := underwaitVal d, atPrefix := false }
    | none =>
      if s.eccAtIssue i (activeMask i h) pr (srcs.drop pr.length) then
        some { cause := .eccFatal, tval := 0, atPrefix := false }
      else none

/-- The bits of elements 0 to n-1 of width w (R69). -/
def Hart.elemBits (h : Hart) (w n : Nat) : BitVec 16384 :=
  (List.range n).foldl (fun m i => m ||| (lowMask w <<< h.bitPos w i)) 0

/-- The destination copy of R69: `creg` takes what d holds when its results are in place. -/
def Hart.copyOut (h : Hart) (control : Bool) (d : Dst) (creg : Reg) (lat : Nat) : Hart :=
  let f := h.finish
  match d with
  | .a r => h.setA creg (f.getA r) lat
  | .v r =>
    (h.write (.v creg) (h.elemBits h.width h.vl.toNat) (f.getV r) lat).mark creg h.vl.toNat
  | .m r =>
    let n := if control then 4096 else h.vl.toNat
    h.setM (creg.setWidth 4) ((lowMask n).setWidth 4096) (f.getM r) lat

/-- The bits `mask` of register d are written: an error in a granule they cover is gone (R367, log entry 25). -/
def healBits (id : Nat) (d : Dst) (mask : BitVec 16384) (l : List SramLoc) : List SramLoc :=
  let full := fun g => mask.extractLsb' (64 * g) 64 == 0xFFFFFFFFFFFFFFFF
  l.filter (fun e => match d, e with
    | .a r, .scalar h n => !(h == id && n == r.toNat)
    | .v r, .lane h n g => !(h == id && n == r.toNat && full g)
    | .m r, .mask h n g => !(h == id && n == r.toNat && full g)
    | _, _ => true)

/-- What retirement heals: the scalar destination, and what pending results write whole (R367, log entry 25). -/
def healReg (id : Nat) (d : Option Dst) (pend : List Pend) (l : List SramLoc) : List SramLoc :=
  let l := match d with
    | some (.a r) => healBits id (.a r) 0 l
    | _ => l
  if l.isEmpty then l else pend.foldl (fun l p => healBits id p.dst p.mask l) l

/-- What a hart does next, unless a divergence from its log has halted it (R381). -/
def Hart.goes (h : Hart) (x : Status) : Status := if h.status = .halted then .halted else x

/-- Retire an instruction (R29, R69): the copy, the end of the lent state, the cycles it takes, and the next pc. A copy
register that the instruction also writes as its second destination keeps the copy, made here (DESIGN CHOICE, log
entry 42). -/
def State.retire (s : State) (i : Info) (copies : Bool) (pc : Word) : State :=
  let h := s.me
  let h := match h.lent, i.dest with
    | some l, some d => if copies && l.cv then h.copyOut (isControl s.cur) d l.creg i.lat else h
    | _, _ => h
  let s := if copies then { s with badSram := healReg s.cur i.dest h.pend s.badSram } else s
  s.setMe { h with status := h.goes .running, lent := none, pc := pc, now := h.now + 1 + i.wt.toNat, asleep := false,
                   woken := false, floor := 0 }

/-- The lent state and resume address of a synchronous cause (R71, R104). -/
def trapAt (h : Hart) (c : Cause) : Word × Option Lent :=
  if c == .svc then (h.pc + 4, none) else (h.pc, h.lent)

/-- A pre-emption request stops a hart that waits (R333). -/
def State.stopsAtWait (s : State) : Bool := s.me.preempt && s.mayStop s.cur

/-- What becomes of the state when the instruction that began in `s0` has been executed. -/
def settleRes (i : Info) (s0 : State) : Res → State
  | .done s => s.retire i true (s.me.pc + 4)
  | .goto s t => s.retire i true t
  | .trap s c tval mid =>
    let r := trapAt s.me c
    s.raise s0 c tval r.1 r.2 mid
  | .wait s =>
    if s.stopsAtWait then s.takeStop s.cur 2 else s.setMe { s.me with status := s.me.goes .waiting }
  | .stall s => s.setMe { s.me with status := .stalled }
  | .leave s => s

/-- Issue one instruction of the hart whose turn it is: the results that are readable reach their registers, the
checks of R35 are made, and the instruction is executed or passed over (R70). Progress held from an earlier execution
of the instruction stays valid where a check fails (R33). -/
def issue (i : Info) (s : State) (body : State → Res) : State :=
  let s := s.setMe (s.me.settle s.me.now)
  match issueCheck i s with
  | some t =>
    if t.atPrefix then s.raise s t.cause t.tval (s.me.pc - 4) none s.me.midway
    else s.raise s t.cause t.tval s.me.pc s.me.lent s.me.midway
  | none =>
    if skipped i s.me then s.retire i false (s.me.pc + 4) else settleRes i s (body s)

/-- The meaning of an instruction word: it always has a next state. -/
def run (i : Info) (s : State) (body : State → Res) : Host.Outcome State Fault Refusal := .next (issue i s body)

end Sys2Proof.Machine
end

