-- ==== Sys2Proof/Machine/Scalar.lean ====
section
/-! DEFINITION. Majors ALU, ALUI and BR: scalar arithmetic, branches and jumps (R83-R89). -/

namespace Sys2Proof.Machine

/-- Issue of a scalar form (R83): held by both kinds of hart, performed or not as a whole under a predicate (R70). -/
def scalarInfo (w : BitVec 3) (dest : Option Dst) (srcs : List Dst) (lat : Nat) : Info :=
  { wt := w, on := .both, priv := false, lending := .whole, pred := none, flow := false, vec := false, dest := dest,
    srcs := srcs, lat := lat, ill := false, illCsr := false, ecc := .elems }

/-- Issue of a branch or jump: never the second word of a pair (R32). -/
def branchInfo (w : BitVec 3) (srcs : List Dst) : Info :=
  { scalarInfo w none srcs 1 with flow := true }

/-- d := f(a, b) (R83). -/
def alu (w : BitVec 3) (d a b : Reg) (lat : Nat) (f : Word → Word → Word) (s : State) :
    Host.Outcome State Fault Refusal :=
  run (scalarInfo w (some (.a d)) [.a a, .a b] lat) s fun s => .done (s.setA d (f (s.me.getA a) (s.me.getA b)) lat)

/-- d := f(a) (R83, R86). -/
def alu1 (w : BitVec 3) (d a : Reg) (f : Word → Word) (s : State) : Host.Outcome State Fault Refusal :=
  run (scalarInfo w (some (.a d)) [.a a] 1) s fun s => .done (s.setA d (f (s.me.getA a)) 1)

/-- A truth value as a register value (R84). -/
def boolWord (b : Bool) : Word := if b then 1 else 0

/-- The shift amount: bits `5..0` (R84). -/
def shAmt (b : Word) : Nat := b.toNat % 64

/-- `div` (R85). -/
def divS (a b : Word) : Word :=
  if b = 0 then 0xFFFFFFFFFFFFFFFF
  else if a = 0x8000000000000000 ∧ b = 0xFFFFFFFFFFFFFFFF then 0x8000000000000000
  else BitVec.ofInt 64 (a.toInt.tdiv b.toInt)

/-- `rem` (R85). -/
def remS (a b : Word) : Word :=
  if b = 0 then a
  else if a = 0x8000000000000000 ∧ b = 0xFFFFFFFFFFFFFFFF then 0
  else BitVec.ofInt 64 (a.toInt - b.toInt * a.toInt.tdiv b.toInt)

/-- `divn` (R85). -/
def divU (a b : Word) : Word := if b = 0 then 0xFFFFFFFFFFFFFFFF else BitVec.ofNat 64 (a.toNat / b.toNat)

/-- `remn` (R85). -/
def remU (a b : Word) : Word := if b = 0 then a else BitVec.ofNat 64 (a.toNat % b.toNat)

/-- Leading zeros; 64 for 0 (R84). -/
def clzOf (a : Word) : Nat := if a = 0 then 64 else 63 - Nat.log2 a.toNat

/-- Trailing zeros; 64 for 0 (R84). -/
def ctzOf (a : Word) : Nat := ((List.range 64).find? (fun i => a.getLsbD i)).getD 64

/-- Set bits (R84). -/
def popcOf (a : Word) : Nat := (List.range 64).foldl (fun n i => n + (a.getLsbD i).toNat) 0

/-- The width of a width code: 8, 16 or 32 bits (R84). -/
def extWidth (k : BitVec 5) : Nat := 8 * 2 ^ k.toNat

/-- `ldk` replaces one 12-bit field, or for k = 5 the top four bits (R87). -/
def ldkOf (d : Word) (k : BitVec 5) (imm : BitVec 12) : Word :=
  if k.toNat < 5 then putBits d (0xFFF#64 <<< (12 * k.toNat)) (imm.setWidth 64 <<< (12 * k.toNat))
  else putBits d (0xF#64 <<< 60) (imm.setWidth 64 <<< 60)

/-- The target of a branch: its address plus 4 × the signed offset (R63). -/
def branchTarget {n : Nat} (pc : Word) (off : BitVec n) : Word := pc + 4 * off.signExtend 64

/-- A conditional branch (R88). -/
def branch (w : BitVec 3) (a b : Reg) (off : BitVec 12) (c : Word → Word → Bool) (s : State) :
    Host.Outcome State Fault Refusal :=
  run (branchInfo w [.a a, .a b]) s fun s =>
    if c (s.me.getA a) (s.me.getA b) then .goto s (branchTarget s.me.pc off) else .done s

/-- `add` (R84). -/
def execAdd (w : BitVec 3) (d a b : Reg) (s : State) : Host.Outcome State Fault Refusal :=
  alu w d a b 1 (fun x y => x + y) s

/-- `sub` (R84). -/
def execSub (w : BitVec 3) (d a b : Reg) (s : State) : Host.Outcome State Fault Refusal :=
  alu w d a b 1 (fun x y => x - y) s

/-- `and` (R84). -/
def execAnd (w : BitVec 3) (d a b : Reg) (s : State) : Host.Outcome State Fault Refusal :=
  alu w d a b 1 (fun x y => x &&& y) s

/-- `or` (R84). -/
def execOr (w : BitVec 3) (d a b : Reg) (s : State) : Host.Outcome State Fault Refusal :=
  alu w d a b 1 (fun x y => x ||| y) s

/-- `xor` (R84). -/
def execXor (w : BitVec 3) (d a b : Reg) (s : State) : Host.Outcome State Fault Refusal :=
  alu w d a b 1 (fun x y => x ^^^ y) s

/-- `andn` (R84). -/
def execAndn (w : BitVec 3) (d a b : Reg) (s : State) : Host.Outcome State Fault Refusal :=
  alu w d a b 1 (fun x y => x &&& ~~~y) s

/-- `shl` (R84). -/
def execShl (w : BitVec 3) (d a b : Reg) (s : State) : Host.Outcome State Fault Refusal :=
  alu w d a b 1 (fun x y => x <<< shAmt y) s

/-- `shr` (R84). -/
def execShr (w : BitVec 3) (d a b : Reg) (s : State) : Host.Outcome State Fault Refusal :=
  alu w d a b 1 (fun x y => x >>> shAmt y) s

/-- `sar` (R84). -/
def execSar (w : BitVec 3) (d a b : Reg) (s : State) : Host.Outcome State Fault Refusal :=
  alu w d a b 1 (fun x y => x.sshiftRight (shAmt y)) s

/-- `rol` (R84). -/
def execRol (w : BitVec 3) (d a b : Reg) (s : State) : Host.Outcome State Fault Refusal :=
  alu w d a b 1 (fun x y => x.rotateLeft (shAmt y)) s

/-- `slt` (R84). -/
def execSlt (w : BitVec 3) (d a b : Reg) (s : State) : Host.Outcome State Fault Refusal :=
  alu w d a b 1 (fun x y => boolWord (x.slt y)) s

/-- `sltn` (R84). -/
def execSltn (w : BitVec 3) (d a b : Reg) (s : State) : Host.Outcome State Fault Refusal :=
  alu w d a b 1 (fun x y => boolWord (x.ult y)) s

/-- `min` (R84). -/
def execMin (w : BitVec 3) (d a b : Reg) (s : State) : Host.Outcome State Fault Refusal :=
  alu w d a b 1 (fun x y => if x.slt y then x else y) s

/-- `max` (R84). -/
def execMax (w : BitVec 3) (d a b : Reg) (s : State) : Host.Outcome State Fault Refusal :=
  alu w d a b 1 (fun x y => if x.slt y then y else x) s

/-- `minn` (R84). -/
def execMinn (w : BitVec 3) (d a b : Reg) (s : State) : Host.Outcome State Fault Refusal :=
  alu w d a b 1 (fun x y => if x.ult y then x else y) s

/-- `maxn` (R84). -/
def execMaxn (w : BitVec 3) (d a b : Reg) (s : State) : Host.Outcome State Fault Refusal :=
  alu w d a b 1 (fun x y => if x.ult y then y else x) s

/-- `mul` (R84). -/
def execMul (w : BitVec 3) (d a b : Reg) (s : State) : Host.Outcome State Fault Refusal :=
  alu w d a b 3 (fun x y => x * y) s

/-- `mulh` (R84). -/
def execMulh (w : BitVec 3) (d a b : Reg) (s : State) : Host.Outcome State Fault Refusal :=
  alu w d a b 3 (fun x y => BitVec.ofInt 64 (x.toInt * y.toInt / 2 ^ 64)) s

/-- `mulhn` (R84). -/
def execMulhn (w : BitVec 3) (d a b : Reg) (s : State) : Host.Outcome State Fault Refusal :=
  alu w d a b 3 (fun x y => BitVec.ofNat 64 (x.toNat * y.toNat / 2 ^ 64)) s

/-- `div` (R85). -/
def execDiv (w : BitVec 3) (d a b : Reg) (s : State) : Host.Outcome State Fault Refusal :=
  alu w d a b 3 divS s

/-- `divn` (R85). -/
def execDivn (w : BitVec 3) (d a b : Reg) (s : State) : Host.Outcome State Fault Refusal :=
  alu w d a b 3 divU s

/-- `rem` (R85). -/
def execRem (w : BitVec 3) (d a b : Reg) (s : State) : Host.Outcome State Fault Refusal :=
  alu w d a b 3 remS s

/-- `remn` (R85). -/
def execRemn (w : BitVec 3) (d a b : Reg) (s : State) : Host.Outcome State Fault Refusal :=
  alu w d a b 3 remU s

/-- `clz` (R84). -/
def execClz (w : BitVec 3) (d a : Reg) (s : State) : Host.Outcome State Fault Refusal :=
  alu1 w d a (fun x => BitVec.ofNat 64 (clzOf x)) s

/-- `ctz` (R84). -/
def execCtz (w : BitVec 3) (d a : Reg) (s : State) : Host.Outcome State Fault Refusal :=
  alu1 w d a (fun x => BitVec.ofNat 64 (ctzOf x)) s

/-- `popc` (R84). -/
def execPopc (w : BitVec 3) (d a : Reg) (s : State) : Host.Outcome State Fault Refusal :=
  alu1 w d a (fun x => BitVec.ofNat 64 (popcOf x)) s

/-- `sext` (R84). -/
def execSext (w : BitVec 3) (d a : Reg) (k : BitVec 5) (s : State) : Host.Outcome State Fault Refusal :=
  alu1 w d a (fun x => (x.setWidth (extWidth k)).signExtend 64) s

/-- `zext` (R84). -/
def execZext (w : BitVec 3) (d a : Reg) (k : BitVec 5) (s : State) : Host.Outcome State Fault Refusal :=
  alu1 w d a (fun x => (x.setWidth (extWidth k)).setWidth 64) s

/-- `addi` (R86). -/
def execAddi (w : BitVec 3) (d a : Reg) (imm : BitVec 12) (s : State) : Host.Outcome State Fault Refusal :=
  alu1 w d a (fun x => x + imm.signExtend 64) s

/-- `andi` (R86). -/
def execAndi (w : BitVec 3) (d a : Reg) (imm : BitVec 12) (s : State) : Host.Outcome State Fault Refusal :=
  alu1 w d a (fun x => x &&& imm.signExtend 64) s

/-- `ori` (R86). -/
def execOri (w : BitVec 3) (d a : Reg) (imm : BitVec 12) (s : State) : Host.Outcome State Fault Refusal :=
  alu1 w d a (fun x => x ||| imm.signExtend 64) s

/-- `xori` (R86). -/
def execXori (w : BitVec 3) (d a : Reg) (imm : BitVec 12) (s : State) : Host.Outcome State Fault Refusal :=
  alu1 w d a (fun x => x ^^^ imm.signExtend 64) s

/-- `shli` (R86). -/
def execShli (w : BitVec 3) (d a : Reg) (sh : BitVec 6) (s : State) : Host.Outcome State Fault Refusal :=
  alu1 w d a (fun x => x <<< sh.toNat) s

/-- `shri` (R86). -/
def execShri (w : BitVec 3) (d a : Reg) (sh : BitVec 6) (s : State) : Host.Outcome State Fault Refusal :=
  alu1 w d a (fun x => x >>> sh.toNat) s

/-- `sari` (R86). -/
def execSari (w : BitVec 3) (d a : Reg) (sh : BitVec 6) (s : State) : Host.Outcome State Fault Refusal :=
  alu1 w d a (fun x => x.sshiftRight sh.toNat) s

/-- `ldk` (R87). -/
def execLdk (w : BitVec 3) (d : Reg) (k : BitVec 5) (imm : BitVec 12) (s : State) : Host.Outcome State Fault Refusal :=
  alu1 w d d (fun x => ldkOf x k imm) s

/-- `beq` (R88). -/
def execBeq (w : BitVec 3) (a b : Reg) (off : BitVec 12) (s : State) : Host.Outcome State Fault Refusal :=
  branch w a b off (fun x y => x == y) s

/-- `bne` (R88). -/
def execBne (w : BitVec 3) (a b : Reg) (off : BitVec 12) (s : State) : Host.Outcome State Fault Refusal :=
  branch w a b off (fun x y => x != y) s

/-- `blt` (R88). -/
def execBlt (w : BitVec 3) (a b : Reg) (off : BitVec 12) (s : State) : Host.Outcome State Fault Refusal :=
  branch w a b off (fun x y => x.slt y) s

/-- `bge` (R88). -/
def execBge (w : BitVec 3) (a b : Reg) (off : BitVec 12) (s : State) : Host.Outcome State Fault Refusal :=
  branch w a b off (fun x y => !x.slt y) s

/-- `bltn` (R88). -/
def execBltn (w : BitVec 3) (a b : Reg) (off : BitVec 12) (s : State) : Host.Outcome State Fault Refusal :=
  branch w a b off (fun x y => x.ult y) s

/-- `bgen` (R88). -/
def execBgen (w : BitVec 3) (a b : Reg) (off : BitVec 12) (s : State) : Host.Outcome State Fault Refusal :=
  branch w a b off (fun x y => !x.ult y) s

/-- `ssb` (R88). -/
def execSsb (w : BitVec 3) (a b : Reg) (off : BitVec 12) (s : State) : Host.Outcome State Fault Refusal :=
  run (branchInfo w [.a a, .a b]) s fun s =>
    let x := s.me.getA a - s.me.getA b
    let t := branchTarget s.me.pc off
    let s := s.setA a x 1
    if (0#64).slt x then .goto s t else .done s

/-- `jal` (R88). -/
def execJal (w : BitVec 3) (d : Reg) (off : BitVec 17) (s : State) : Host.Outcome State Fault Refusal :=
  run (branchInfo w []) s fun s =>
    let t := branchTarget s.me.pc off
    .goto (s.setA d (s.me.pc + 4) 1) t

/-- `jr` (R89). -/
def execJr (w : BitVec 3) (a : Reg) (s : State) : Host.Outcome State Fault Refusal :=
  run (branchInfo w [.a a]) s fun s =>
    let t := s.me.getA a
    if t.extractLsb' 0 2 != 0 then .trap s .misalign t false else .goto s t

end Sys2Proof.Machine
end

