-- ==== Sys2Proof/Machine/Flags.lean ====
section
/-! DEFINITION. The sticky flags of `fstat` (R21), and the integer readings, wrapping, saturation and carries that
results and flags are computed from (R41, R118, R119). -/

namespace Sys2Proof.Machine

/-- The flag `NX` of R21. -/
def flNX : BitVec 8 := 0x01
/-- The flag `UF` of R21. -/
def flUF : BitVec 8 := 0x02
/-- The flag `OF` of R21. -/
def flOF : BitVec 8 := 0x04
/-- The flag `DZ` of R21. -/
def flDZ : BitVec 8 := 0x08
/-- The flag `NV` of R21. -/
def flNV : BitVec 8 := 0x10
/-- The flag `FORMAT` of R21. -/
def flFORMAT : BitVec 8 := 0x20
/-- The flag `INVALIDALL` of R21. -/
def flINVALIDALL : BitVec 8 := 0x40
/-- The flag `SAT` of R21. -/
def flSAT : BitVec 8 := 0x80

/-- The signed reading of a w-bit pattern. -/
def sInt (w x : Nat) : Int := if 2 ^ (w - 1) ≤ x % 2 ^ w then (x % 2 ^ w : Nat) - (2 ^ w : Nat) else (x % 2 ^ w : Nat)

/-- The w-bit pattern of an integer, wrapped (R41). -/
def wrapInt (w : Nat) (i : Int) : Nat := (i % (2 ^ w : Nat)).toNat

/-- An integer clamped to the signed range of w, and whether it was (R41). -/
def clampInt (w : Nat) (i : Int) : Int × Bool :=
  let lo : Int := -(2 ^ (w - 1) : Nat)
  let hi : Int := (2 ^ (w - 1) : Nat) - 1
  if i < lo then (lo, true) else if hi < i then (hi, true) else (i, false)

/-- The carry out of an unsigned addition in w bits (R118, R119). -/
def carryOut (w x y c : Nat) : Bool := decide (2 ^ w ≤ x + y + c)

/-- The borrow of an unsigned subtraction (R119). -/
def borrowOut (x y c : Nat) : Bool := decide (x < y + c)

/-- A saturating result: the pattern, and `SAT` when it clamps (R41, R118). -/
def saturate (w : Nat) (i : Int) : Nat × BitVec 8 :=
  let c := clampInt w i
  (wrapInt w c.1, if c.2 then flSAT else 0)

/-- The unsigned counter increment of R134: it stops at all ones and sets `SAT`. -/
def countUp (w c : Nat) : Nat × BitVec 8 := if c + 1 == 2 ^ w then (2 ^ w - 1, flSAT) else (c + 1, 0)

end Sys2Proof.Machine
end

