-- ==== Sys2Proof/Machine/Float.lean ====
section
/-! DEFINITION. Number formats, rounding and exact arithmetic (R37-R48). -/

namespace Sys2Proof.Machine

/-- A floating-point format (R37): exponent and fraction widths, bias, and whether E = Emax holds infinities and
NaNs (all but F8A, R40). -/
structure Fmt where
  eb : Nat
  fb : Nat
  bias : Nat
  ieee : Bool
  deriving DecidableEq, Repr

/-- F64 (R37). -/
def Fmt.f64 : Fmt := { eb := 11, fb := 52, bias := 1023, ieee := true }
/-- F32 (R37). -/
def Fmt.f32 : Fmt := { eb := 8, fb := 23, bias := 127, ieee := true }
/-- F16 (R37). -/
def Fmt.f16 : Fmt := { eb := 5, fb := 10, bias := 15, ieee := true }
/-- G16 (R37). -/
def Fmt.g16 : Fmt := { eb := 8, fb := 7, bias := 127, ieee := true }
/-- F8A (R37, R40). -/
def Fmt.f8a : Fmt := { eb := 4, fb := 3, bias := 8, ieee := false }
/-- F8B (R37). -/
def Fmt.f8b : Fmt := { eb := 5, fb := 2, bias := 15, ieee := true }
/-- F80 (R37, R45). -/
def Fmt.f80 : Fmt := { eb := 16, fb := 63, bias := 32767, ieee := true }

/-- The floating-point format of a `fmt` code 4 to 9 (R37). -/
def Fmt.ofCode (c : BitVec 4) : Fmt :=
  match c.toNat with
  | 4 => .f64 | 5 => .f32 | 6 => .f16 | 7 => .g16 | 8 => .f8a | _ => .f8b

/-- A `fmt` code of a floating-point format other than Q4X (R114). -/
def isFloat (c : BitVec 4) : Bool := decide (4 ≤ c.toNat ∧ c.toNat ≤ 9)

/-- The width of a format. -/
def Fmt.width (f : Fmt) : Nat := 1 + f.eb + f.fb

/-- A value read from a format: a NaN, an infinity, or exactly (−1)^neg × m × 2^e. -/
inductive Fp where
  | nan (signalling : Bool)
  | inf (neg : Bool)
  | fin (neg : Bool) (m : Nat) (e : Int)
  deriving DecidableEq, Repr

/-- Read a bit pattern (R37, R39, R40). -/
def Fmt.read (f : Fmt) (x : Nat) : Fp :=
  let frac := x % 2 ^ f.fb
  let ex := x / 2 ^ f.fb % 2 ^ f.eb
  let neg := x / 2 ^ (f.fb + f.eb) % 2 == 1
  if f.ieee && ex == 2 ^ f.eb - 1 then
    if frac == 0 then .inf neg else .nan (frac / 2 ^ (f.fb - 1) == 0)
  else if !f.ieee && neg && ex == 0 && frac == 0 then .nan false
  else if ex == 0 then .fin neg frac (1 - f.bias - f.fb)
  else .fin neg (2 ^ f.fb + frac) (ex - f.bias - f.fb)

/-- The sign bit of a pattern. -/
def Fmt.signed (f : Fmt) (neg : Bool) (x : Nat) : Nat := if neg then 2 ^ (f.fb + f.eb) + x else x

/-- The canonical NaN (R39). -/
def Fmt.nan (f : Fmt) : Nat :=
  if f.ieee then (2 ^ f.eb - 1) * 2 ^ f.fb + 2 ^ (f.fb - 1) else 2 ^ (f.fb + f.eb)

/-- The largest finite magnitude (R39). -/
def Fmt.maxFin (f : Fmt) : Nat :=
  if f.ieee then (2 ^ f.eb - 1) * 2 ^ f.fb - 1 else 2 ^ (f.eb + f.fb) - 1

/-- An infinity that no overflow made: in F8A it is ±240 and sets `OF` (R40). -/
def Fmt.inf (f : Fmt) (neg : Bool) : Nat × BitVec 8 :=
  if f.ieee then (f.signed neg ((2 ^ f.eb - 1) * 2 ^ f.fb), 0) else (f.signed neg f.maxFin, flOF)

/-- A zero: F8A has no −0 (R40). -/
def Fmt.zero (f : Fmt) (neg : Bool) : Nat := if f.ieee then f.signed neg 0 else 0

/-- What an overflow gives (R46, R40). -/
def Fmt.overflow (f : Fmt) (rm : BitVec 2) (neg : Bool) : Nat × BitVec 8 :=
  let toInf := match rm.toNat with
    | 0 => true
    | 1 => false
    | 2 => !neg
    | _ => neg
  (f.signed neg (if f.ieee && toInf then (2 ^ f.eb - 1) * 2 ^ f.fb else f.maxFin), flOF ||| flNX)

/-- Whether a remainder `r` of `2^sh` moves the magnitude `n` up by one unit (R46). -/
def roundsUp (rm : BitVec 2) (neg : Bool) (n r sh : Nat) : Bool :=
  match rm.toNat with
  | 0 => decide (2 ^ sh < 2 * r) || (2 * r == 2 ^ sh && n % 2 == 1)
  | 1 => false
  | 2 => !neg && r != 0
  | _ => neg && r != 0

/-- A magnitude `m × 2^e` in units of `2^q`: the rounded number of units, and whether it is inexact (R46). -/
def roundAt (rm : BitVec 2) (neg : Bool) (m : Nat) (e q : Int) : Nat × Bool :=
  if q ≤ e then (m * 2 ^ (e - q).toNat, false)
  else
    let sh := (q - e).toNat
    let n := m / 2 ^ sh
    let r := m % 2 ^ sh
    (if roundsUp rm neg n r sh then n + 1 else n, r != 0)

/-- `round(x, fmt)` of a non-zero magnitude `m × 2^e` (R46); a value between two multiples of `2^e` is given with
`sticky`. -/
def Fmt.roundFin (f : Fmt) (rm : BitVec 2) (neg : Bool) (m : Nat) (e : Int) (sticky : Bool) : Nat × BitVec 8 :=
  let m := 2 * m + sticky.toNat
  let e := e - 1
  let top : Int := Nat.log2 m + e
  let emin : Int := 1 - f.bias
  let q := max (top - f.fb) (emin - f.fb)
  let (n, nx) := roundAt rm neg m e q
  let nu := (roundAt rm neg m e (top - f.fb)).1
  let tiny := decide ((Nat.log2 nu : Int) + (top - f.fb) < emin)
  let nxf := if nx then flNX else 0
  let uff := if nx && tiny then flUF else 0
  let (n, q) := if n == 2 ^ (f.fb + 1) then (2 ^ f.fb, q + 1) else (n, q)
  if n < 2 ^ f.fb then (if n == 0 then f.zero neg else f.signed neg n, nxf ||| uff)
  else
    let ex := (q + f.fb + f.bias).toNat
    if (if f.ieee then 2 ^ f.eb - 2 else 2 ^ f.eb - 1) < ex then f.overflow rm neg
    else (f.signed neg (ex * 2 ^ f.fb + (n - 2 ^ f.fb)), nxf ||| uff)

/-- `round(x, fmt)` of an exact value (R46, R39, R40). -/
def Fmt.round (f : Fmt) (rm : BitVec 2) (x : Fp) : Nat × BitVec 8 :=
  match x with
  | .nan sig => (f.nan, if sig then flNV else 0)
  | .inf neg => f.inf neg
  | .fin neg 0 _ => (f.zero neg, 0)
  | .fin neg (m + 1) e => f.roundFin rm neg (m + 1) e false

/-- A quiet NaN in place of a NaN, with `NV` when an operand is signalling (R39). -/
def nanOf (a b : Fp) : Option (Fp × BitVec 8) :=
  let sig := fun x => match x with | Fp.nan s => s | _ => false
  let isn := fun x => match x with | Fp.nan _ => true | _ => false
  if isn a || isn b then some (.nan false, if sig a || sig b then flNV else 0) else none

/-- The signed integer of a magnitude. -/
def signedInt (neg : Bool) (m : Nat) : Int := if neg then -(m : Int) else m

/-- The exact sum (R47): zero sums take their sign from the operands and the mode. -/
def Fp.add (rm : BitVec 2) (a b : Fp) : Fp × BitVec 8 :=
  match nanOf a b with
  | some r => r
  | none =>
    match a, b with
    | .inf x, .inf y => if x == y then (.inf x, 0) else (.nan false, flNV)
    | .inf x, _ => (.inf x, 0)
    | _, .inf y => (.inf y, 0)
    | .fin n1 m1 e1, .fin n2 m2 e2 =>
      let e := min e1 e2
      let t := signedInt n1 (m1 * 2 ^ (e1 - e).toNat) + signedInt n2 (m2 * 2 ^ (e2 - e).toNat)
      if t == 0 then
        if m1 == 0 && m2 == 0 && n1 == n2 then (.fin n1 0 0, 0) else (.fin (rm == 3) 0 0, 0)
      else (.fin (decide (t < 0)) t.natAbs e, 0)
    | .nan _, _ => (.nan false, 0)
    | _, .nan _ => (.nan false, 0)

/-- The exact product (R39, R47). -/
def Fp.mul (a b : Fp) : Fp × BitVec 8 :=
  match nanOf a b with
  | some r => r
  | none =>
    match a, b with
    | .inf x, .inf y => (.inf (x != y), 0)
    | .inf x, .fin y m _ => if m == 0 then (.nan false, flNV) else (.inf (x != y), 0)
    | .fin y m _, .inf x => if m == 0 then (.nan false, flNV) else (.inf (x != y), 0)
    | .fin n1 m1 e1, .fin n2 m2 e2 => (.fin (n1 != n2) (m1 * m2) (e1 + e2), 0)
    | .nan _, _ => (.nan false, 0)
    | _, .nan _ => (.nan false, 0)

/-- The value with the other sign. -/
def Fp.neg : Fp → Fp
  | .nan s => .nan s
  | .inf n => .inf (!n)
  | .fin n m e => .fin (!n) m e

/-- Round an exact result, joining the flags. -/
def Fmt.roundWith (f : Fmt) (rm : BitVec 2) (r : Fp × BitVec 8) : Nat × BitVec 8 :=
  let q := f.round rm r.1
  (q.1, q.2 ||| r.2)

/-- a + b rounded once (R48). -/
def Fmt.add (f : Fmt) (rm : BitVec 2) (a b : Fp) : Nat × BitVec 8 := f.roundWith rm (Fp.add rm a b)

/-- a × b rounded once (R48). -/
def Fmt.mul (f : Fmt) (rm : BitVec 2) (a b : Fp) : Nat × BitVec 8 := f.roundWith rm (Fp.mul a b)

/-- a × b + c rounded once (R48): the product is an addend with its own sign (R47). -/
def Fmt.fma (f : Fmt) (rm : BitVec 2) (a b c : Fp) : Nat × BitVec 8 :=
  let p := Fp.mul a b
  let t := match p.1 with
    | .nan _ => (Fp.nan false, match c with | .nan true => flNV | _ => 0)
    | x => Fp.add rm x c
  f.roundWith rm (t.1, t.2 ||| p.2)

/-- a / b rounded once (R39, R120). -/
def Fmt.div (f : Fmt) (rm : BitVec 2) (a b : Fp) : Nat × BitVec 8 :=
  match nanOf a b with
  | some r => f.roundWith rm r
  | none =>
    match a, b with
    | .inf _, .inf _ => (f.nan, flNV)
    | .inf x, .fin y _ _ => f.inf (x != y)
    | .fin x _ _, .inf y => (f.zero (x != y), 0)
    | .fin n1 m1 e1, .fin n2 m2 e2 =>
      if m2 == 0 then
        if m1 == 0 then (f.nan, flNV)
        else
          let r := f.inf (n1 != n2)
          (r.1, r.2 ||| flDZ)
      else if m1 == 0 then (f.zero (n1 != n2), 0)
      else
        let k := f.fb + 3 + Nat.log2 m2
        let n := m1 * 2 ^ k
        f.roundFin rm (n1 != n2) (n / m2) (e1 - e2 - k) (n % m2 != 0)
    | _, _ => (f.nan, 0)

/-- The integer square root by bits, from bit `n` − 1 down. -/
def isqrtBits (x : Nat) : Nat → Nat → Nat
  | 0, r => r
  | n + 1, r => isqrtBits x n (if (r + 2 ^ n) * (r + 2 ^ n) ≤ x then r + 2 ^ n else r)

/-- ⌊√x⌋. -/
def isqrt (x : Nat) : Nat := isqrtBits x (Nat.log2 x / 2 + 1) 0

/-- √y rounded once (R39, R120). -/
def Fmt.sqrt (f : Fmt) (rm : BitVec 2) (y : Fp) : Nat × BitVec 8 :=
  match y with
  | .nan sig => (f.nan, if sig then flNV else 0)
  | .inf neg => if neg then (f.nan, flNV) else f.inf false
  | .fin neg m e =>
    if m == 0 then (f.zero neg, 0)
    else if neg then (f.nan, flNV)
    else
      let k := 2 * (f.fb + 3)
      let k := if (e - k) % 2 == 0 then k else k + 1
      let n := m * 2 ^ k
      let r := isqrt n
      f.roundFin rm false r ((e - k) / 2) (r * r != n)

/-- Keep the 9 most significant bits of a magnitude (R122). -/
def trunc9 (m : Nat) (e : Int) : Nat × Int :=
  let sh := Nat.log2 m - 8
  (m / 2 ^ sh, e + sh)

/-- The estimate of 1/y (R122). -/
def Fmt.recp (f : Fmt) (rm : BitVec 2) (y : Fp) : Nat × BitVec 8 :=
  match y with
  | .nan sig => (f.nan, if sig then flNV else 0)
  | .inf neg => (f.zero neg, 0)
  | .fin neg m e =>
    if m == 0 then
      let r := f.inf neg
      (r.1, r.2 ||| flDZ)
    else
      let k := Nat.log2 m + 12
      let t := trunc9 (2 ^ k / m) (-e - k)
      f.roundFin rm neg t.1 t.2 false

/-- The estimate of 1/√y (R122). -/
def Fmt.rsqe (f : Fmt) (rm : BitVec 2) (y : Fp) : Nat × BitVec 8 :=
  match y with
  | .nan sig => (f.nan, if sig then flNV else 0)
  | .inf neg => if neg then (f.nan, flNV) else (f.zero false, 0)
  | .fin neg m e =>
    if m == 0 then
      let r := f.inf neg
      (r.1, r.2 ||| flDZ)
    else if neg then (f.nan, flNV)
    else
      let me : Nat × Int := if e % 2 == 0 then (m, e) else (2 * m, e - 1)
      let k := Nat.log2 me.1 + 24
      let k := if k % 2 == 0 then k else k + 1
      let t := trunc9 (isqrt (2 ^ k / me.1)) (-(me.2 + k) / 2)
      f.roundFin rm false t.1 t.2 false

/-- The order of two values that are no NaN: less, with zeros of both signs equal. -/
def Fp.lt (a b : Fp) : Bool :=
  match a, b with
  | .inf x, .inf y => x && !y
  | .inf x, _ => x
  | _, .inf y => !y
  | .fin n1 m1 e1, .fin n2 m2 e2 =>
    let e := min e1 e2
    decide (signedInt n1 (m1 * 2 ^ (e1 - e).toNat) < signedInt n2 (m2 * 2 ^ (e2 - e).toNat))
  | _, _ => false

/-- Equality of two values that are no NaN. -/
def Fp.eq (a b : Fp) : Bool := !(Fp.lt a b) && !(Fp.lt b a)

/-- A NaN. -/
def Fp.isNan : Fp → Bool
  | .nan _ => true
  | _ => false

/-- A signalling NaN. -/
def Fp.isSig : Fp → Bool
  | .nan s => s
  | _ => false

/-- The sign of a value. -/
def Fp.sign : Fp → Bool
  | .nan _ => false
  | .inf n => n
  | .fin n _ _ => n

/-- The smaller of two values that are no NaN; −0 is below +0 (R52, R121). -/
def Fp.minOf (a b : Fp) : Fp := if Fp.lt a b || (Fp.eq a b && a.sign) then a else b

/-- The larger of two values that are no NaN; −0 is below +0 (R52, R121). -/
def Fp.maxOf (a b : Fp) : Fp := if Fp.lt b a || (Fp.eq a b && !a.sign) then a else b

/-- `NV` when one of two operands is a signalling NaN (R39). -/
def nvSig (a b : Fp) : BitVec 8 := if a.isSig || b.isSig then flNV else 0

/-- A conversion from floating point to a signed integer of width w (R41, R130): the pattern and flags. -/
def toIntBits (rm : BitVec 2) (w : Nat) (x : Fp) : Nat × BitVec 8 :=
  let lo : Int := -(2 ^ (w - 1) : Nat)
  let hi : Int := (2 ^ (w - 1) : Nat) - 1
  let pat := fun (i : Int) => (i % (2 ^ w : Nat)).toNat
  match x with
  | .nan _ => (0, flNV)
  | .inf neg => (pat (if neg then lo else hi), flNV)
  | .fin neg m e =>
    let r := roundAt rm neg (2 * m) (e - 1) 0
    let v := signedInt neg r.1
    if v < lo then (pat lo, flNV) else if hi < v then (pat hi, flNV) else (pat v, if r.2 then flNX else 0)

/-- A signed integer as an exact value. -/
def Fp.ofInt (i : Int) : Fp := .fin (decide (i < 0)) i.natAbs 0

end Sys2Proof.Machine
end

