-- ==== Sys2Proof/Machine/Log.lean ====
section
/-! DEFINITION. Pre-emption requests (R332, R333), asynchronous causes at a boundary (R331, R396), and the log of
record and replay mode (R378-R381). -/

namespace Sys2Proof.Machine

/-! ### Pre-emption requests and boundaries -/

/-- A hart that a pre-emption request can still stop: idle, halted and stopped harts have stopped already. -/
def Hart.live? (h : Hart) : Bool :=
  match h.status with
  | .running => true
  | .waiting => true
  | .stalled => true
  | _ => false

/-- Post a pre-emption request to a hart (R332), whose grace window counts from the first that is pending; a hart that waits
stops at once (R333). -/
def State.post (s : State) (id : Nat) : State :=
  let h := s.hart id
  if h.live? then
    let s := s.setHart id { h with
      preempt := true, asked := if h.preempt then h.asked else s.mtime, byLog := false }
    if h.status == .waiting && s.mayStop id then s.takeStop id 2 else s
  else s

/-- Post a pre-emption request to each hart of a list. -/
def State.postAll (s : State) (ids : List Nat) : State := ids.foldl State.post s

/-- The end of the grace window of a hart's request, in nanoseconds (R332, R333): the window of its partition, by default
200 µs. -/
def State.windowEnd (s : State) (id : Nat) : Nat :=
  (s.hart id).asked + 1000 * (match s.partOf (clusterOf id) with | some (_, p) => p.grace | none => 200)

/-- The grace window of a hart's request is over (R333). -/
def State.windowOver (s : State) (id : Nat) : Bool := (s.hart id).preempt && decide (s.windowEnd id ≤ s.mtime)

/-- The stop that the end of the grace window brings a hart at a boundary (R334): it issues nothing more, and its
pending results complete. A hart that does not run, and a control core whose loom queue has not drained, does not stop
yet. -/
def State.graceStop (s : State) (id : Nat) : State :=
  let h := s.hart id
  if h.preempt && (h.expired || s.windowOver id) && (h.status == .running || h.status == .waiting) && s.mayStop id
  then s.takeStop id 3 else s

/-- Where the end of the grace window reaches an instruction of the hart whose turn it is (R253, R334): after how many
of its units, where a request is pending. The instruction has then lasted until the window ends. One that goes on after the
window is over stops at its next boundary. -/
def State.windowCut (s : State) : Option Nat × State :=
  if s.me.preempt && (s.me.expired || s.windowOver s.cur) then (some 0, s)
  else if s.me.preempt then
    match Config.windowEnds s.free with
    | some k => (some k, { s.drawn with mtime := max s.mtime (s.windowEnd s.cur) })
    | none => (none, s.drawn)
  else (none, s)

/-- The partition of the hart whose turn it is runs in journal mode (R332). -/
def State.journal (s : State) : Bool :=
  match s.partOf s.myCluster with
  | some (_, p) => p.journal
  | none => false

/-- An asynchronous cause that is pending for a hart at an instruction boundary with `tb` = 0 is taken, and abandons
a wait (R331, R396); a sleeping `wfe` completes first (R96), and so does a cooperative issue whose members are all
there. Of several the one that became pending first is taken: the spec gives no order (DESIGN CHOICE, log entry 42). A
hart whose trap slot is not yet exchanged stays at the boundary until it is (R338). -/
def State.boundaryTrap (s : State) (id : Nat) : Option State :=
  let h := s.hart id
  match h.async with
  | [] => none
  | c :: cs =>
    if (h.status == .running || h.status == .waiting) && !h.tb && !h.asleep && !(isControl id && s.coopReady (clusterOf id)) then
      if s.slotAway id then some s
      else some ((s.setHart id { h with async := cs }).takeTrap id c.cause c.tval h.pc h.lent h.midway)
    else none

/-- Make an asynchronous cause pending on a hart (R331). -/
def State.pendCause (s : State) (id : Nat) (c : Cause) (tval : Word) : State :=
  let h := s.hart id
  s.setHart id { h with async := h.async ++ [{ cause := c, tval := tval }] }

/-! ### Record and replay -/

/-- The stream that logs what homes at a word: its cluster, or 256 + its stack; none outside the module (R378). -/
def streamOf (key : Nat) : Option Nat :=
  if key < 2 ^ 40 then some (256 + key / 2 ^ 36)
  else if key < 2 ^ 52 then some ((key - 0x8000000000000) / 0x800000)
  else none

/-- The key under which the entries of a kind for a hart are counted (R379). -/
def usedKey (hart kind : Nat) : Nat := 8 * hart + kind

/-- What an input of R378 comes to: its words, or a wait for its turn, or a divergence. -/
inductive Logged where
  | ok (ws : List Word) (s : State)
  | wait (s : State)
  | diverge (s : State)

/-- Post the request of a full log region to a hart (R380), which keeps another request that is pending. The hart whose turn it
is stops after the instruction in hand; another that waits stops at once. -/
def State.postLog (s : State) (id : Nat) : State :=
  let h := s.hart id
  if !h.live? || h.preempt then s
  else
    let h := { h with preempt := true, asked := s.mtime, byLog := true }
    let s := s.setHart id h
    if id != s.cur && h.status == .waiting && s.mayStop id then s.takeStop id 2 else s

/-- A record-mode stream that is full stops every hart of its context at its next stop point (R380). -/
def State.logFull (s : State) (p x : Nat) : State :=
  match tget s.parts p with
  | some q => (hartsOf (q.clusters.filter (fun c => q.ctxOn c == some x))).foldl State.postLog s
  | none => s

/-- The streams of a log region: one for each cluster and one for each stack (R378). -/
def logStreams : Nat := 272

/-- The words of a log region that belong to one stream: every stream has an equal share (DESIGN CHOICE, log entry 45). -/
def logRoom (region : List (Nat × Nat)) : Nat := region.foldl (fun n r => n + r.2 / logStreams) 0

/-- The address of word w of stream t in a log region. -/
def logAddr (t : Nat) : Nat → List (Nat × Nat) → Option Nat
  | _, [] => none
  | w, r :: rs =>
    if w < r.2 / logStreams then some (r.1 + 8 * (r.2 / logStreams * t + w)) else logAddr t (w - r.2 / logStreams) rs

/-- The header word of a log entry (R379). -/
def LogEntry.head (e : LogEntry) : Word :=
  (BitVec.ofNat 8 e.kind ++ BitVec.ofNat 12 e.hart ++ BitVec.ofNat 12 e.words.length ++ BitVec.ofNat 32 e.seq : BitVec 64)

/-- The words of log entries as the region holds them (R379). -/
def logWords (l : List LogEntry) : List Word := l.flatMap (fun e => e.head :: e.words)

/-- Write words of stream t to a log region from word w on, as far as the region goes (R378). -/
def State.writeLog (s : State) (region : List (Nat × Nat)) (t w : Nat) (ws : List Word) : State :=
  s.perform (ws.zipIdx.flatMap (fun e =>
    match logAddr t (w + e.2) region with
    | some a => cellsOf a 8 e.1.toNat
    | none => []))

/-- The entries of stream t that a log region holds from word w on, up to a word that is no header (R378, R379). -/
def readLog (s : State) (region : List (Nat × Nat)) (t : Nat) : Nat → Nat → List LogEntry
  | 0, _ => []
  | n + 1, w =>
    let rd := fun i => BitVec.ofNat 64 (((logAddr t i region).map (fun a => s.mem.readLE a 8)).getD 0)
    let h := rd w
    let k := (h.extractLsb' 56 8).toNat
    let nw := (h.extractLsb' 32 12).toNat
    if k = 0 ∨ 7 < k then []
    else
      { kind := k, hart := (h.extractLsb' 44 12).toNat, seq := (h.extractLsb' 0 32).toNat,
        words := (List.range nw).map (fun i => rd (w + 1 + i)) } :: readLog s region t n (w + 1 + nw)

/-- Append an entry to a stream of a context that records (R378): it is written to the log region, with a word that is no
header after it. -/
def State.appendLog (s : State) (p x t : Nat) (c : Ctx) (e : LogEntry) : State :=
  let log := (tget c.log t).getD []
  let n := (tget c.used (usedKey e.hart e.kind)).getD 0
  let w := (logWords log).length
  let s := s.setCtx p x
    { c with log := tput c.log t (log ++ [e]), used := tput c.used (usedKey e.hart e.kind) (n + 1) }
  let s := s.writeLog c.region t w (e.head :: e.words ++ [0])
  if logRoom c.region ≤ w + 1 + e.words.length then s.logFull p x else s

/-- A hart whose next input differs from its log halts, and the divergence is kept for a query (R381). -/
def State.divergence (s : State) (p x hart kind : Nat) : State :=
  let s := s.setHart hart { s.hart hart with status := .halted }
  let s := match tget s.parts p with
    | some q => s.setPart p { q with haltedBy := some ((s.hart hart).tcause.toNat % 2 ^ 8) }
    | none => s
  match s.ctx p x with
  | some c => s.setCtx p x { c with diverged := some (hart, kind) }
  | none => s

/-- The entry is of an atomic at `va` (R378). -/
def LogEntry.atomicAt (e : LogEntry) (va : Word) : Bool := e.kind == 3 && e.words.headD 0 == va

/-- An atomic of hart `id` that performs apart from its instruction, a posted part or one in its class queue, is at `va`. -/
def State.owes (s : State) (id : Nat) (va : Word) : Bool :=
  (s.hart id).posted.any (fun q => q.va == va)
    || (s.hart id).queue.any (fun q => match q.load with
      | some l => l.va == va && (match l.use with | .rmw _ _ _ _ _ _ logged => logged | _ => false)
      | none => false)

/-- Whether an input of a hart in replay mode is entry `e`, the next of its hart in a stream: of the kind and number, and of an
atomic at the address (R379, R381). -/
def LogEntry.isInput (e : LogEntry) (kind n : Nat) (ws : List Word) : Bool :=
  e.kind == kind && e.seq == n % 2 ^ 32 && (kind != 3 || e.words.headD 0 == ws.headD 0)

/-- An input of a hart in replay mode that is not the next entry `e` of its hart may still have its turn: one that performs
apart from its instruction (`late`) where an entry of the hart in the stream is its own; another where the hart owes the
atomic of the next entry, or one in another stream that is numbered before it (DEDUCED, log entry 29). -/
def State.mayFollow (s : State) (log : List LogEntry) (e : LogEntry) (hart kind n : Nat) (ws : List Word) (late : Bool) :
    Bool :=
  if late then log.any (fun d => d.hart == hart && d.atomicAt (ws.headD 0))
  else (e.kind == 3 && s.owes hart (e.words.headD 0))
    || (e.kind == kind && kind == 3 && decide (n % 2 ^ 32 < e.seq) && e.words.headD 0 == ws.headD 0)

/-- An input of R378 in a space: with no mode it is as the hardware gives it; in record mode it is appended; in
replay mode it is the next entry of its hart in the stream, provided no earlier entry that must come first
(`before`) still stands in the stream. `late` says that it performs apart from its instruction. -/
def State.inputIn (s : State) (p x hart stream kind : Nat) (before : LogEntry → Bool) (late : Bool) (ws : List Word) :
    Logged :=
  match s.ctx p x with
  | none => .ok ws s
  | some c =>
    let n := (tget c.used (usedKey hart kind)).getD 0
    let log := (tget c.log stream).getD []
    match c.mode with
    | .plain => .ok ws s
    | .record => .ok ws (s.appendLog p x stream c { kind := kind, hart := hart, seq := n % 2 ^ 32, words := ws })
    | .replay =>
      match log.find? (fun e => e.hart == hart && e.kind != 7) with
      | none => .diverge (s.divergence p x hart kind)
      | some e =>
        if e.isInput kind n ws then
          if (log.takeWhile (fun d => d.hart != hart)).any before then .wait s
          else
            .ok e.words (s.setCtx p x
              { c with log := tput c.log stream (log.erase e), used := tput c.used (usedKey hart kind) (n + 1) })
        else if s.mayFollow log e hart kind n ws late then .wait s
        else .diverge (s.divergence p x hart kind)

/-- The transfer that the payload of a kind-7 entry names (R378). -/
def mistId (ws : List Word) : Nat := (ws.headD 0).toNat % 2 ^ 32

/-- A mist block settled, an input of the receiving context (R378, R381): in record mode it is appended to the stream
of its bitmap word, in replay mode the next entry of its transfer takes its place; none where no entry is left. -/
def State.mistInput (s : State) (p x key : Nat) (ws : List Word) : Option (List Word × State) :=
  match s.ctx p x, streamOf key with
  | some c, some stream =>
    let n := (tget c.used (usedKey 0 7)).getD 0
    let log := (tget c.log stream).getD []
    match c.mode with
    | .plain => some (ws, s)
    | .record => some (ws, s.appendLog p x stream c { kind := 7, hart := 0, seq := n % 2 ^ 32, words := ws })
    | .replay =>
      match log.find? (fun e => e.kind == 7 && mistId e.words == mistId ws) with
      | none => none
      | some e =>
        some (e.words, s.setCtx p x
          { c with log := tput c.log stream (log.erase e), used := tput c.used (usedKey 0 7) (n + 1) })
  | _, _ => some (ws, s)

/-- An input of the hart whose turn it is. -/
def State.input (s : State) (stream kind : Nat) (before : LogEntry → Bool) (ws : List Word) : Logged :=
  let sp := s.spaceOf s.myCluster
  s.inputIn sp.1 sp.2 s.cur stream kind before false ws

/-- Go on with an input, wait for its turn as a stall, or halt. -/
def Logged.res (l : Logged) (s0 : State) (k : List Word → State → Res) : Res :=
  match l with
  | .ok ws s => k ws s
  | .wait s => .stall { s0 with s2miss := s.s2miss }
  | .diverge s => .leave s

/-- The context that runs on a cluster replays a log (R381). -/
def State.replaying (s : State) (c : Nat) : Bool :=
  match s.ctx (s.spaceOf c).1 (s.spaceOf c).2 with
  | some x => x.mode == .replay
  | none => false

/-- An input of one value of the hart whose turn it is, with no turn of others to await (kinds 1, 2 and 6). -/
def State.inputWord (s : State) (kind : Nat) (v : Word) (k : Word → State → Res) : Res :=
  (s.input s.myCluster kind (fun _ => false) [v]).res s fun ws s => k (ws.headD v) s

/-- The words of a mask that an entry holds: ⌈n/64⌉ (R378), at least one (R379). -/
def maskWords (n : Nat) (m : BitVec 4096) : List Word :=
  (List.range (max 1 ((n + 63) / 64))).map (fun i => (m >>> (64 * i)).setWidth 64)

/-- The mask that words hold. -/
def wordsMask (ws : List Word) : BitVec 4096 :=
  ws.foldr (fun w m => (m <<< 64) ||| w.setWidth 4096) 0

/-- The key to which an address of a hart leads, where it leads to one. -/
def State.keyOf (s : State) (id : Nat) (va : Word) : Option Nat :=
  match s.place (s.who id) .atomic .other va with
  | .ok key _ => some key
  | _ => none

/-- An atomic of an entry is on the word at a key: one logged before another on the same word must come first (R381). -/
def State.sameWord (s : State) (key : Nat) (e : LogEntry) : Bool :=
  e.kind == 3 && (match s.keyOf e.hart (e.words.headD 0) with | some k => k / 8 == key / 8 | none => false)

end Sys2Proof.Machine
end

