-- ==== Sys2Proof/Machine/Spindle.lean ====
section
/-! DEFINITION. Sparse tensors, streams and what the spindle reads for them (R196-R212). -/

namespace Sys2Proof.Machine

/-- What a read for a stream gives: a value, a fault with its `tval`, or a stall (R208, R209); `leave` is a divergence
of a logged pop (R381). -/
inductive Fetch (α : Type) where
  | ok (x : α) (s : State)
  | fault (c : Cause) (tval : Word) (s : State)
  | stall (s : State)
  | leave (s : State)

/-- Go on with the value of a read. -/
def Fetch.bind {α β : Type} (a : Fetch α) (f : α → State → Fetch β) : Fetch β :=
  match a with
  | .ok x s => f x s
  | .fault c t s => .fault c t s
  | .stall s => .stall s
  | .leave s => .leave s

/-- A read at an address: a fault carries the address (R34). -/
def Acc.at {α : Type} (va : Word) : Acc α → Fetch α
  | .ok x s => .ok x s
  | .trap c s => .fault c va s
  | .stall s => .stall s

/-- The party of the reads that an instruction has started: its mode (R397), and the backings of publishable regions
that it chose, when it issued (R191). -/
structure Reader where
  priv : Bool
  views : List (Nat × Nat)
  deriving DecidableEq, Repr

/-- The backings that are visible to a hart (R271): region number and physical address. -/
def State.views (s : State) (id : Nat) : List (Nat × Nat) := (s.who id).regions.map (fun r => (r.n, r.visible))

/-- The reader that an instruction of a hart starts now. -/
def State.reader (s : State) (id : Nat) : Reader := { priv := (s.hart id).priv, views := s.views id }

/-- The party of a spindle read: its hart in the mode, and with the backings, of the instruction that started it (R191,
R397). -/
def State.spinWho (s : State) (id : Nat) (w : Reader) : Who :=
  let x := s.who id
  { x with priv := w.priv, regions := x.regions.map (Region.seenBy w.views) }

/-- The reader of a stream. -/
def StreamCore.reader (k : StreamCore) : Reader := { priv := k.mode, views := k.views }

/-- Read `n` bytes one by one, each translated by itself: a fault carries the address of its byte (log entry 43). -/
def spinBytes (id : Nat) (w : Reader) (u : Use) (va : Word) : Nat → State → Fetch Nat
  | 0, s => .ok 0 s
  | n + 1, s =>
    ((s.readVa (s.spinWho id w) .stream u va 1).at va).bind fun b s =>
      (spinBytes id w u (va + 1) n s).bind fun x s => .ok (b + 256 * x) s

/-- A spindle read (R208): class 0 of its hart. An entry of `parr` or `carr` need not be aligned (R196, R197); one that is
not may lie in two words or two pages. -/
def spinRead (id : Nat) (w : Reader) (u : Use) (va : Word) (n : Nat) (s : State) : Fetch Nat :=
  if va.toNat % n = 0 then (s.readVa (s.spinWho id w) .stream u va n).at va else spinBytes id w u va n s

/-- The address `base` + `i` × `size`, modulo 2^64. -/
def addrAt (base : Word) (i size : Nat) : Word := base + BitVec.ofNat 64 (i * size)

/-- The address of an element as a signed number of bytes from a base, modulo 2^64 (R138). -/
def offsetAt (base : Word) (off : Int) : Word := base + BitVec.ofInt 64 off

/-- Count the set bits among the `n` bits of a bit array from bit `lo` on, reading byte by byte (R198, R208). -/
def countBits (id : Nat) (priv : Reader) (arr : Word) (lo : Nat) : Nat → State → Fetch Nat
  | 0, s => .ok 0 s
  | n + 1, s =>
    (countBits id priv arr lo n s).bind fun c s =>
      (spinRead id priv .other (addrAt arr ((lo + n) / 8) 1) 1 s).bind fun b s =>
        .ok (c + b / 2 ^ ((lo + n) % 8) % 2) s

/-- The bounds of a fibre of kind D, B or S, which no memory holds (R198). -/
def Cursor.span (c : Cursor) : Nat × Nat :=
  if c.known then (c.pos, c.endp)
  else if c.kind == 3 then (c.parent, c.parent + 1)
  else (c.parent * c.ext, c.parent * c.ext + c.ext)

/-- Read a fibre's bounds where they are not known yet (R198). -/
def Cursor.open (id : Nat) (priv : Reader) (c : Cursor) (s : State) : Fetch Cursor :=
  if c.known then
    if c.kind == 2 && c.rank.isNone then
      (countBits id priv c.parr 0 c.pos s).bind fun n s => .ok { c with rank := some n } s
    else .ok c s
  else
    let p := c.parent
    match c.kind.toNat with
    | 0 => .ok { c with known := true, pos := p * c.ext, endp := p * c.ext + c.ext } s
    | 1 =>
      let sz := if c.pos64 then 8 else 4
      (spinRead id priv .other (addrAt c.parr p sz) sz s).bind fun lo s =>
        (spinRead id priv .other (addrAt c.parr (p + 1) sz) sz s).bind fun hi s =>
          .ok { c with known := true, pos := lo, endp := hi } s
    | 2 =>
      (countBits id priv c.parr 0 (p * c.ext) s).bind fun n s =>
        .ok { c with known := true, pos := p * c.ext, endp := p * c.ext + c.ext, rank := some n } s
    | _ => .ok { c with known := true, pos := p, endp := p + 1 } s

/-- The next set bit of a B fibre from `c.pos` on, at most `n` bits ahead (R198). -/
def nextBit (id : Nat) (priv : Reader) (c : Cursor) : Nat → Nat → State → Fetch (Option Nat)
  | 0, _, s => .ok none s
  | n + 1, j, s =>
    (spinRead id priv .other (addrAt c.parr (j / 8) 1) 1 s).bind fun b s =>
      if b / 2 ^ (j % 8) % 2 == 1 then .ok (some j) s else nextBit id priv c n (j + 1) s

/-- What the walk of a fibre meets next: a coordinate with its position and the walk after it, or the end. -/
abbrev FibreStep := Option (Nat × Word × Cursor)

/-- A malformed element (R199): with `clamp` the fibre ends before it, otherwise it traps with the coordinate. -/
def malformed (c : Cursor) (tval : Word) (s : State) : Fetch FibreStep :=
  if c.clamp then .ok none s else .fault .malformedCrd tval s

/-- What memory holds at an address, where a spindle can read it. -/
def peekAt (id : Nat) (w : Reader) (va : Word) (n : Nat) (s : State) : Option Nat :=
  match spinRead id w .other va n s with
  | .ok x _ => some x
  | _ => none

/-- Whether a fibre of the level of a restored walk begins at its position: parent p or a later one has these bounds
(R198). Position arrays rise, so that the search ends above the position; none where an entry cannot be read or is less than
the one before it, `last`. -/
def startsAt (id : Nat) (w : Reader) (c : Cursor) (s : State) : Nat → Nat → Nat → Option Bool
  | 0, _, _ => some false
  | n + 1, p, last =>
    let sz := if c.pos64 then 8 else 4
    match peekAt id w (addrAt c.parr p sz) sz s with
    | none => none
    | some lo =>
      if lo < last then none
      else if c.pos < lo then some false
      else if lo == c.pos && peekAt id w (addrAt c.parr (p + 1) sz) sz s == some c.endp then some true
      else startsAt id w c s n (p + 1) lo

/-- How many parents `startsAt` looks at, and how many steps co-iteration takes at most: coordinates stay below it. -/
def parentFuel : Nat := 2 ^ 34

/-- The coordinate before the next one, with which a C fibre's element `crd` is compared (R199). Of a walk that a record has
restored it is what memory holds before the position; where that is not below `crd`, the element is malformed unless the
fibre begins with it, or memory does not say whether it does (log entry 28). -/
def Cursor.before (id : Nat) (w : Reader) (c : Cursor) (crd : Nat) (s : State) : Option Nat :=
  if !c.rest || c.prev.isSome || c.pos == 0 then c.prev
  else
    match peekAt id w (addrAt c.carr (c.pos - 1) 4) 4 s with
    | some q =>
      if q < crd || startsAt id w c s (if c.level == 0 then 1 else parentFuel) 0 0 == some false then some q else none
    | none => none

/-- The next element of a fibre (R198, R199). -/
def Cursor.step (id : Nat) (priv : Reader) (c : Cursor) (s : State) : Fetch FibreStep :=
  (c.open id priv s).bind fun c s =>
    match c.kind.toNat with
    | 0 =>
      if c.endp ≤ c.pos then .ok none s
      else .ok (some (c.pos - (c.endp - c.ext), BitVec.ofNat 64 c.pos, { c with pos := c.pos + 1 })) s
    | 1 =>
      if c.endp < c.pos then malformed c 0xFFFFFFFFFFFFFFFF s
      else if c.pos == c.endp then .ok none s
      else
        (spinRead id priv .other (addrAt c.carr c.pos 4) 4 s).bind fun crd s =>
          if decide (c.ext ≤ crd) || (match c.before id priv crd s with | some q => decide (crd ≤ q) | none => false) then
            malformed c (BitVec.ofNat 64 crd) s
          else .ok (some (crd, BitVec.ofNat 64 c.pos, { c with pos := c.pos + 1, prev := some crd })) s
    | 2 =>
      (nextBit id priv c (c.endp - c.pos) c.pos s).bind fun r s =>
        match r with
        | none => .ok none s
        | some j =>
          let q := c.rank.getD 0
          .ok (some (j - (c.endp - c.ext), BitVec.ofNat 64 q, { c with pos := j + 1, rank := some (q + 1) })) s
    | _ =>
      if c.endp ≤ c.pos then .ok none s
      else
        (spinRead id priv .other (addrAt c.carr c.pos 4) 4 s).bind fun crd s =>
          if c.ext ≤ crd then malformed c (BitVec.ofNat 64 crd) s
          else .ok (some (crd, BitVec.ofNat 64 c.pos, { c with pos := c.pos + 1 })) s

/-- The address of the value of a fibre element at a position (R198). -/
def Cursor.valueAt (c : Cursor) (pos : Word) : Option Word :=
  if c.vals then some (addrAt c.vbase pos.toNat (fmtWidth c.vfmt / 8)) else none

/-- All ones in 64 bits: the position of an element its fibre lacks (R206). -/
def noPos : Word := 0xFFFFFFFFFFFFFFFF

/-- The walk of a fibre is at its end. -/
def Cursor.over (id : Nat) (w : Reader) (c : Cursor) (s : State) : Bool :=
  match c.step id w s with
  | .ok none _ => true
  | _ => false

/-- The next coordinate that both fibres have (R206). No element depends on what one fibre holds once the other has ended
(R208). -/
def isectStep (id : Nat) (k : StreamCore) : Nat → Cursor → Cursor → State →
    Fetch (Option (Nat × Word × Word × Cursor × Cursor))
  | 0, _, _, s => .ok none s
  | n + 1, a, b, s =>
    if b.over id k.reader s then .ok none s
    else
      (a.step id k.reader s).bind fun ra s =>
        match ra with
        | none => .ok none s
        | some (ca, pa, a') =>
          (b.step id k.reader s).bind fun rb s =>
            match rb with
            | none => .ok none s
            | some (cb, pb, b') =>
              if ca == cb then .ok (some (ca, pa, pb, a', b')) s
              else if ca < cb then isectStep id k n a' b s
              else isectStep id k n a b' s

/-- The first entry of the skein whose coordinate is not below `low` (R220). -/
def skeinFrom (t : List (Nat × Word)) (low : Nat) : Option (Nat × Word) := t.find? (fun e => decide (low ≤ e.1))

/-- A part of the skein is still to be exchanged after a flip (R338): granules 96 to 111 stand for its parts. -/
def State.skeinOut (s : State) (c : Nat) : Bool := (s.cluster c).exch.any (fun g => decide (96 ≤ g))

/-- The next element of a stream without its value (R201-R206, R220); none at its end. Of a pair both of whose sources meet a
fault, the first source's is held: the spec does not say which (DESIGN CHOICE, log entry 45). -/
def StreamCore.step (id : Nat) (k : StreamCore) (s : State) : Fetch (Option StreamElem) :=
  let mk := fun crd pos addr inA inB after =>
    some ({ crd, pos, addr, val := 0, inA, inB, after, held := none } : StreamElem)
  match k.kind with
  | .closed => .ok none s
  | .fibre =>
    (k.ca.step id k.reader s).bind fun r s =>
      match r with
      | none => .ok none s
      | some (crd, pos, c) => .ok (mk crd pos (k.ca.valueAt pos) true false { k with ca := c }) s
  | .bind =>
    if k.ca.endp ≤ k.ca.pos then .ok none s
    else
      let j := k.ca.pos
      .ok (mk j (BitVec.ofNat 64 j) (some (addrAt k.ca.vbase j (fmtWidth k.fmt / 8))) true false
        { k with ca := { k.ca with pos := j + 1 } }) s
  | .gather =>
    (k.ca.step id k.reader s).bind fun r s =>
      match r with
      | none => .ok none s
      | some (crd, pos, c) =>
        .ok (mk crd pos (some (addrAt k.xbase crd (fmtWidth k.fmt / 8))) true false { k with ca := c }) s
  | .isectA =>
    (isectStep id k parentFuel k.ca k.cb s).bind fun r s =>
      match r with
      | none => .ok none s
      | some (crd, pa, _, a', b') => .ok (mk crd pa (k.ca.valueAt pa) true true { k with ca := a', cb := b' }) s
  | .isectB =>
    (isectStep id k parentFuel k.ca k.cb s).bind fun r s =>
      match r with
      | none => .ok none s
      | some (crd, _, pb, a', b') => .ok (mk crd pb (k.cb.valueAt pb) true true { k with ca := a', cb := b' }) s
  | .unionA =>
    (k.ca.step id k.reader s).bind fun ra s => (k.cb.step id k.reader s).bind fun rb s =>
      match ra, rb with
      | none, none => .ok none s
      | some (ca, pa, a'), none => .ok (mk ca pa (k.ca.valueAt pa) true false { k with ca := a' }) s
      | none, some (cb, _, b') => .ok (mk cb noPos none false true { k with cb := b' }) s
      | some (ca, pa, a'), some (cb, _, b') =>
        if ca == cb then .ok (mk ca pa (k.ca.valueAt pa) true true { k with ca := a', cb := b' }) s
        else if ca < cb then .ok (mk ca pa (k.ca.valueAt pa) true false { k with ca := a' }) s
        else .ok (mk cb noPos none false true { k with cb := b' }) s
  | .unionB =>
    (k.ca.step id k.reader s).bind fun ra s => (k.cb.step id k.reader s).bind fun rb s =>
      match ra, rb with
      | none, none => .ok none s
      | some (ca, _, a'), none => .ok (mk ca noPos none true false { k with ca := a' }) s
      | none, some (cb, pb, b') => .ok (mk cb pb (k.cb.valueAt pb) false true { k with cb := b' }) s
      | some (ca, _, a'), some (cb, pb, b') =>
        if ca == cb then .ok (mk ca pb (k.cb.valueAt pb) true true { k with ca := a', cb := b' }) s
        else if ca < cb then .ok (mk ca noPos none true false { k with ca := a' }) s
        else .ok (mk cb pb (k.cb.valueAt pb) false true { k with cb := b' }) s
  | .drain =>
    if s.skeinOut (clusterOf id) then .stall s
    else
      match skeinFrom (s.fast (clusterOf id)).skein k.low with
      | none => .ok none s
      | some (crd, x) =>
        if s.sharedBad (clusterOf id) 3 crd then .fault .eccFatal 0 s
        else
          .ok (some { crd := crd, pos := BitVec.ofNat 64 k.n, addr := none, val := x.toNat, inA := true, inB := false,
                      after := { k with n := k.n + 1, low := crd + 1 }, held := none }) s

/-- How a stream's values reach pages (R323, R328). -/
def StreamKind.use : StreamKind → Use
  | .bind => .unit
  | .gather => .elem
  | _ => .other

/-- Read an element's value (R198, R205). -/
def fetchVal (id : Nat) (k : StreamCore) (e : StreamElem) (s : State) : Fetch StreamElem :=
  match e.addr with
  | none => .ok e s
  | some va =>
    (spinRead id k.reader k.kind.use va (fmtWidth k.fmt / 8) s).bind fun x s => .ok { e with val := x } s

/-- A stream that has come to its end: a drain has passed every coordinate, and delivers nothing that is inserted later
(R220, R221). -/
def StreamCore.ended (k : StreamCore) : StreamCore := if k.kind == .drain then { k with low := max k.low (2 ^ 32) } else k

/-- The element that a stream delivers next, without its value where its spindle has not fetched it, and the stream after
it (R208-R211); at the end none. A fault that the spindle holds on its coordinate or on the bounds is raised. -/
def Stream.peek (id : Nat) (t : Stream) (s : State) : Fetch (Option StreamElem × Stream) :=
  match t.buf, t.held with
  | e :: es, f => .ok (some e, { core := e.after, buf := es, held := f }) s
  | [], some f => .fault f.cause f.tval s
  | [], none =>
    (t.core.step id s).bind fun r s =>
      match r with
      | none => .ok (none, { t with core := t.core.ended }) s
      | some e => .ok (some e, { core := e.after, buf := [], held := none }) s

/-- Pop one element of a stream (R112): what the spindle has fetched comes first, and a fault that it holds on the value
is raised; none at the end. -/
def Stream.pop (id : Nat) (t : Stream) (s : State) : Fetch (Option StreamElem × Stream) :=
  (t.peek id s).bind fun r s =>
    match r.1 with
    | none => .ok (none, r.2) s
    | some e =>
      match e.held with
      | some f => .fault f.cause f.tval s
      | none =>
        if t.buf.isEmpty then (fetchVal id t.core e s).bind fun e s => .ok (some e, r.2) s else .ok (some e, r.2) s

/-- A stream once it has raised a fault: what it has fetched ahead, and the fault, are fetched again when the instruction
executes again (R209). -/
def Stream.refetch (t : Stream) : Stream := { t with buf := [], held := none }

/-- The buffer of a stream holds an element in a granule with an uncorrectable error (R367). -/
def State.bufferBad (s : State) (id : Nat) (r : SReg) : Bool :=
  s.badSram.contains (.buffer id r.toNat) && !((s.hart id).getS r).buf.isEmpty

/-- The state once stream r of a hart has raised a fault: its buffer is filled again, with new contents (R209, R367). -/
def State.refetch (s : State) (id : Nat) (r : SReg) : State :=
  { s with badSram := s.badSram.filter (fun l => l != SramLoc.buffer id r.toNat) }.setHart id
    ((s.hart id).setS r ((s.hart id).getS r).refetch)

/-- Look at stream r of a hart with `f`: an error of its buffer is a fault, at the address of its first element or 0
(R208, R367), and a fault leaves the stream to be fetched again. -/
def State.onStream {α : Type} (s : State) (id : Nat) (r : SReg) (f : Stream → State → Fetch α) : Fetch α :=
  let t := (s.hart id).getS r
  if s.bufferBad id r then
    .fault .eccFatal (((t.buf.head?).bind (fun e => e.addr)).getD 0) (s.refetch id r)
  else
    match f t s with
    | .fault c v u => .fault c v (u.refetch id r)
    | x => x

/-- The core position after everything a stream's spindle has fetched. -/
def Stream.ahead (t : Stream) : StreamCore :=
  match t.buf.getLast? with
  | some e => e.after
  | none => t.core

/-- A stream is open (R201). -/
def Stream.isOpen (t : Stream) : Bool := t.core.kind != .closed

end Sys2Proof.Machine
end

