-- ==== Sys2Proof/Machine/Operands.lean ====
section
/-! DEFINITION. Operand forms: elements of vector registers, operand b as a vector, a scalar or a stream, and the
element loop of R113. -/

namespace Sys2Proof.Machine

/-- Element i of width w of a vector register (R14, R36). -/
def Hart.elem (h : Hart) (r : Reg) (w i : Nat) : Nat := ((h.getV r).toNat >>> h.bitPos w i) % 2 ^ w

/-- Q4X, which every form but the moves refuses (R114). -/
def Hart.isQ4x (h : Hart) : Bool := h.fmt == 10

/-- The bits of a vector register that an instruction writes: their mask and value, and 1 + the highest element
written (R24). -/
structure Lanes where
  mask : BitVec 16384
  val : BitVec 16384
  top : Nat
  deriving DecidableEq, Repr

/-- Bits of a mask register that an instruction writes. -/
structure MBits where
  mask : BitVec 4096
  val : BitVec 4096
  deriving DecidableEq, Repr

/-- What an element loop has written so far: register d, a second vector register, a mask register, a second mask
register, and flags. -/
structure Out where
  d : Lanes
  e : Lanes
  b : MBits
  c : MBits
  fl : BitVec 8
  deriving DecidableEq, Repr

/-- Nothing written. -/
def Lanes.empty : Lanes := { mask := 0, val := 0, top := 0 }
/-- Nothing written. -/
def MBits.empty : MBits := { mask := 0, val := 0 }
/-- Nothing written. -/
def Out.empty : Out := { d := Lanes.empty, e := Lanes.empty, b := MBits.empty, c := MBits.empty, fl := 0 }

/-- Write element i of width w at a bit position. -/
def Lanes.put (l : Lanes) (pos w i x : Nat) : Lanes :=
  { mask := l.mask ||| (lowMask w <<< pos)
    val := (l.val &&& ~~~(lowMask w <<< pos)) ||| (BitVec.ofNat 16384 (x % 2 ^ w) <<< pos)
    top := max l.top (i + 1) }

/-- Write bit i of a mask register. -/
def MBits.put (b : MBits) (i : Nat) (x : Bool) : MBits :=
  { mask := b.mask ||| (1#4096 <<< i)
    val := if x then b.val ||| (1#4096 <<< i) else b.val &&& ~~~(1#4096 <<< i) }

/-- Element i of d written (R36). -/
def Out.elem (o : Out) (h : Hart) (w i x : Nat) : Out := { o with d := o.d.put (h.bitPos w i) w i x }
/-- Element i of the second register written. -/
def Out.elem2 (o : Out) (h : Hart) (w i x : Nat) : Out := { o with e := o.e.put (h.bitPos w i) w i x }
/-- Bit i of the mask destination written. -/
def Out.bit (o : Out) (i : Nat) (x : Bool) : Out := { o with b := o.b.put i x }
/-- Bit i of the second mask written. -/
def Out.bit2 (o : Out) (i : Nat) (x : Bool) : Out := { o with c := o.c.put i x }
/-- Flags joined. -/
def Out.flags (o : Out) (f : BitVec 8) : Out := { o with fl := o.fl ||| f }

/-- Write what a loop gives to a vector register, with its latency and high-water mark (R24, R29): d is pending for what is
written, and not where nothing is (DEDUCED, log entry 40). -/
def Hart.putLanes (h : Hart) (r : Reg) (l : Lanes) (lat : Nat) : Hart :=
  if l.mask = 0 then h else (h.write (.v r) l.mask l.val lat).mark r l.top

/-- Write what a loop gives to a mask register; d is pending for what is written (DEDUCED, log entry 40). -/
def Hart.putMBits (h : Hart) (r : MReg) (b : MBits) (lat : Nat) : Hart :=
  if b.mask = 0 then h else h.setM r b.mask b.val lat

/-- Register d as a vector. -/
def emitV (d : Reg) (lat : Nat) (o : Out) (h : Hart) : Hart := h.putLanes d o.d lat
/-- Register d as a mask. -/
def emitM (d : MReg) (lat : Nat) (o : Out) (h : Hart) : Hart := h.putMBits d o.b lat

/-- The registers that operand b reads (R30). -/
def opSrcs : VOp → List Dst
  | .vec r => [.v r]
  | .sca r => [.a r]
  | .str _ => []

/-- A stream operand fails its check at issue: closed, or of another value format (R112, R201). -/
def opBad (b : VOp) (h : Hart) : Bool :=
  match b with
  | .str r => !(h.getS r).isOpen || (h.getS r).core.fmt != h.fmt
  | _ => false

/-- Pop a stream of the hart whose turn it is (R112); a pop of a drain, at its end too, is an input of a log (R221,
R378). -/
def State.popLogged (s : State) (r : SReg) : Fetch (Option StreamElem) :=
  (s.onStream s.cur r (fun t s => t.pop s.cur s)).bind fun q s =>
    let s := s.setMe (s.me.setS r q.2)
    if q.2.core.kind == .drain then
      let v : Word := BitVec.ofNat 64 ((q.1.map (fun e => e.val)).getD 0)
      match s.input s.myCluster 5 (fun d => d.kind == 5) [v] with
      | .ok ws s => .ok (q.1.map (fun e => { e with val := (ws.headD v).toNat })) s
      | .wait s => .stall s
      | .diverge s => .leave s
    else .ok q.1 s

/-- A fault of operand b has been raised with nothing popped: a stream is fetched again (R209). -/
def State.refetchOp (s : State) (b : VOp) : State :=
  match b with
  | .str r => s.refetch s.cur r
  | _ => s

/-- Operand b of element i in width w (R111, R112): a pad element pops nothing and reads +0. -/
def State.operand (s : State) (b : VOp) (w i : Nat) (h : Hart) : Fetch Nat :=
  match b with
  | .vec r => .ok (h.elem r w i) s
  | .sca r => .ok ((h.getA r).toNat % 2 ^ w) s
  | .str r =>
    if h.live.toNat ≤ i then .ok 0 s
    else
      (s.popLogged r).bind fun q s =>
        match q with
        | none => .ok 0 s
        | some e => .ok (e.val % 2 ^ w) s

/-- What an element loop comes to: through, stopped at an element by a fault, or stalled. -/
inductive Loop where
  | fin (o : Out) (s : State)
  | stop (k : Nat) (c : Cause) (tval : Word) (o : Out) (s : State)
  | stall (k : Nat) (s : State)
  | leave (s : State)

/-- The element loop of R113 over a list of element numbers: elements already done are passed over, operand b is
read (and popped) whether or not the element is active. `h` is the hart as it stood at issue. -/
def vecLoop (act : BitVec 4096) (b : VOp) (h : Hart) (f : Nat → Bool → Nat → Out → Out) :
    List Nat → Out → State → Loop
  | [], o, s => .fin o s
  | i :: is, o, s =>
    if h.todo i then
      match s.operand b h.width i h with
      | .ok y s => vecLoop act b h f is (f i (act.getLsbD i) y o) s
      | .fault c t s => .stop i c t o s
      | .stall s => .stall i s
      | .leave s => .leave s
    else vecLoop act b h f is o s

/-- Where an element loop ends before `vl`: at element k the grace window is over (R334), or the loop meets an
uncorrectable error of a register it reads (R367). -/
inductive Cut where
  | window (k : Nat)
  | ecc (k : Nat)
  deriving DecidableEq, Repr

/-- The element of a cut. -/
def Cut.elem : Cut → Nat
  | .window k => k
  | .ecc k => k

/-- The cut that comes first: a window that ends at the element of the error stops the hart before it. -/
def firstCut (win ecc : Option Nat) : Option Cut :=
  match win, ecc with
  | some k, some j => if k ≤ j then some (.window k) else some (.ecc j)
  | some k, none => some (.window k)
  | none, some j => some (.ecc j)
  | none, none => none

/-- Where an element loop of the hart whose turn it is ends early: in journal mode at the end of the grace window (R334), or where
its turn ends (log entry 6), and not before an element at which it has stalled (R327). -/
def State.winCut (s : State) : Option Nat × State :=
  if s.journal && s.me.preempt && (s.me.expired || s.windowOver s.cur) then (some s.me.floor, { s with partly := none }) else
  match s.partly with
  | some k => (some (max k s.me.floor), s)
  | none => if s.journal then (s.windowCut.1.map (max s.me.floor), s.windowCut.2) else (none, s)

/-- The cut of an element loop over the elements of `act` below `n` that reads the registers `ds` (R334, R367). -/
def State.elemCut (s : State) (ds : List Dst) (act : BitVec 4096) (n : Nat) : Option Cut × State :=
  let q := s.winCut
  (firstCut q.1 (s.eccCut ds act n), q.2)

/-- Only a stream read may stop part-way among the forms of the arithmetic chapters (R27, R334). -/
def State.streamCut (s : State) (b : VOp) (ds : List Dst) (act : BitVec 4096) (n : Nat) : Option Cut × State :=
  match b with
  | .str _ => s.elemCut ds act n
  | _ => (none, s)

/-- The elements below `n` that a loop takes up before its cut. -/
def upTo (cut : Option Cut) (n : Nat) : List Nat :=
  match cut with
  | some c => List.range (min c.elem n)
  | none => List.range n

/-- An element loop over `n` elements is through: it completes and clears the element progress (R27), or, where it was
cut at element k, stops with it (R334), goes on in a later turn, or raises ECC-FATAL there (R367). -/
def State.endOrStop (s : State) (cut : Option Cut) (n : Nat) : Res :=
  match cut with
  | some (.window k) =>
    if k < n then
      let s := s.setMe (s.me.progressAt (max k s.me.estart.toNat))
      if s.partly.isSome then .stall s else .leave (s.takeStop s.cur 3)
    else .done (s.setMe s.me.progress0)
  | some (.ecc k) =>
    if k < n then .trap (s.setMe (s.me.progressAt k)) .eccFatal 0 true else .done (s.setMe s.me.progress0)
  | none => .done (s.setMe s.me.progress0)

/-- A loop's end: it completes and clears the element progress, or stops part-way with it (R27, R136, R334). -/
def Loop.res (l : Loop) (s0 : State) (cut : Option Cut) (n : Nat) (emit : Out → Hart → Hart) : Res :=
  match l with
  | .fin o s => (s.setMe ((emit o s.me).flag o.fl)).endOrStop cut n
  | .stop k c t o s => .trap (s.setMe (((emit o s.me).flag o.fl).progressAt k)) c t true
  | .stall k s => .stall (s0.stuck s k)
  | .leave s => .leave s

/-- Sources are read only where there is an element, scalar ones too (R115; DEDUCED, log entry 40). -/
def whenAny (h : Hart) (ds : List Dst) : List Dst := if h.vl = 0 then [] else ds

/-- Issue of a vector form of the arithmetic chapters. -/
def vecInfo (w p : BitVec 3) (d : Dst) (srcs : List Dst) (lat : Nat) (ill : Bool) : Info :=
  { wt := w, on := .vector, priv := false, lending := .bits, pred := some p, flow := false, vec := true,
    dest := some d, srcs := srcs, lat := lat, ill := ill, illCsr := false, ecc := .elems }

/-- Operand b is a stream. -/
def popsStream (b : VOp) : Bool := match b with | .str _ => true | _ => false

/-- An element-wise form (R113); one that pops a stream meets an uncorrectable error at its element (R367). -/
def vecForm (i : Info) (b : VOp) (f : Hart → Nat → Bool → Nat → Out → Out) (emit : Out → Hart → Hart) (s : State) :
    Host.Outcome State Fault Refusal :=
  run (if popsStream b then { i with ecc := .loop } else i) s fun s =>
    let n := s.me.vl.toNat
    let q := s.streamCut b i.srcs (activeMask i s.me) n
    (vecLoop (activeMask i s.me) b s.me (f s.me) (upTo q.1 n) Out.empty q.2).res s q.1 n emit

end Sys2Proof.Machine
end

