-- ==== Sys2Proof/Machine/Block.lean ====
section
/-! DEFINITION. What values loaded from several words become: Q4X blocks (R42-R44, R145, R146) and the combinations of
every-bank loads (R148). -/

namespace Sys2Proof.Machine

/-- The floating-point format of the hart's elements. -/
def Hart.fp (h : Hart) : Fmt := Fmt.ofCode h.fmt

/-! ### Q4X blocks -/

/-- A Q4X block (R42): its header and its codes. -/
structure Block where
  header : BitVec 16
  codes : List Nat
  deriving DecidableEq, Repr

/-- The two excursion nibbles of a header (R42). -/
def Block.xn (b : Block) (k : Nat) : Nat := if k == 0 then (b.header.extractLsb' 8 4).toNat else (b.header.extractLsb' 12 4).toNat
/-- The exponent of the block scale (R42). -/
def Block.scale (b : Block) : Int := (b.header.extractLsb' 0 6).toNat - 32
/-- Code i. -/
def Block.code (b : Block) (i : Nat) : Nat := b.codes[i]?.getD 0

/-- A value times 2^e. -/
def Fp.shift (x : Fp) (e : Int) : Fp :=
  match x with
  | .fin neg m q => .fin neg m (q + e)
  | x => x

/-- The scan of R43: the outliers used, the elements given up, the values, and whether a third marker was met. -/
def scanFrom (b : Block) : List Nat → Nat → List Nat → List Fp → Bool → List Nat × List Fp × Bool
  | [], _, given, vals, third => (given, vals, third)
  | i :: is, used, given, vals, third =>
    if given.contains i then scanFrom b is used given (vals ++ [.fin false 0 0]) third
    else if b.code i != 8 then
      scanFrom b is used given (vals ++ [(Fp.fin (8 ≤ b.code i) (b.code i % 8) 0).shift b.scale]) third
    else if used < 2 then
      let x := b.xn used * 16 + b.code (i ^^^ 1)
      scanFrom b is (used + 1) (given ++ [i ^^^ 1]) (vals ++ [(Fmt.f8a.read x).shift b.scale]) third
    else scanFrom b is used given (vals ++ [.fin false 0 0]) true

/-- The decoded values of a block, and the flag of a third marker (R43): a given-up neighbour reads as zero. -/
def Block.decode (b : Block) : List Fp × BitVec 8 :=
  let r := scanFrom b (List.range b.codes.length) 0 [] [] false
  ((List.range b.codes.length).map (fun i => if r.1.contains i then .fin false 0 0 else r.2.1[i]?.getD (.fin false 0 0)),
    if r.2.2 then flFORMAT else 0)

/-- A block from its bytes. -/
def Block.ofBytes (bs : List Nat) : Block :=
  { header := BitVec.ofNat 16 (bs.headD 0 + 256 * (bs.tail.headD 0))
    codes := (bs.drop 2).flatMap (fun b => [b % 16, b / 16]) }

/-- The codes of a block as bytes, two to a byte (R5). -/
def pairBytes : List Nat → List Nat
  | x :: y :: t => (x + 16 * y) :: pairBytes t
  | t => t

/-- The bytes of a block (R42). -/
def Block.toBytes (b : Block) : List Nat := b.header.toNat % 256 :: b.header.toNat / 256 :: pairBytes b.codes

/-- The magnitude of a value. -/
def Fp.abs : Fp → Fp
  | .fin _ m e => .fin false m e
  | .inf _ => .inf false
  | x => x

/-- A value that is no zero. -/
def Fp.nonzero : Fp → Bool
  | .fin _ m _ => m != 0
  | _ => true

/-- m × 2^(e − 32) as a value. -/
def scaled (m e : Nat) : Fp := .fin false m ((e : Int) - 32)

/-- `sc(m)` of R146. -/
def scOf (m : Fp) : Nat :=
  if !m.nonzero then 0
  else ((List.range 64).find? (fun e => !(Fp.lt (scaled 7 e) m))).getD 63

/-- Element i of a list of values. -/
def fpAt (x : List Fp) (i : Nat) : Fp := x[i]?.getD (.fin false 0 0)

/-- The largest magnitude over indices. -/
def largest (x : List Fp) (is : List Nat) : Fp :=
  is.foldl (fun m i => if Fp.lt m (fpAt x i).abs then (fpAt x i).abs else m) (.fin false 0 0)

/-- The candidate of R146: the index of the largest magnitude among those neither chosen nor neighbours of one
chosen, the lowest on a tie. -/
def candidate (x : List Fp) (out : List Nat) : Option Nat :=
  ((List.range x.length).filter (fun i => !out.contains i && !out.contains (i ^^^ 1))).foldl
    (fun c i => match c with
      | none => some i
      | some j => if Fp.lt (fpAt x j).abs (fpAt x i).abs then some i else c) none

/-- x / 2^(e − 32). -/
def unscale (x : Fp) (e : Nat) : Fp := x.shift (32 - (e : Int))

/-- One round of the choice of outliers (R146): none when it stops. -/
def chooseStep (rm : BitVec 2) (x : List Fp) (out : List Nat) (e : Nat) : Option (List Nat × Nat) :=
  match candidate x out with
  | none => none
  | some c =>
    let out' := out ++ [c]
    let keep := (List.range x.length).filter (fun i => !out'.contains i && !out'.contains (i ^^^ 1))
    let e2 := scOf (largest x keep)
    if !(fpAt x c).nonzero || decide (e ≤ e2) || out'.any (fun j => Fp.lt (scaled 240 e2) (fpAt x j).abs)
        || out'.any (fun j => j % 2 == 1 && (Fmt.f8a.round rm (unscale (fpAt x j) e2)).1 % 16 == 8) then none
    else some (out', e2)

/-- The outliers and scale of a block (R146): two rounds at most. -/
def chooseOutliers (rm : BitVec 2) (x : List Fp) : List Nat × Nat :=
  let e := scOf (largest x (List.range x.length))
  match chooseStep rm x [] e with
  | none => ([], e)
  | some (o, e) => (chooseStep rm x o e).getD (o, e)

/-- The code of a kept element and its flags (R146). -/
def keptCode (rm : BitVec 2) (x : Fp) (e : Nat) : Nat × BitVec 8 :=
  match unscale x e with
  | .fin neg m q =>
    let r := roundAt rm neg (2 * m) (q - 1) 0
    let nx := if r.2 then flNX else 0
    if 7 < r.1 then ((if neg then 15 else 7), flOF ||| flNX ||| nx)
    else if r.1 == 0 then (0, nx)
    else ((if neg then 8 + r.1 else r.1), nx)
  | _ => (0, 0)

/-- Encode the values of a block (R146). -/
def encodeBlock (rm : BitVec 2) (vals : List Fp) : Block × BitVec 8 :=
  let bad := fun v => match v with | Fp.fin _ _ _ => false | _ => true
  let x := vals.map (fun v => if bad v then Fp.fin false 0 0 else v)
  let nv := if vals.any bad then flNV else 0
  let r := chooseOutliers rm x
  let out := (List.range x.length).filter (fun i => r.1.contains i)
  let pats := out.map (fun i => (i, Fmt.f8a.round rm (unscale (fpAt x i) r.2)))
  let one := fun i =>
    match pats.find? (fun p => p.1 == i), pats.find? (fun p => p.1 == i ^^^ 1) with
    | some p, _ => (8, p.2.2)
    | none, some p => (p.2.1 % 16, if (fpAt x i).nonzero then flNX else 0)
    | none, none => keptCode rm (fpAt x i) r.2
  let codes := (List.range x.length).map one
  let xn := fun n => match pats[n]? with | some p => p.2.1 / 16 | none => 0
  ({ header := BitVec.ofNat 16 (r.2 + 64 * out.length + 256 * xn 0 + 4096 * xn 1), codes := codes.map (fun c => c.1) },
    codes.foldl (fun f c => f ||| c.2) nv)

/-- Elements in a block. -/
def Hart.blockSize (h : Hart) : Nat := blockLen h.blen

/-- The elements of block j written into d, and its header into d + 1 for a Q4X working format (R145). -/
def putBlock (h : Hart) (j : Nat) (b : Block) (o : Out) : Out :=
  let B := h.blockSize
  let els := (List.range B).filter (fun k => decide (j * B + k < h.live.toNat))
  if h.isQ4x then
    let o := els.foldl (fun o k => o.elem h 4 (j * B + k) (b.code k)) o
    { o with e := { (o.e.put (h.bitPos 16 j) 16 j b.header.toNat) with top := max o.e.top (4 * (j + 1)) } }
  else
    let r := b.decode
    els.foldl (fun o k =>
      let q := h.fp.round h.rm (fpAt r.1 k)
      (o.elem h h.width (j * B + k) q.1).flags q.2) (o.flags r.2)

/-! ### Combiners (R148) -/

/-- A combiner: the combined value and its flags (R148). -/
abbrev Combine := Nat → Nat → Nat × BitVec 8

/-- x + y, wrapped. -/
def combAdd (w : Nat) : Combine := fun x y => ((x + y) % 2 ^ w, 0)
/-- The signed minimum. -/
def combMin (w : Nat) : Combine := fun x y => (if sInt w y < sInt w x then y else x, 0)
/-- The signed maximum. -/
def combMax (w : Nat) : Combine := fun x y => (if sInt w x < sInt w y then y else x, 0)
/-- The unsigned minimum. -/
def combMinn : Combine := fun x y => (min x y, 0)
/-- The unsigned maximum. -/
def combMaxn : Combine := fun x y => (max x y, 0)
/-- Bitwise and. -/
def combAnd : Combine := fun x y => (x &&& y, 0)
/-- Bitwise or. -/
def combOr : Combine := fun x y => (x ||| y, 0)
/-- Bitwise exclusive or. -/
def combXor : Combine := fun x y => (x ^^^ y, 0)
/-- The rounded sum. -/
def combFadd (k : Fmt) (rm : BitVec 2) : Combine := fun x y => k.add rm (k.read x) (k.read y)

/-- The combiner of an operation, in width w and in a floating-point format. -/
def CombOp.fn (op : CombOp) (w : Nat) (k : Fmt) (rm : BitVec 2) : Combine :=
  match op with
  | .add => combAdd w
  | .fadd => combFadd k rm
  | .min => combMin w
  | .max => combMax w
  | .minn => combMinn
  | .maxn => combMaxn
  | .and => combAnd
  | .or => combOr
  | .xor => combXor

/-- The combination of values in order with what has been combined before (R149). -/
def CombOp.all (op : CombOp) (w : Nat) (k : Fmt) (rm : BitVec 2) (acc : Option Nat) (xs : List Nat) : Nat × BitVec 8 :=
  match acc, xs with
  | some y, xs => xs.foldl (fun r x => let q := op.fn w k rm r.1 x; (q.1, r.2 ||| q.2)) (y, 0)
  | none, x :: xs => xs.foldl (fun r x => let q := op.fn w k rm r.1 x; (q.1, r.2 ||| q.2)) (x, 0)
  | none, [] => (0, 0)

end Sys2Proof.Machine
end

