-- ==== Sys2Proof/Machine/Access.lean ====
section
/-! DEFINITION. Accesses of a hart to its words: class queues, posted parts, loads, stores and atomics on one word
(R36, R95, R151, R155, R182-R186). -/

namespace Sys2Proof.Machine

/-! ### Values that come late (R29, R183, R184) -/

/-- A register of the same file. -/
def Dst.like (d : Dst) (r : Reg) : Dst :=
  match d with
  | .a _ => .a r
  | .v _ => .v r
  | .m _ => .m (r.setWidth 4)

/-- The registers of a place: its own and the copy register. -/
def Place.regs (p : Place) : List Dst := p.dst :: p.copy.toList.map p.dst.like

/-- A value reaches its place (R69). -/
def Hart.reach (h : Hart) (p : Place) (x : Nat) : Hart :=
  p.regs.foldl (fun h d =>
    h.write d (lowMask p.w <<< p.pos) (BitVec.ofNat 16384 (x / 2 ^ p.sh % 2 ^ p.w) <<< p.pos) 0) h

/-- The copy register of the prefix that lends its state to the instruction in hand (R69). -/
def Hart.copyReg (h : Hart) : Option Reg := h.lent.bind (fun l => if l.cv then some l.creg else none)

/-- Every part of a gather has come (R145, R149). -/
def Hart.gathered (h : Hart) (g : Gather) : Hart :=
  match g.what with
  | .banks op fmt rm acc p =>
    let r := op.all p.w (Fmt.ofCode fmt) rm acc ((List.range g.need).map (fun k => (tget g.got k).getD 0))
    (h.reach p r.1).flag r.2
  | .block d j live copy =>
    let b := Block.ofBytes ((List.range g.need).map (fun k => (tget g.got k).getD 0))
    let o := putBlock { h with live := live } j b Out.empty
    let h := ((h.putLanes d o.d 0).putLanes (d + 1) o.e 0).flag o.fl
    match copy with
    | some r => h.write (.v r) o.d.mask o.d.val 0
    | none => h

/-- The registers that a gather writes. -/
def Gather.regs (g : Gather) : List Dst :=
  match g.what with
  | .banks _ _ _ _ p => p.regs
  | .block d _ _ copy => .v d :: .v (d + 1) :: copy.toList.map Dst.v

/-- Values come for a gather, by number; the last of them completes it. -/
def Hart.gather (h : Hart) (id : Nat) (xs : List (Nat × Nat)) : Hart :=
  match h.gathers.find? (fun g => g.id == id) with
  | none => h
  | some g =>
    let g := { g with got := g.got ++ xs }
    if g.got.length < g.need then { h with gathers := h.gathers.map (fun f => if f.id == id then g else f) }
    else Hart.gathered { h with gathers := h.gathers.filter (fun f => f.id != id) } g

/-- The values of part `k` of a gather: a bank's value, or the bytes of a block from byte k on. -/
def Hart.partOf (h : Hart) (id k n x : Nat) : List (Nat × Nat) :=
  match h.gathers.find? (fun g => g.id == id) with
  | some g =>
    (match g.what with
      | .banks _ _ _ _ _ => [(k, x)]
      | .block _ _ _ _ => (List.range n).map (fun i => (k + i, x / 256 ^ i % 256)))
  | none => []

/-- The combination an atomic makes of the old word and its operand, in width w (R155, R156): the pattern and flags.
`fl` is the format of `fadd`; `cmp` is what `cas` compares with. -/
def amoVal (op : AmoOp) (w : Nat) (fl : Fmt) (rm : BitVec 2) (old b cmp : Nat) : Nat × BitVec 8 :=
  match op with
  | .add => ((old + b) % 2 ^ w, 0)
  | .min => (if sInt w b < sInt w old then b else old, 0)
  | .max => (if sInt w old < sInt w b then b else old, 0)
  | .and => (old &&& b, 0)
  | .or => (old ||| b, 0)
  | .fadd => fl.add rm (fl.read old) (fl.read b)
  | .swap => (b, 0)
  | .cas => (if old == cmp then b else old, 0)

/-- The perform order of an atomic of hart `id` on a word, where it is an input of the hart's context (R378): at `va`, homed at
`key`; `late` where it performs apart from its instruction. -/
def State.amoOrder (s : State) (id key : Nat) (va : Word) (late : Bool) : Logged :=
  let sp := s.spaceOf (clusterOf id)
  match streamOf key with
  | some t => s.inputIn sp.1 sp.2 id t 3 (s.sameWord key) late [va]
  | none => .ok [va] s

/-- An atomic that has waited in its class queue performs; one whose turn in a replay has not come waits on (R381). -/
def State.performRmw (s : State) (id : Nat) (q : Issued) (l : LateLoad) (op : AmoOp) (fmt : BitVec 4) (rm : BitVec 2)
    (b cmp : Nat) (old : Option Place) (logged : Bool) : State :=
  match if logged then s.amoOrder id l.key l.va true else .ok [l.va] s with
  | .ok _ s =>
    let x := s.mem.readLE l.key l.n
    let r := amoVal op (8 * l.n) (Fmt.ofCode fmt) rm x b cmp
    let s := s.perform (cellsOf l.key l.n r.1)
    let h := (s.hart id).flag r.2
    s.setHart id (match old with | some p => h.reach p x | none => h)
  | .wait s => { s with early := s.early + 1 }.setHart id { s.hart id with queue := (s.hart id).queue ++ [q] }
  | .diverge s => s

/-- A queued access of a hart performs at its home: a store writes its bytes, a load or atomic takes what it finds (R184); one
that meets an error that has come up since it issued is reported as ECC-FATAL at the next boundary. -/
def State.performIssued (s : State) (id : Nat) (q : Issued) : State :=
  match q.load with
  | none => s.perform q.cells
  | some l =>
    if s.badAt l.key then
      let h := s.hart id
      (s.setHart id (match l.use with
        | .part g _ => { h with gathers := h.gathers.filter (fun f => f.id != g) }
        | _ => h)).pendCause id .eccFatal l.va
    else
      match l.use with
      | .place p => s.setHart id ((s.hart id).reach p (s.mem.readLE l.key l.n))
      | .part g k => s.setHart id ((s.hart id).gather g ((s.hart id).partOf g k l.n (s.mem.readLE l.key l.n)))
      | .rmw op fmt rm b cmp old logged => s.performRmw id q l op fmt rm b cmp old logged

/-- Perform the queued accesses of a hart that a test names, in order (R182). -/
def State.drain (s : State) (id : Nat) (which : Issued → Bool) : State :=
  let h := s.hart id
  let t := s.setHart id { h with queue := h.queue.filter (fun q => !(which q)) }
  (h.queue.filter which).foldl (fun t q => t.performIssued id q) t

/-- The accesses at the places of a hart's queue that a test names perform, in order (R182, R185). -/
def State.drainAt (s : State) (id : Nat) (take : List Issued → Nat → Bool) : State :=
  let q := (s.hart id).queue
  let l := q.zip ((List.range q.length).map (take q))
  let s := s.setHart id { s.hart id with queue := (l.filter (fun e => !e.2)).map (fun e => e.1) }
  (l.filter (fun e => e.2)).foldl (fun s e => s.performIssued id e.1) s

/-- The registers that wait for a load or atomic (R29, R184). -/
def Hart.loading (h : Hart) : List Dst :=
  h.queue.flatMap (fun q =>
    match q.load with
    | some l =>
      (match l.use with
        | .place p => p.regs
        | .part _ _ => []
        | .rmw _ _ _ _ _ old _ => (old.map Place.regs).getD [])
    | none => []) ++ h.gathers.flatMap Gather.regs

/-- A load or atomic of a hart has not performed: a register waits for it, or `fstat` for its flags (R21, R184). -/
def Hart.late (h : Hart) : Bool := h.queue.any (fun q => q.load.isSome) || !h.gathers.isEmpty

/-- Every load and atomic of a hart performs, with what its class queue holds (R29, R182). -/
def State.land (s : State) (id : Nat) : State :=
  s.drain id (fun q => (s.hart id).queue.any (fun r => r.load.isSome && r.cls == q.cls))

/-- The number of a register in its file. -/
def Dst.num : Dst → Reg
  | .a r => r
  | .v r => r
  | .m r => r.setWidth 5

/-- The numbers that the register fields of a word name (R57), and after each the next, where a form takes two registers in a
row. -/
def fieldNums (x : BitVec 32) : List Reg :=
  let fs := if Decode.fmaj x == 3 then [x.extractLsb' 17 5, x.extractLsb' 12 5]
    else [x.extractLsb' 20 5, x.extractLsb' 15 5, x.extractLsb' 10 5]
  fs ++ fs.map (· + 1)

/-- The interlock of loads (R29, R183): before the instruction x issues, every load and atomic that has not performed does,
unless x is an ALU, ALUI, BR, VINT or VFP word or a memory access (majors 1 to 6, 8 to 10), under no lent state, whose
register fields name no register that waits; none of these reads `fstat`. -/
def State.interlock (s : State) (x : BitVec 32) : State :=
  let maj := (Decode.fmaj x).toNat
  if !s.me.late then s
  else if s.me.lent.isNone && [1, 2, 3, 4, 5, 6, 8, 9, 10].contains maj
      && !s.me.loading.any (fun d => (fieldNums x).contains d.num) then s
  else s.land s.cur

/-- The word is of a vector floating-point form (R64, R114): VFP, and the reductions, dot product and scaling of VXR. -/
def floatWord (x : BitVec 32) : Bool :=
  Decode.fmaj x == 9 || (Decode.fmaj x == 11 && [12, 13, 14, 15, 20].contains (codeOf x))

/-- The hart whose turn it is in `s` has taken a trap or stopped in `t` (R103, R333). -/
def State.broke (s t : State) : Bool :=
  (t.me.tb && !s.me.tb) || t.me.status == .stopped || t.me.status == .halted

/-- The instruction in hand, a vector floating-point form, has issued between `s` and `t`: the arbiter's next round sees it
(R393). One that trapped has issued if it performed elements. -/
def State.noteIssue (s : State) (x : BitVec 32) (t : State) : State :=
  if floatWord x && !isControl s.cur && (!s.broke t || t.me.estart != s.me.estart) then
    t.setCluster s.myCluster { t.cluster s.myCluster with vfp := true }
  else t

/-- The perform order of a posted part is an input of its hart's context (R378). -/
def State.postedInput (s : State) (id : Nat) (p : Posted) : Logged := s.amoOrder id p.key p.va true

/-- Perform a posted part at the home of its word (R151): a part that meets an uncorrectable error is reported as
ECC-FATAL at the next instruction boundary; one whose turn in a replay has not come stays posted (R381). -/
def State.performPosted (s : State) (id : Nat) (p : Posted) : State :=
  if s.badAt p.key then s.pendCause id .eccFatal p.va
  else
    match s.postedInput id p with
    | .ok _ s => s.perform (cellsOf p.key 8 (amoVal p.op 64 .f64 0 (s.mem.readLE p.key 8) p.operand.toNat 0).1)
    | _ => { s with early := s.early + 1 }.setHart id { s.hart id with posted := (s.hart id).posted ++ [p] }

/-- Perform the posted parts of a hart that a test names, in program order (R186). -/
def State.drainPosted (s : State) (id : Nat) (which : Posted → Bool) : State :=
  let h := s.hart id
  let t := s.setHart id { h with posted := h.posted.filter (fun p => !(which p)) }
  (h.posted.filter which).foldl (fun t p => t.performPosted id p) t

/-- Before an access of a class to a word: the earlier stores of the class, and the posted parts of the class to the
same word, perform (R182, R186). -/
def State.orderBefore (s : State) (cls : BitVec 4) (key : Nat) : State :=
  let s := s.drain s.cur (fun q => q.cls == cls)
  s.drainPosted s.cur (fun p => p.cls == cls && p.key / 8 == key / 8)

/-- Go on after an access at `va`, or raise its cause, or stall. -/
def Acc.res {α : Type} (a : Acc α) (s0 : State) (va : Word) (k : α → State → Res) : Res :=
  match a with
  | .ok x s => k x s
  | .trap c s => .trap s c va false
  | .stall s => .stall (s0.rollback s)

/-- A load of `n` bytes in a class at the home of a word: what must come before it performs first, and it meets the
errors that those stores leave (R182, R368). -/
def State.loadHome (s : State) (cls : BitVec 4) (key n : Nat) : Acc Nat :=
  let s := s.orderBefore cls key
  if s.badAt key then .trap .eccFatal s else .ok (s.mem.readLE key n) s

/-- A load of one element or word of the hart whose turn it is: translate, order, read (R36, R91). -/
def State.loadAt (s : State) (cls : BitVec 4) (u : Use) (va : Word) (n : Nat) : Acc Nat :=
  (s.xlate (s.who s.cur) .load u va).bind fun key s => s.loadHome cls key n

/-- The place of element i of vector register d: of an I4 format its nibble of the byte that is read (R138, R140). -/
def Hart.placeOf (h : Hart) (d : Reg) (i : Nat) : Place :=
  { dst := .v d, pos := h.bitPos h.width i, w := h.width, sh := if h.fmt == 11 then 4 * (i % 2) else 0, copy := h.copyReg }

/-- The place of a scalar result. What `a0` takes is discarded, and a copy of it is 0, which retirement writes (R12, R69). -/
def Hart.placeA (h : Hart) (d : Reg) : Place :=
  { dst := .a d, pos := 0, w := 64, sh := 0, copy := if d == 0 then none else h.copyReg }

/-- Accesses of the instruction in hand enter their class queue (R182, R184, log entry 7), after the posted parts of the class
to their words (R186). -/
def State.issueLate (s : State) (cls : BitVec 4) (ls : List LateLoad) : State :=
  let s := s.drainPosted s.cur (fun p => p.cls == cls && ls.any (fun l => l.key / 8 == p.key / 8))
  s.setMe { s.me with queue := s.me.queue ++ ls.map (fun l => { cls := cls, grp := s.me.now, cells := [], load := some l }) }

/-- A load of one element or word, as `loadAt` gives it; with `queued` set it waits in its class queue for its use, and there
is no value yet (R184, log entry 7). One whose word carries an error performs at once. -/
def State.loadFor (s : State) (cls : BitVec 4) (u : Use) (va : Word) (n : Nat) (use : LateFor) : Acc (Option Nat) :=
  if s.queued then
    (s.xlate (s.who s.cur) .load u va).bind fun key s =>
      if s.badAt key then (s.loadHome cls key n).bind fun x s => .ok (some x) s
      else .ok none (s.issueLate cls [{ va := va, key := key, n := n, use := use }])
  else (s.loadAt cls u va n).bind fun x s => .ok (some x) s

/-- The accesses to a run of bytes from part `k` of a gather on, one for each aligned word (R181). -/
def wordRuns (g : Nat) (va : Word) : Nat → List Nat → List LateLoad
  | _, [] => []
  | k, x :: xs =>
    let one : LateLoad := { va := va + BitVec.ofNat 64 k, key := x, n := 1, use := .part g k }
    match wordRuns g va (k + 1) xs with
    | l :: ls => if l.key == x + 1 && l.key / 8 == x / 8 then { one with n := l.n + 1 } :: ls else one :: l :: ls
    | [] => [one]

/-- The loads that have issued in a class perform (R182). -/
def State.settleLoads (s : State) (cls : BitVec 4) : State := s.drain s.cur (fun q => q.cls == cls)

/-- A gather begins: its number, and the state with it. -/
def State.openGather (s : State) (need : Nat) (w : GatherFor) : Nat × State :=
  let id := s.me.gathers.foldl (fun m g => max m (g.id + 1)) 0
  (id, s.setMe { s.me with gathers := s.me.gathers ++ [{ id := id, need := need, got := [], what := w }] })

/-- A store of one element or word of the hart whose turn it is (R36, R91). -/
def State.storeAt (s : State) (cls : BitVec 4) (u : Use) (va : Word) (n x : Nat) : Acc Unit :=
  (s.xlate (s.who s.cur) .store u va).bind fun key s =>
    let s := s.drainPosted s.cur (fun p => p.cls == cls && p.key / 8 == key / 8)
    .ok () (s.issueStore s.cur cls (cellsOf key n x))

/-- Class-0 loads of `n` aligned words for an instruction that reads a descriptor (R188); a fault carries the address
of its word (R34). -/
def State.loadWords (s : State) (va : Word) : Nat → Fetch (List Word)
  | 0 => .ok [] s
  | n + 1 =>
    ((s.loadAt 0 .other va 8).at va).bind fun x s =>
      (State.loadWords s (va + 8) n).bind fun xs s => .ok (BitVec.ofNat 64 x :: xs) s

/-- Go on after reads, or raise the cause with its value, or stall; the element progress stays as it is. -/
def Fetch.plain {α : Type} (f : Fetch α) (s0 : State) (k : α → State → Res) : Res :=
  match f with
  | .ok x s => k x s
  | .fault c t s => .trap s c t false
  | .stall s => .stall (s0.rollback s)
  | .leave s => .leave s

/-- The outcome of one atomic on one word (R155, R156): `late` where it waits in its class queue; `leave` is a divergence from
the log (R381). -/
inductive Amo where
  | did (old : Nat) (fl : BitVec 8) (s : State)
  | late (s : State)
  | missed (s : State)
  | fault (c : Cause) (s : State)
  | stall (s : State)
  | leave (s : State)

/-- The mask of the hart's next logged `smiss`, while its context replays (R378, R381). -/
def State.loggedMiss (s : State) : Option (BitVec 4096) :=
  let sp := s.spaceOf s.myCluster
  match s.ctx sp.1 sp.2 with
  | some c =>
    if c.mode == .replay then
      (((tget c.log s.myCluster).getD []).find? (fun e => e.hart == s.cur && e.kind == 4)).map
        (fun e => wordsMask e.words)
    else none
  | none => none

/-- The perform order of an atomic, where it is an input (R378). -/
def State.amoInput (s : State) (logged : Bool) (key : Nat) (va : Word) : Logged :=
  if logged then s.amoOrder s.cur key va false else .ok [va] s

/-- One atomic of n bytes at `va`, with the scope check of R154: nothing is performed when the word's home scope is
wider. `said` is what the log of a replay says of the miss (R381), and `d` the place of the old value, where the atomic is to
wait in its class queue (log entry 7). -/
def State.amoAt (s : State) (cls : BitVec 4) (scope : Nat) (u : Use) (op : AmoOp) (n : Nat) (fmt : BitVec 4) (va : Word)
    (b cmp : Nat) (said : Option Bool) (logged : Bool) (d : Option Place) : Amo :=
  match s.xlate (s.who s.cur) .atomic u va with
  | .trap c s => .fault c s
  | .stall s => .stall s
  | .ok key s =>
    if said.getD (decide (scope < homeScope s.myCluster key)) then .missed s
    else if s.queued && !s.badAt key then
      .late (s.issueLate cls [{ va := va, key := key, n := n, use := .rmw op fmt s.me.rm b cmp d logged }])
    else
      let s := s.orderBefore cls key
      if s.badAt key then .fault .eccFatal s
      else
      match s.amoInput logged key va with
      | .wait s => .stall s
      | .diverge s => .leave s
      | .ok _ s =>
        let old := s.mem.readLE key n
        let r := amoVal op (8 * n) (Fmt.ofCode fmt) s.me.rm old b cmp
        .did old r.2 (s.perform (cellsOf key n r.1))

/-- Write `smiss` after an atomic: an input of a log (R378). It is written whole: an error in it is gone (R367, log entry 25). -/
def State.putMiss (s : State) (s0 : State) (m : BitVec 4096) (k : State → Res) : Res :=
  (s.input s.myCluster 4 (fun _ => false) (maskWords s.me.vl.toNat m)).res s0 fun ws s =>
    k ({ s with badSram := s.badSram.filter (· != SramLoc.control s.cur 0x40) }.setMe
      { s.me with smiss := if s.replaying s.myCluster then wordsMask ws else m })

end Sys2Proof.Machine
end

