-- ==== Sys2Proof/Machine/Vfp.lean ====
section
/-! DEFINITION. Major VFP: vector floating-point arithmetic (R113-R115, R120-R123). -/

namespace Sys2Proof.Machine

/-- Issue of a VFP form (R120): a floating-point format (R114), operand b open and of that format (R112). -/
def vfpInfo (w p : BitVec 3) (d : Dst) (srcs : List Dst) (b : VOp) (lat : Nat) (s : State) : Info :=
  vecInfo w p d (whenAny s.me (srcs ++ opSrcs b)) lat (opBad b s.me || !isFloat s.me.fmt)

/-- elem(d, i) := f(format, rm, elem(a, i), y), with the flags of the rounding (R113, R120). -/
def vfp (w : BitVec 3) (d a : Reg) (b : VOp) (p : BitVec 3) (lat : Nat)
    (f : Fmt → BitVec 2 → Nat → Nat → Nat × BitVec 8) (s : State) : Host.Outcome State Fault Refusal :=
  vecForm (vfpInfo w p (.v d) [.v a] b lat s) b
    (fun h i act y o =>
      if act then
        let r := f h.fp h.rm (h.elem a h.width i) y
        (o.elem h h.width i r.1).flags r.2
      else o) (emitV d lat) s

/-- A form of one operand: elem(d, i) := f(format, rm, y) (R120). -/
def vfp1 (w : BitVec 3) (d : Reg) (b : VOp) (p : BitVec 3) (lat : Nat)
    (f : Fmt → BitVec 2 → Nat → Nat × BitVec 8) (s : State) : Host.Outcome State Fault Refusal :=
  vecForm (vfpInfo w p (.v d) [] b lat s) b
    (fun h i act y o =>
      if act then
        let r := f h.fp h.rm y
        (o.elem h h.width i r.1).flags r.2
      else o) (emitV d lat) s

/-- A fused form: elem(d, i) := f(format, rm, elem(a, i), y, elem(d, i)) (R120). -/
def vfp3 (w : BitVec 3) (d a : Reg) (b : VOp) (p : BitVec 3)
    (f : Fmt → BitVec 2 → Fp → Fp → Fp → Nat × BitVec 8) (s : State) : Host.Outcome State Fault Refusal :=
  vecForm (vfpInfo w p (.v d) [.v a, .v d] b 4 s) b
    (fun h i act y o =>
      if act then
        let k := h.fp
        let r := f k h.rm (k.read (h.elem a h.width i)) (k.read y) (k.read (h.elem d h.width i))
        (o.elem h h.width i r.1).flags r.2
      else o) (emitV d 4) s

/-- A compare: bit i of d := f(elem(a, i), y), with flags (R121). -/
def vfcmp (w : BitVec 3) (d : MReg) (a : Reg) (b : VOp) (p : BitVec 3) (f : Fp → Fp → Bool × BitVec 8) (s : State) :
    Host.Outcome State Fault Refusal :=
  vecForm (vfpInfo w p (.m d) [.v a] b 4 s) b
    (fun h i act y o =>
      if act then
        let r := f (h.fp.read (h.elem a h.width i)) (h.fp.read y)
        (o.bit i r.1).flags r.2
      else o) (emitM d 4) s

/-- `vfmin` and `vfmax` of two patterns (R121): a NaN gives way to the other operand, and `pick` chooses between two
numbers. -/
def Fmt.pick (k : Fmt) (choose : Fp → Fp → Fp) (x y : Nat) : Nat × BitVec 8 :=
  let a := k.read x
  let b := k.read y
  let nv := nvSig a b
  if a.isNan && b.isNan then (k.nan, nv)
  else if a.isNan then (y, nv)
  else if b.isNan then (x, nv)
  else (if choose a b == a then x else y, nv)

/-- The magnitude of a pattern. -/
def Fmt.magnitude (k : Fmt) (x : Nat) : Nat := x % 2 ^ (k.fb + k.eb)

/-- A magnitude with a sign, or the canonical NaN: F8A has no −0 (R40, R120). -/
def Fmt.withSign (k : Fmt) (neg : Bool) (mag : Nat) : Nat := if mag == 0 then k.zero neg else k.signed neg mag

/-- `vfabs`, `vfneg` and `vfsgn` (R120): the magnitude of `x` under a sign, canonical NaN for a NaN among `x` and
`y`. -/
def Fmt.resign (k : Fmt) (neg : Bool) (x y : Nat) : Nat × BitVec 8 :=
  let a := k.read x
  let b := k.read y
  if a.isNan || b.isNan then (k.nan, nvSig a b) else (k.withSign neg (k.magnitude x), 0)

/-- The class code of a pattern (R123). -/
def Fmt.classOf (k : Fmt) (x : Nat) : Nat :=
  let sub := k.magnitude x < 2 ^ k.fb
  match k.read x with
  | .nan sig => if sig then 8 else 9
  | .inf neg => if neg then 0 else 7
  | .fin neg m _ =>
    if m == 0 then (if neg then 3 else 4)
    else if sub then (if neg then 2 else 5)
    else if neg then 1 else 6

/-- a × 2^n rounded once (R120): beyond ±8,192 every format overflows or underflows alike. -/
def Fmt.scale (k : Fmt) (rm : BitVec 2) (x : Fp) (n : Int) : Nat × BitVec 8 :=
  match x with
  | .fin neg m e => k.round rm (.fin neg m (e + max (-8192) (min 8192 n)))
  | x => k.round rm x

/-- `vfadd` (R120). -/
def execVfadd (w : BitVec 3) (d a : Reg) (b : VOp) (p : BitVec 3) (s : State) : Host.Outcome State Fault Refusal :=
  vfp w d a b p 4 (fun k rm x y => k.add rm (k.read x) (k.read y)) s

/-- `vfsub` (R120, R47). -/
def execVfsub (w : BitVec 3) (d a : Reg) (b : VOp) (p : BitVec 3) (s : State) : Host.Outcome State Fault Refusal :=
  vfp w d a b p 4 (fun k rm x y => k.add rm (k.read x) (k.read y).neg) s

/-- `vfmul` (R120). -/
def execVfmul (w : BitVec 3) (d a : Reg) (b : VOp) (p : BitVec 3) (s : State) : Host.Outcome State Fault Refusal :=
  vfp w d a b p 4 (fun k rm x y => k.mul rm (k.read x) (k.read y)) s

/-- `vfma` (R120: a × y + d). -/
def execVfma (w : BitVec 3) (d a : Reg) (b : VOp) (p : BitVec 3) (s : State) : Host.Outcome State Fault Refusal :=
  vfp3 w d a b p (fun k rm x y z => k.fma rm x y z) s

/-- `vfms` (R120: a × y − d). -/
def execVfms (w : BitVec 3) (d a : Reg) (b : VOp) (p : BitVec 3) (s : State) : Host.Outcome State Fault Refusal :=
  vfp3 w d a b p (fun k rm x y z => k.fma rm x y z.neg) s

/-- `vfnma` (R120: −(a × y) + d). -/
def execVfnma (w : BitVec 3) (d a : Reg) (b : VOp) (p : BitVec 3) (s : State) : Host.Outcome State Fault Refusal :=
  vfp3 w d a b p (fun k rm x y z => k.fma rm x.neg y z) s

/-- `vfdiv` (R120, R39). -/
def execVfdiv (w : BitVec 3) (d a : Reg) (b : VOp) (p : BitVec 3) (s : State) : Host.Outcome State Fault Refusal :=
  vfp w d a b p 12 (fun k rm x y => k.div rm (k.read x) (k.read y)) s

/-- `vfsqrt` (R120, R39). -/
def execVfsqrt (w : BitVec 3) (d : Reg) (b : VOp) (p : BitVec 3) (s : State) : Host.Outcome State Fault Refusal :=
  vfp1 w d b p 12 (fun k rm y => k.sqrt rm (k.read y)) s

/-- `vfmin` (R121). -/
def execVfmin (w : BitVec 3) (d a : Reg) (b : VOp) (p : BitVec 3) (s : State) : Host.Outcome State Fault Refusal :=
  vfp w d a b p 4 (fun k _ x y => k.pick Fp.minOf x y) s

/-- `vfmax` (R121). -/
def execVfmax (w : BitVec 3) (d a : Reg) (b : VOp) (p : BitVec 3) (s : State) : Host.Outcome State Fault Refusal :=
  vfp w d a b p 4 (fun k _ x y => k.pick Fp.maxOf x y) s

/-- `vfceq` (R121). -/
def execVfceq (w : BitVec 3) (d : MReg) (a : Reg) (b : VOp) (p : BitVec 3) (s : State) :
    Host.Outcome State Fault Refusal :=
  vfcmp w d a b p (fun x y => (!x.isNan && !y.isNan && Fp.eq x y, nvSig x y)) s

/-- `vfclt` (R121: a NaN operand gives 0 and sets `NV`). -/
def execVfclt (w : BitVec 3) (d : MReg) (a : Reg) (b : VOp) (p : BitVec 3) (s : State) :
    Host.Outcome State Fault Refusal :=
  vfcmp w d a b p (fun x y => if x.isNan || y.isNan then (false, flNV) else (Fp.lt x y, 0)) s

/-- `vfcle` (R121: a NaN operand gives 0 and sets `NV`). -/
def execVfcle (w : BitVec 3) (d : MReg) (a : Reg) (b : VOp) (p : BitVec 3) (s : State) :
    Host.Outcome State Fault Refusal :=
  vfcmp w d a b p (fun x y => if x.isNan || y.isNan then (false, flNV) else (!(Fp.lt y x), 0)) s

/-- `vfcun` (R121). -/
def execVfcun (w : BitVec 3) (d : MReg) (a : Reg) (b : VOp) (p : BitVec 3) (s : State) :
    Host.Outcome State Fault Refusal :=
  vfcmp w d a b p (fun x y => (x.isNan || y.isNan, nvSig x y)) s

/-- `vfabs` (R120). -/
def execVfabs (w : BitVec 3) (d : Reg) (b : VOp) (p : BitVec 3) (s : State) : Host.Outcome State Fault Refusal :=
  vfp1 w d b p 4 (fun k _ y => k.resign false y y) s

/-- `vfneg` (R120). -/
def execVfneg (w : BitVec 3) (d : Reg) (b : VOp) (p : BitVec 3) (s : State) : Host.Outcome State Fault Refusal :=
  vfp1 w d b p 4 (fun k _ y => k.resign (!(k.read y).sign) y y) s

/-- `vfsgn` (R120). -/
def execVfsgn (w : BitVec 3) (d a : Reg) (b : VOp) (p : BitVec 3) (s : State) : Host.Outcome State Fault Refusal :=
  vfp w d a b p 4 (fun k _ x y => k.resign (k.read y).sign x y) s

/-- `vfrecp` (R122). -/
def execVfrecp (w : BitVec 3) (d : Reg) (b : VOp) (p : BitVec 3) (s : State) : Host.Outcome State Fault Refusal :=
  vfp1 w d b p 4 (fun k rm y => k.recp rm (k.read y)) s

/-- `vfrsqe` (R122). -/
def execVfrsqe (w : BitVec 3) (d : Reg) (b : VOp) (p : BitVec 3) (s : State) : Host.Outcome State Fault Refusal :=
  vfp1 w d b p 4 (fun k rm y => k.rsqe rm (k.read y)) s

/-- `vfclass` (R123). -/
def execVfclass (w : BitVec 3) (d : Reg) (b : VOp) (p : BitVec 3) (s : State) : Host.Outcome State Fault Refusal :=
  vfp1 w d b p 4 (fun k _ y => (k.classOf y, 0)) s

/-- `vfscal` (R120: a × 2^n; the scalar form reads all 64 bits of n). -/
def execVfscal (w : BitVec 3) (d a : Reg) (b : VOp) (p : BitVec 3) (s : State) : Host.Outcome State Fault Refusal :=
  vecForm (vfpInfo w p (.v d) [.v a] b 4 s) b
    (fun h i act y o =>
      if act then
        let n := match b with
          | .sca r => (h.getA r).toInt
          | _ => sInt h.width y
        let r := h.fp.scale h.rm (h.fp.read (h.elem a h.width i)) n
        (o.elem h h.width i r.1).flags r.2
      else o) (emitV d 4) s

end Sys2Proof.Machine
end

