-- ==== Sys2Proof/Machine/Vmem.lean ====
section
/-! DEFINITION. Major VMEM: vector loads and stores, and the Q4X block forms (R28, R42-R44, R138-R146). -/

namespace Sys2Proof.Machine

/-- Issue of a VMEM form (R67, R138). -/
def vmemInfo (w : BitVec 3) (p : Option (BitVec 3)) (d : Option Dst) (srcs : List Dst) (ill : Bool) (s : State) :
    Info :=
  { wt := w, on := .vector, priv := false, lending := if p.isSome then .bits else .no, pred := p, flow := false,
    vec := true, dest := d, srcs := whenAny s.me srcs, lat := 0, ill := ill, illCsr := false, ecc := .loop }

/-- `vtype.fmt` is I4. -/
def Hart.isI4 (h : Hart) : Bool := h.fmt == 11

/-- The element size in bytes of an access: a nibble lies in one byte (R138). -/
def Hart.esize (h : Hart) : Nat := max 1 (h.width / 8)

/-- Element addresses of `vld` and `vst` (R138). -/
def unitAddr (a b : Reg) (h : Hart) (i : Nat) : Word :=
  offsetAt (h.getA a + h.getA b) (if h.isI4 then i / 2 else i * h.esize)

/-- Element addresses of `vlds` and `vsts` (R138). They are translated in element order, as the loops of R140 and R141 say,
also where a negative stride makes that the descending order of pages (R143; DEDUCED, log entry 43). -/
def strideAddr (a b : Reg) (h : Hart) (i : Nat) : Word := offsetAt (h.getA a) (i * (h.getA b).toInt)

/-- Element addresses of `vldx` and `vstx`, and of the scatters (R138, R156). -/
def indexAddr (a b : Reg) (h : Hart) (i : Nat) : Word :=
  offsetAt (h.getA a) (sInt h.width (h.elem b h.width i) * h.esize)

/-- What the loop of a vector load comes to (R140): the end, a trim at an element, a trap, or a stall; with what has been
loaded and, of elements that wait in their class queue, the bits they are to write (log entry 7). -/
inductive LoadEnd where
  | fin (o late : Out) (s : State)
  | trim (k : Nat) (o late : Out) (s : State)
  | trap (c : Cause) (va : Word) (o late : Out) (s : State)
  | stall (s : State)

/-- One element of a vector load (R139), for its place in d. -/
def State.loadElem (s : State) (cls : BitVec 4) (u : Use) (h : Hart) (va : Word) (p : Place) : Acc (Option Nat) :=
  if va.toNat % h.esize != 0 then .trap .misalign s else s.loadFor cls u va h.esize (.place p)

/-- The loop of a vector load over elements, `first` while no element has been accessed yet (R140). -/
def loadLoop (cls : BitVec 4) (u : Use) (h : Hart) (act : BitVec 4096) (addr : Nat → Word) (d : Reg) :
    Bool → List Nat → Out → Out → State → LoadEnd
  | _, [], o, late, s => .fin o late s
  | first, i :: is, o, late, s =>
    if h.live.toNat ≤ i then loadLoop cls u h act addr d first is (o.elem h h.width i 0) late s
    else if !act.getLsbD i then loadLoop cls u h act addr d first is o late s
    else
      match s.loadElem cls u h (addr i) (h.placeOf d i) with
      | .ok (some x) s =>
        let x := if h.isI4 then x >>> (4 * (i % 2)) else x
        loadLoop cls u h act addr d false is (o.elem h h.width i x) late s
      | .ok none s => loadLoop cls u h act addr d false is o (late.elem h h.width i 0) s
      | .trap c s => if first || c == .eccFatal then .trap c (addr i) o late s else .trim i o late s
      | .stall s => .stall s

/-- The hart with `vl` and the live length trimmed to k (R140, R145). -/
def Hart.trim (h : Hart) (k : Nat) : Hart :=
  { h with vl := BitVec.ofNat 13 k, live := BitVec.ofNat 13 (min h.live.toNat k) }

/-- Of the elements of width w that a load holds, those that ECC-FATAL at a later element leaves written: any of them may
be (R28), so a free choice for each (log entries 9 and 25). -/
def Lanes.chosen (l : Lanes) (h : Hart) (w n : Nat) : Lanes :=
  (List.range (h.vlmax w)).foldl (fun r i =>
    if Config.lands n i && l.mask.getLsbD (h.bitPos w i) then r.put (h.bitPos w i) w i (l.val.toNat >>> h.bitPos w i)
    else r) Lanes.empty

/-- What an aborted load leaves of its registers: elements of the format in d, headers in d + 1 (R28, R145). -/
def Out.chosen (o : Out) (h : Hart) (n : Nat) : Out :=
  { o with d := o.d.chosen h h.width n, e := o.e.chosen h 16 n, fl := 0 }

/-- An instruction writes bits of d and d + 1 whole: errors there are gone (R367, log entry 25). -/
def State.healOut (s : State) (d : Reg) (o late : Out) : State :=
  let l := healBits s.cur (.v (d + 1)) (o.e.mask ||| late.e.mask) s.badSram
  { s with badSram := healBits s.cur (.v d) (o.d.mask ||| late.d.mask) l }

/-- The high-water marks of d and d + 1 for what is still to be written (R24). -/
def Hart.expect (h : Hart) (d : Reg) (late : Out) : Hart :=
  if late.d.mask = 0 then h
  else
    let k := h.mark d late.d.top
    if late.e.mask = 0 then k else k.mark (d + 1) late.e.top

/-- A vector load that meets an uncorrectable error ends with d as R28 lets it be: what it has issued into its class queue
performs, and of what it has read each element is written or not. -/
def State.abortLoad (s : State) (cls : BitVec 4) (d : Reg) (o late : Out) (emit : Out → Hart → Hart) : State :=
  let s := (s.setMe (s.me.expect d late)).settleLoads cls
  s.drawn.setMe (emit (o.chosen s.me s.free) s.me)

/-- The end of a vector load (R140); `cut` is the element at which it meets an uncorrectable error of a register it reads
(R367). -/
def LoadEnd.res (e : LoadEnd) (s0 : State) (cls : BitVec 4) (d : Reg) (cut : Option Nat) (emit : Out → Hart → Hart) : Res :=
  match e with
  | .fin o late s =>
    match cut with
    | none => .done ((s.healOut d o late).setMe (((emit o s.me).expect d late).flag o.fl).progress0)
    | some _ => .trap (s.abortLoad cls d o late emit) .eccFatal 0 false
  | .trim k o late s =>
    .done ((s.healOut d o late).setMe ((((emit o s.me).expect d late).flag o.fl).trim k).progress0)
  | .trap c va o late s => .trap (if c == .eccFatal then s.abortLoad cls d o late emit else s) c va false
  | .stall s => .stall (s0.rollback s)

/-- A vector load (R138-R140). -/
def vload (w : BitVec 3) (d : Reg) (srcs : List Dst) (c : BitVec 4) (p : BitVec 3) (u : Use) (i4 : Bool)
    (addr : Hart → Nat → Word) (s : State) : Host.Outcome State Fault Refusal :=
  let i := vmemInfo w (some p) (some (.v d)) srcs (s.me.isQ4x || (!i4 && s.me.isI4)) s
  run i s fun s =>
    let h := s.me
    let act := activeMask i h
    let cut := s.eccCut i.srcs act (min h.live.toNat h.vl.toNat)
    (loadLoop c u h act (addr h) d true (List.range (cut.getD h.vl.toNat)) Out.empty Out.empty s).res s c d cut (emitV d 0)

/-- `vld` (R138, R140). -/
def execVld (w : BitVec 3) (d a b : Reg) (c : BitVec 4) (p : BitVec 3) (s : State) :
    Host.Outcome State Fault Refusal :=
  vload w d [.a a, .a b] c p .unit true (unitAddr a b) s

/-- `vlds` (R138, R140). -/
def execVlds (w : BitVec 3) (d a b : Reg) (c : BitVec 4) (p : BitVec 3) (s : State) :
    Host.Outcome State Fault Refusal :=
  vload w d [.a a, .a b] c p .other false (strideAddr a b) s

/-- `vldx` (R138, R140, R142). -/
def execVldx (w : BitVec 3) (d a b : Reg) (c : BitVec 4) (p : BitVec 3) (s : State) :
    Host.Outcome State Fault Refusal :=
  vload w d [.a a, .v b] c p .elem false (indexAddr a b) s

/-! ### Stores -/

/-- The cells of an element of `n` bytes at a key; of an I4 element only its nibble (R141). -/
def elemCells (h : Hart) (key i x : Nat) : List (Nat × Byte × Byte) :=
  if h.isI4 then [(key, BitVec.ofNat 8 (x * 16 ^ (i % 2)), BitVec.ofNat 8 (15 * 16 ^ (i % 2)))]
  else cellsOf key h.esize x

/-- What the loop of a vector store comes to: all cells, or those below an element that faults. -/
inductive StoreEnd where
  | fin (cells : List (Nat × Byte × Byte)) (s : State)
  | stop (k : Nat) (c : Cause) (va : Word) (cells : List (Nat × Byte × Byte)) (s : State)
  | stall (k : Nat) (s : State)

/-- One element of a vector store translates, and the posted parts of its class to its word perform (R139, R186). -/
def State.storeElem (s : State) (cls : BitVec 4) (u : Use) (n : Nat) (va : Word) : Acc Nat :=
  if va.toNat % n != 0 then .trap .misalign s
  else
    (s.xlate (s.who s.cur) .store u va).bind fun key s =>
      .ok key (s.drainPosted s.cur (fun p => p.cls == cls && p.key / 8 == key / 8))

/-- The loop of a vector store in ascending order (R141, R142). -/
def storeLoop (cls : BitVec 4) (u : Use) (h : Hart) (act : BitVec 4096) (addr : Nat → Word) (data : Nat → Nat) :
    List Nat → List (Nat × Byte × Byte) → State → StoreEnd
  | [], cells, s => .fin cells s
  | i :: is, cells, s =>
    if decide (i < h.live.toNat) && act.getLsbD i && h.todo i then
      match s.storeElem cls u h.esize (addr i) with
      | .ok key s => storeLoop cls u h act addr data is (cells ++ elemCells h key i (data i)) s
      | .trap c s => .stop i c (addr i) cells s
      | .stall s => .stall i s
    else storeLoop cls u h act addr data is cells s

/-- The end of a vector store: what has been stored stays, and a fault or the end of the grace window leaves the element
progress (R141, R334). -/
def StoreEnd.res (e : StoreEnd) (s0 : State) (cut : Option Cut) (n : Nat) (cls : BitVec 4) (fl : BitVec 8) : Res :=
  match e with
  | .fin cells s =>
    let s := s.issueStore s.cur cls cells
    (s.setMe (s.me.flag fl)).endOrStop cut n
  | .stop k c va cells s =>
    let s := s.issueStore s.cur cls cells
    .trap (s.setMe ((s.me.flag fl).progressAt k)) c va true
  | .stall k s => .stall (s0.stuck s k)

/-- A vector store (R138, R139, R141). -/
def vstore (w : BitVec 3) (d : Reg) (srcs : List Dst) (c : BitVec 4) (p : BitVec 3) (u : Use) (i4 : Bool)
    (addr : Hart → Nat → Word) (s : State) : Host.Outcome State Fault Refusal :=
  let i := vmemInfo w (some p) none (.v d :: srcs) (s.me.isQ4x || (!i4 && s.me.isI4)) s
  run i s fun s =>
    let h := s.me
    let n := h.vl.toNat
    let q := s.elemCut i.srcs (activeMask i h) (min h.live.toNat n)
    (storeLoop c u h (activeMask i h) (addr h) (h.elem d h.width) (upTo q.1 n) [] q.2).res s q.1 n c 0

/-- `vst` (R138, R141). -/
def execVst (w : BitVec 3) (d a b : Reg) (c : BitVec 4) (p : BitVec 3) (s : State) :
    Host.Outcome State Fault Refusal :=
  vstore w d [.a a, .a b] c p .unit true (unitAddr a b) s

/-- `vsts` (R138, R141). -/
def execVsts (w : BitVec 3) (d a b : Reg) (c : BitVec 4) (p : BitVec 3) (s : State) :
    Host.Outcome State Fault Refusal :=
  vstore w d [.a a, .a b] c p .other false (strideAddr a b) s

/-- `vstx` (R138, R141, R142). -/
def execVstx (w : BitVec 3) (d a b : Reg) (c : BitVec 4) (p : BitVec 3) (s : State) :
    Host.Outcome State Fault Refusal :=
  vstore w d [.a a, .v b] c p .elem false (indexAddr a b) s

/-! ### Q4X blocks -/

/-- What makes a block form ILLEGAL (R144). -/
def blockBad (d : Reg) (h : Hart) : Bool :=
  h.blen == 0 || !(isFloat h.fmt || h.isQ4x) || (h.isQ4x && d == 31)

/-- The address of block j (R138). -/
def blockAddr (a b : Reg) (h : Hart) (j : Nat) : Word :=
  addrAt (h.getA a + h.getA b) j (2 + h.blockSize / 2)

/-- Load `n` bytes at any alignment, byte by byte (R181). -/
def State.loadBytes (s : State) (cls : BitVec 4) (va : Word) : Nat → Acc (List Nat)
  | 0 => .ok [] s
  | n + 1 =>
    (s.loadAt cls .unit va 1).bind fun x s =>
      (State.loadBytes s cls (va + 1) n).bind fun xs s => .ok (x :: xs) s

/-- The keys of `n` bytes that an instruction loads (R36). -/
def State.loadKeys (s : State) (va : Word) : Nat → Acc (List Nat)
  | 0 => .ok [] s
  | n + 1 =>
    (s.xlate (s.who s.cur) .load .unit va).bind fun key s =>
      (State.loadKeys s (va + 1) n).bind fun keys s => .ok (key :: keys) s

/-- The words of a block wait in their class queue, and the block for all of them (R184, log entry 7); none where one of
them carries an error. -/
def State.lateBlock (s : State) (cls : BitVec 4) (h : Hart) (va : Word) (d : Reg) (j : Nat) : Acc Bool :=
  (s.loadKeys va (2 + h.blockSize / 2)).bind fun keys t =>
    if keys.any t.badAt then .ok false s
    else
      let g := t.openGather keys.length (.block d j h.live h.copyReg)
      .ok true (g.2.issueLate cls (wordRuns g.1 va 0 keys))

/-- One block of `vldq` (R144). -/
def State.loadBlock (s : State) (cls : BitVec 4) (h : Hart) (va : Word) (d : Reg) (j : Nat) : Acc (Option Block) :=
  let now := fun s : State => (s.loadBytes cls va (2 + h.blockSize / 2)).bind fun bs s => .ok (some (Block.ofBytes bs)) s
  if va.toNat % 2 != 0 then .trap .misalign s
  else if s.queued then (s.lateBlock cls h va d j).bind fun late s => if late then .ok none s else now s
  else now s

/-- A block of zeros. -/
def Block.zero : Block := { header := 0, codes := [] }

/-- The loop of `vldq` over blocks that hold a live element (R145). -/
def blockLoop (cls : BitVec 4) (h : Hart) (addr : Nat → Word) (d : Reg) : List Nat → Out → Out → State → LoadEnd
  | [], o, late, s => .fin o late s
  | j :: js, o, late, s =>
    match s.loadBlock cls h (addr j) d j with
    | .ok (some b) s => blockLoop cls h addr d js (putBlock h j b o) late s
    | .ok none s => blockLoop cls h addr d js o { putBlock h j Block.zero late with fl := 0 } s
    | .trap c s => if j == 0 || c == .eccFatal then .trap c (addr j) o late s else .trim (j * h.blockSize) o late s
    | .stall s => .stall s

/-- The pad elements of `vldq` read as zero, where they lie below `vl` (R145). -/
def LoadEnd.padded (e : LoadEnd) (h : Hart) : LoadEnd :=
  match e with
  | .fin o late s =>
    .fin (((List.range h.vl.toNat).filter (fun i => decide (h.live.toNat ≤ i))).foldl
      (fun o i => o.elem h h.width i 0) o) late s
  | e => e

/-- Blocks that hold a live element. -/
def Hart.liveBlocks (h : Hart) : Nat := (min h.live.toNat h.vl.toNat + h.blockSize - 1) / h.blockSize

/-- `vldq` (R144, R145). -/
def execVldq (w : BitVec 3) (d a b : Reg) (c : BitVec 4) (s : State) : Host.Outcome State Fault Refusal :=
  run (vmemInfo w none (some (.v d)) [.a a, .a b] (blockBad d s.me) s) s fun s =>
    let h := s.me
    ((blockLoop c h (blockAddr a b h) d (List.range h.liveBlocks) Out.empty Out.empty s).padded h).res s c d none
      (fun o k => (k.putLanes d o.d 0).putLanes (d + 1) o.e 0)

/-- The block of elements of d that `vstq` writes, and its flags (R146). -/
def blockOf (d : Reg) (h : Hart) (j : Nat) : Block × BitVec 8 :=
  let B := h.blockSize
  if h.isQ4x then
    ({ header := BitVec.ofNat 16 (h.elem (d + 1) 16 j), codes := (List.range B).map (fun k => h.elem d 4 (j * B + k)) }, 0)
  else
    encodeBlock h.rm ((List.range B).map (fun k =>
      if j * B + k < h.live.toNat then h.fp.read (h.elem d h.width (j * B + k)) else .fin false 0 0))

/-- Translate the bytes of a block for a store. -/
def State.storeBytes (s : State) (cls : BitVec 4) (va : Word) : List Nat → Acc (List (Nat × Byte × Byte))
  | [] => .ok [] s
  | b :: bs =>
    (s.storeElem cls .unit 1 va).bind fun key s =>
      (State.storeBytes s cls (va + 1) bs).bind fun cs s => .ok ((key, BitVec.ofNat 8 b, 0xFF#8) :: cs) s

/-- The loop of `vstq` over blocks in ascending order (R141, R146), with the flags of the blocks stored. -/
def blockStore (cls : BitVec 4) (h : Hart) (addr : Nat → Word) (data : Nat → Block × BitVec 8) :
    List Nat → List (Nat × Byte × Byte) → BitVec 8 → State → StoreEnd × BitVec 8
  | [], cells, fl, s => (.fin cells s, fl)
  | j :: js, cells, fl, s =>
    if (addr j).toNat % 2 != 0 then (.stop (j * h.blockSize) .misalign (addr j) cells s, fl)
    else
      match s.storeBytes cls (addr j) (data j).1.toBytes with
      | .ok cs s => blockStore cls h addr data js (cells ++ cs) (fl ||| (data j).2) s
      | .trap c s => (.stop (j * h.blockSize) c (addr j) cells s, fl)
      | .stall s => (.stall (j * h.blockSize) s, fl)

/-- A block of `vstq` is still to be performed: one of its live elements is (R26, R141). -/
def Hart.blockTodo (h : Hart) (j : Nat) : Bool :=
  (List.range h.blockSize).any (fun k => decide (j * h.blockSize + k < min h.live.toNat h.vl.toNat) && h.todo (j * h.blockSize + k))

/-- A cut of a loop over blocks of B elements falls at the block of its element. -/
def Cut.block (B : Nat) : Cut → Cut
  | .window k => .window (k / B)
  | .ecc k => .ecc (k / B)

/-- The element at which the block of a cut begins. -/
def Cut.start (B : Nat) : Cut → Cut
  | .window j => .window (j * B)
  | .ecc j => .ecc (j * B)

/-- `vstq` (R144, R146): it goes on from the blocks that element progress has not passed (R26, R141). -/
def execVstq (w : BitVec 3) (d a b : Reg) (c : BitVec 4) (s : State) : Host.Outcome State Fault Refusal :=
  let srcs := if s.me.isQ4x then [Dst.v d, .v (d + 1), .a a, .a b] else [.v d, .a a, .a b]
  run (vmemInfo w none none srcs (blockBad d s.me) s) s fun s =>
    let h := s.me
    let q := s.elemCut srcs (BitVec.allOnes 4096) h.vl.toNat
    let cut := q.1.map (Cut.block h.blockSize)
    let todo := (upTo cut h.liveBlocks).filter h.blockTodo
    let r := blockStore c h (blockAddr a b h) (blockOf d h) todo [] 0 q.2
    r.1.res s (cut.map (Cut.start h.blockSize)) h.vl.toNat c r.2

end Sys2Proof.Machine
end

