-- ==== Sys2Proof/Machine/Atomic.lean ====
section
/-! DEFINITION. Scoped atomics on one word and atomic scatters (R17, R65, R72, R154-R157). -/

namespace Sys2Proof.Machine

/-- A one-word atomic at a scope (R155). -/
def amoOne (w : BitVec 3) (d a b : Reg) (c : BitVec 4) (op : AmoOp) (scope : Nat) (s : State) :
    Host.Outcome State Fault Refusal :=
  let srcs := if op == .cas then [Dst.a a, .a b, .a d] else [.a a, .a b]
  run (scalarInfo w (some (.a d)) srcs 0) s fun s =>
    let va := s.me.getA a
    if va.toNat % 8 != 0 then .trap s .misalign va false
    else
      match s.amoAt c scope .other op 8 4 va (s.me.getA b).toNat (s.me.getA d).toNat
          (s.loggedMiss.map (fun m => m.getLsbD 0)) true (some (s.me.placeA d)) with
      | .fault x t => .trap t x va false
      | .stall t => .stall (s.rollback t)
      | .leave t => .leave t
      | .missed t => t.putMiss s 1 fun t => .done t
      | .late t => t.putMiss s 0 fun t => .done t
      | .did old fl t => t.putMiss s 0 fun t => .done (t.setMe ((t.me.flag fl).setA d (BitVec.ofNat 64 old) 0))

/-- The formats an atomic scatter accepts (R156). -/
def scatterFmt (op : AmoOp) (f : BitVec 4) : Bool := if op == .fadd then f == 4 || f == 5 else f == 2 || f == 3

/-- How the loop of an atomic scatter ends: the `smiss` bits it wrote. -/
inductive ScatterEnd where
  | fin (m : BitVec 4096) (fl : BitVec 8) (s : State)
  | stop (k : Nat) (c : Cause) (va : Word) (m : BitVec 4096) (fl : BitVec 8) (s : State)
  | stall (k : Nat) (s : State)
  | leave (s : State)

/-- Element i of a scatter would trap: at a misaligned address, one that does not translate, or an error (R139, R156). -/
def State.elemTraps (s : State) (n : Nat) (va : Word) : Bool :=
  va.toNat % n != 0 || (match s.xlate (s.who s.cur) .atomic .elem va with
    | .ok key t => t.badAt key
    | .trap _ _ => true
    | .stall _ => false)

/-- What a log says of the misses of a scatter that goes through (R381). The entry that comes next in the log of one that
traps part-way is another's, of an atomic of the handler: it misses as the homes of its words say (log entry 29). -/
def State.saidMisses (s : State) (h : Hart) (act : BitVec 4096) (addr : Nat → Word) (is : List Nat) : Option (BitVec 4096) :=
  if is.any (fun i => decide (i < h.live.toNat) && act.getLsbD i && s.elemTraps h.esize (addr i)) then none else s.loggedMiss

/-- The loop of an atomic scatter in ascending order (R156): `m` has the bits written so far, and `said` is what a log says of
the misses. -/
def scatterLoop (cls : BitVec 4) (op : AmoOp) (scope : Nat) (h : Hart) (act : BitVec 4096) (addr : Nat → Word)
    (data : Nat → Nat) (said : Option (BitVec 4096)) : List Nat → BitVec 4096 → BitVec 8 → State → ScatterEnd
  | [], m, fl, s => .fin m fl s
  | i :: is, m, fl, s =>
    if !(decide (i < h.live.toNat) && act.getLsbD i) then scatterLoop cls op scope h act addr data said is m fl s
    else
      let va := addr i
      if va.toNat % h.esize != 0 then .stop i .misalign va m fl s
      else
        match s.amoAt cls scope .elem op h.esize h.fmt va (data i) 0 (said.map (fun m => m.getLsbD i)) (op == .fadd)
            none with
        | .fault c s => .stop i c va m fl s
        | .stall s => .stall i s
        | .leave s => .leave s
        | .missed s => scatterLoop cls op scope h act addr data said is (m ||| (1#4096 <<< i)) fl s
        | .late s => scatterLoop cls op scope h act addr data said is m fl s
        | .did _ f s => scatterLoop cls op scope h act addr data said is m (fl ||| f) s

/-- A scatter over the elements `is` (R156). -/
def State.scatter (s : State) (cls : BitVec 4) (op : AmoOp) (scope : Nat) (h : Hart) (act : BitVec 4096) (addr : Nat → Word)
    (data : Nat → Nat) (is : List Nat) : ScatterEnd :=
  scatterLoop cls op scope h act addr data (s.saidMisses h act addr is) is 0 0 s

/-- Bits 0 to n − 1 of a mask. -/
def below (n : Nat) (m : BitVec 4096) : BitVec 4096 := m &&& (lowMask n).setWidth 4096

/-- The elements below `vl` that element progress has passed (R26). -/
def Hart.passed (h : Hart) : BitVec 4096 :=
  (List.range h.vl.toNat).foldl (fun m i => if h.todo i then m else m ||| (1#4096 <<< i)) 0

/-- `smiss` of a scatter that ends at element k, with the misses `m` of this run: the bits of elements performed before, and
those from k on, are as before (R17, R156). -/
def Hart.missKept (h : Hart) (k : Nat) (m : BitVec 4096) : BitVec 4096 :=
  (h.smiss &&& h.passed) ||| m ||| (h.smiss &&& ~~~(below k (BitVec.allOnes 4096)))

/-- The end of an atomic scatter (R17, R156): it completes with every bit of `smiss` written; a trap, or the end of the
grace window (R334), at element k writes those below k. -/
def ScatterEnd.res (e : ScatterEnd) (s0 : State) (cut : Option Cut) (h : Hart) : Res :=
  match e with
  | .fin m fl s =>
    let all := s.putMiss s0 ((h.smiss &&& h.passed) ||| m) fun s => .done (s.setMe (s.me.flag fl).progress0)
    match cut with
    | some k =>
      if k.elem < h.vl.toNat then
        (s.setMe { s.me.flag fl with smiss := h.missKept (max k.elem h.estart.toNat) m }).endOrStop cut h.vl.toNat
      else all
    | none => all
  | .stop k c va m fl s => .trap (s.setMe { (s.me.flag fl).progressAt k with smiss := h.missKept k m }) c va true
  | .stall k s => .stall (s0.stuck s k)
  | .leave s => .leave s

/-- The element numbers a scatter still has to take: those that element progress has not passed (R26, R156). -/
def stillToDo (cut : Option Cut) (h : Hart) : List Nat := (upTo cut h.vl.toNat).filter h.todo

/-- Issue of an atomic scatter: only a prefix predicates it. -/
def scatterInfo (w : BitVec 3) (srcs : List Dst) (ill : Bool) (s : State) : Info :=
  { vmemInfo w none none srcs ill s with lending := .bits }

/-- An atomic scatter (R156). -/
def vamo (w : BitVec 3) (d a b : Reg) (c : BitVec 4) (op : AmoOp) (scope : Nat) (s : State) :
    Host.Outcome State Fault Refusal :=
  let i := scatterInfo w [.v d, .a a, .v b] (!scatterFmt op s.me.fmt) s
  run i s fun s =>
    let h := s.me
    let q := s.elemCut i.srcs (activeMask i h) (min h.live.toNat h.vl.toNat)
    (q.2.scatter c op scope h (activeMask i h) (indexAddr a b h) (h.elem d h.width) (stillToDo q.1 h)).res s q.1 h

/-- The operations of `vamo.retry` by their codes (R65, R72). -/
def retryOp (n : Nat) : AmoOp :=
  match n with
  | 0 => .add | 1 => .fadd | 2 => .min | 3 => .max | 4 => .and | _ => .or

/-- The value of register a + 1 that `vamo.retry` refuses (R72). -/
def retryBad (x : Word) : Bool :=
  decide (5 < (x.extractLsb' 0 3).toNat) || decide (5 < (x.extractLsb' 4 3).toNat) || x.extractLsb' 7 57 != 0
    || x.getLsbD 3

/-- `vamo.retry` (R72, R157): it performs the active live elements whose `smiss` bit is 1. -/
def execVamoRetry (w : BitVec 3) (d a b : Reg) (c : BitVec 4) (s : State) : Host.Outcome State Fault Refusal :=
  let x := (s.me.settle s.me.now).getA (a + 1)
  let op := retryOp (x.extractLsb' 0 3).toNat
  let i := scatterInfo w [.v d, .a a, .a (a + 1), .v b] (a.getLsbD 0 || retryBad x || !scatterFmt op s.me.fmt) s
  run i s fun s =>
    let h := s.me
    if s.ctlBad [0x40] then .trap s .eccFatal 0 h.midway else
    let q := s.elemCut i.srcs (activeMask i h &&& h.smiss) (min h.live.toNat h.vl.toNat)
    (q.2.scatter c op (x.extractLsb' 4 3).toNat h (activeMask i h &&& h.smiss) (indexAddr a b h) (h.elem d h.width)
      (stillToDo q.1 h)).res s q.1 h

/-- `amo.add.cl` (R155). -/
def execAmoAddCl (w : BitVec 3) (d a b : Reg) (c : BitVec 4) (s : State) : Host.Outcome State Fault Refusal :=
  amoOne w d a b c .add 0 s

/-- `amo.add.sl` (R155). -/
def execAmoAddSl (w : BitVec 3) (d a b : Reg) (c : BitVec 4) (s : State) : Host.Outcome State Fault Refusal :=
  amoOne w d a b c .add 1 s

/-- `amo.add.st` (R155). -/
def execAmoAddSt (w : BitVec 3) (d a b : Reg) (c : BitVec 4) (s : State) : Host.Outcome State Fault Refusal :=
  amoOne w d a b c .add 2 s

/-- `amo.add.mo` (R155). -/
def execAmoAddMo (w : BitVec 3) (d a b : Reg) (c : BitVec 4) (s : State) : Host.Outcome State Fault Refusal :=
  amoOne w d a b c .add 3 s

/-- `amo.add.po` (R155). -/
def execAmoAddPo (w : BitVec 3) (d a b : Reg) (c : BitVec 4) (s : State) : Host.Outcome State Fault Refusal :=
  amoOne w d a b c .add 4 s

/-- `amo.add.sy` (R155). -/
def execAmoAddSy (w : BitVec 3) (d a b : Reg) (c : BitVec 4) (s : State) : Host.Outcome State Fault Refusal :=
  amoOne w d a b c .add 5 s

/-- `amo.fadd.cl` (R155). -/
def execAmoFaddCl (w : BitVec 3) (d a b : Reg) (c : BitVec 4) (s : State) : Host.Outcome State Fault Refusal :=
  amoOne w d a b c .fadd 0 s

/-- `amo.fadd.sl` (R155). -/
def execAmoFaddSl (w : BitVec 3) (d a b : Reg) (c : BitVec 4) (s : State) : Host.Outcome State Fault Refusal :=
  amoOne w d a b c .fadd 1 s

/-- `amo.fadd.st` (R155). -/
def execAmoFaddSt (w : BitVec 3) (d a b : Reg) (c : BitVec 4) (s : State) : Host.Outcome State Fault Refusal :=
  amoOne w d a b c .fadd 2 s

/-- `amo.fadd.mo` (R155). -/
def execAmoFaddMo (w : BitVec 3) (d a b : Reg) (c : BitVec 4) (s : State) : Host.Outcome State Fault Refusal :=
  amoOne w d a b c .fadd 3 s

/-- `amo.fadd.po` (R155). -/
def execAmoFaddPo (w : BitVec 3) (d a b : Reg) (c : BitVec 4) (s : State) : Host.Outcome State Fault Refusal :=
  amoOne w d a b c .fadd 4 s

/-- `amo.fadd.sy` (R155). -/
def execAmoFaddSy (w : BitVec 3) (d a b : Reg) (c : BitVec 4) (s : State) : Host.Outcome State Fault Refusal :=
  amoOne w d a b c .fadd 5 s

/-- `amo.min.cl` (R155). -/
def execAmoMinCl (w : BitVec 3) (d a b : Reg) (c : BitVec 4) (s : State) : Host.Outcome State Fault Refusal :=
  amoOne w d a b c .min 0 s

/-- `amo.min.sl` (R155). -/
def execAmoMinSl (w : BitVec 3) (d a b : Reg) (c : BitVec 4) (s : State) : Host.Outcome State Fault Refusal :=
  amoOne w d a b c .min 1 s

/-- `amo.min.st` (R155). -/
def execAmoMinSt (w : BitVec 3) (d a b : Reg) (c : BitVec 4) (s : State) : Host.Outcome State Fault Refusal :=
  amoOne w d a b c .min 2 s

/-- `amo.min.mo` (R155). -/
def execAmoMinMo (w : BitVec 3) (d a b : Reg) (c : BitVec 4) (s : State) : Host.Outcome State Fault Refusal :=
  amoOne w d a b c .min 3 s

/-- `amo.min.po` (R155). -/
def execAmoMinPo (w : BitVec 3) (d a b : Reg) (c : BitVec 4) (s : State) : Host.Outcome State Fault Refusal :=
  amoOne w d a b c .min 4 s

/-- `amo.min.sy` (R155). -/
def execAmoMinSy (w : BitVec 3) (d a b : Reg) (c : BitVec 4) (s : State) : Host.Outcome State Fault Refusal :=
  amoOne w d a b c .min 5 s

/-- `amo.max.cl` (R155). -/
def execAmoMaxCl (w : BitVec 3) (d a b : Reg) (c : BitVec 4) (s : State) : Host.Outcome State Fault Refusal :=
  amoOne w d a b c .max 0 s

/-- `amo.max.sl` (R155). -/
def execAmoMaxSl (w : BitVec 3) (d a b : Reg) (c : BitVec 4) (s : State) : Host.Outcome State Fault Refusal :=
  amoOne w d a b c .max 1 s

/-- `amo.max.st` (R155). -/
def execAmoMaxSt (w : BitVec 3) (d a b : Reg) (c : BitVec 4) (s : State) : Host.Outcome State Fault Refusal :=
  amoOne w d a b c .max 2 s

/-- `amo.max.mo` (R155). -/
def execAmoMaxMo (w : BitVec 3) (d a b : Reg) (c : BitVec 4) (s : State) : Host.Outcome State Fault Refusal :=
  amoOne w d a b c .max 3 s

/-- `amo.max.po` (R155). -/
def execAmoMaxPo (w : BitVec 3) (d a b : Reg) (c : BitVec 4) (s : State) : Host.Outcome State Fault Refusal :=
  amoOne w d a b c .max 4 s

/-- `amo.max.sy` (R155). -/
def execAmoMaxSy (w : BitVec 3) (d a b : Reg) (c : BitVec 4) (s : State) : Host.Outcome State Fault Refusal :=
  amoOne w d a b c .max 5 s

/-- `amo.and.cl` (R155). -/
def execAmoAndCl (w : BitVec 3) (d a b : Reg) (c : BitVec 4) (s : State) : Host.Outcome State Fault Refusal :=
  amoOne w d a b c .and 0 s

/-- `amo.and.sl` (R155). -/
def execAmoAndSl (w : BitVec 3) (d a b : Reg) (c : BitVec 4) (s : State) : Host.Outcome State Fault Refusal :=
  amoOne w d a b c .and 1 s

/-- `amo.and.st` (R155). -/
def execAmoAndSt (w : BitVec 3) (d a b : Reg) (c : BitVec 4) (s : State) : Host.Outcome State Fault Refusal :=
  amoOne w d a b c .and 2 s

/-- `amo.and.mo` (R155). -/
def execAmoAndMo (w : BitVec 3) (d a b : Reg) (c : BitVec 4) (s : State) : Host.Outcome State Fault Refusal :=
  amoOne w d a b c .and 3 s

/-- `amo.and.po` (R155). -/
def execAmoAndPo (w : BitVec 3) (d a b : Reg) (c : BitVec 4) (s : State) : Host.Outcome State Fault Refusal :=
  amoOne w d a b c .and 4 s

/-- `amo.and.sy` (R155). -/
def execAmoAndSy (w : BitVec 3) (d a b : Reg) (c : BitVec 4) (s : State) : Host.Outcome State Fault Refusal :=
  amoOne w d a b c .and 5 s

/-- `amo.or.cl` (R155). -/
def execAmoOrCl (w : BitVec 3) (d a b : Reg) (c : BitVec 4) (s : State) : Host.Outcome State Fault Refusal :=
  amoOne w d a b c .or 0 s

/-- `amo.or.sl` (R155). -/
def execAmoOrSl (w : BitVec 3) (d a b : Reg) (c : BitVec 4) (s : State) : Host.Outcome State Fault Refusal :=
  amoOne w d a b c .or 1 s

/-- `amo.or.st` (R155). -/
def execAmoOrSt (w : BitVec 3) (d a b : Reg) (c : BitVec 4) (s : State) : Host.Outcome State Fault Refusal :=
  amoOne w d a b c .or 2 s

/-- `amo.or.mo` (R155). -/
def execAmoOrMo (w : BitVec 3) (d a b : Reg) (c : BitVec 4) (s : State) : Host.Outcome State Fault Refusal :=
  amoOne w d a b c .or 3 s

/-- `amo.or.po` (R155). -/
def execAmoOrPo (w : BitVec 3) (d a b : Reg) (c : BitVec 4) (s : State) : Host.Outcome State Fault Refusal :=
  amoOne w d a b c .or 4 s

/-- `amo.or.sy` (R155). -/
def execAmoOrSy (w : BitVec 3) (d a b : Reg) (c : BitVec 4) (s : State) : Host.Outcome State Fault Refusal :=
  amoOne w d a b c .or 5 s

/-- `amo.swap.cl` (R155). -/
def execAmoSwapCl (w : BitVec 3) (d a b : Reg) (c : BitVec 4) (s : State) : Host.Outcome State Fault Refusal :=
  amoOne w d a b c .swap 0 s

/-- `amo.swap.sl` (R155). -/
def execAmoSwapSl (w : BitVec 3) (d a b : Reg) (c : BitVec 4) (s : State) : Host.Outcome State Fault Refusal :=
  amoOne w d a b c .swap 1 s

/-- `amo.swap.st` (R155). -/
def execAmoSwapSt (w : BitVec 3) (d a b : Reg) (c : BitVec 4) (s : State) : Host.Outcome State Fault Refusal :=
  amoOne w d a b c .swap 2 s

/-- `amo.swap.mo` (R155). -/
def execAmoSwapMo (w : BitVec 3) (d a b : Reg) (c : BitVec 4) (s : State) : Host.Outcome State Fault Refusal :=
  amoOne w d a b c .swap 3 s

/-- `amo.swap.po` (R155). -/
def execAmoSwapPo (w : BitVec 3) (d a b : Reg) (c : BitVec 4) (s : State) : Host.Outcome State Fault Refusal :=
  amoOne w d a b c .swap 4 s

/-- `amo.swap.sy` (R155). -/
def execAmoSwapSy (w : BitVec 3) (d a b : Reg) (c : BitVec 4) (s : State) : Host.Outcome State Fault Refusal :=
  amoOne w d a b c .swap 5 s

/-- `amo.cas.cl` (R155). -/
def execAmoCasCl (w : BitVec 3) (d a b : Reg) (c : BitVec 4) (s : State) : Host.Outcome State Fault Refusal :=
  amoOne w d a b c .cas 0 s

/-- `amo.cas.sl` (R155). -/
def execAmoCasSl (w : BitVec 3) (d a b : Reg) (c : BitVec 4) (s : State) : Host.Outcome State Fault Refusal :=
  amoOne w d a b c .cas 1 s

/-- `amo.cas.st` (R155). -/
def execAmoCasSt (w : BitVec 3) (d a b : Reg) (c : BitVec 4) (s : State) : Host.Outcome State Fault Refusal :=
  amoOne w d a b c .cas 2 s

/-- `amo.cas.mo` (R155). -/
def execAmoCasMo (w : BitVec 3) (d a b : Reg) (c : BitVec 4) (s : State) : Host.Outcome State Fault Refusal :=
  amoOne w d a b c .cas 3 s

/-- `amo.cas.po` (R155). -/
def execAmoCasPo (w : BitVec 3) (d a b : Reg) (c : BitVec 4) (s : State) : Host.Outcome State Fault Refusal :=
  amoOne w d a b c .cas 4 s

/-- `amo.cas.sy` (R155). -/
def execAmoCasSy (w : BitVec 3) (d a b : Reg) (c : BitVec 4) (s : State) : Host.Outcome State Fault Refusal :=
  amoOne w d a b c .cas 5 s

/-- `vamo.add.cl` (R156). -/
def execVamoAddCl (w : BitVec 3) (d a b : Reg) (c : BitVec 4) (s : State) : Host.Outcome State Fault Refusal :=
  vamo w d a b c .add 0 s

/-- `vamo.add.sl` (R156). -/
def execVamoAddSl (w : BitVec 3) (d a b : Reg) (c : BitVec 4) (s : State) : Host.Outcome State Fault Refusal :=
  vamo w d a b c .add 1 s

/-- `vamo.add.st` (R156). -/
def execVamoAddSt (w : BitVec 3) (d a b : Reg) (c : BitVec 4) (s : State) : Host.Outcome State Fault Refusal :=
  vamo w d a b c .add 2 s

/-- `vamo.add.mo` (R156). -/
def execVamoAddMo (w : BitVec 3) (d a b : Reg) (c : BitVec 4) (s : State) : Host.Outcome State Fault Refusal :=
  vamo w d a b c .add 3 s

/-- `vamo.add.po` (R156). -/
def execVamoAddPo (w : BitVec 3) (d a b : Reg) (c : BitVec 4) (s : State) : Host.Outcome State Fault Refusal :=
  vamo w d a b c .add 4 s

/-- `vamo.add.sy` (R156). -/
def execVamoAddSy (w : BitVec 3) (d a b : Reg) (c : BitVec 4) (s : State) : Host.Outcome State Fault Refusal :=
  vamo w d a b c .add 5 s

/-- `vamo.fadd.cl` (R156). -/
def execVamoFaddCl (w : BitVec 3) (d a b : Reg) (c : BitVec 4) (s : State) : Host.Outcome State Fault Refusal :=
  vamo w d a b c .fadd 0 s

/-- `vamo.fadd.sl` (R156). -/
def execVamoFaddSl (w : BitVec 3) (d a b : Reg) (c : BitVec 4) (s : State) : Host.Outcome State Fault Refusal :=
  vamo w d a b c .fadd 1 s

/-- `vamo.fadd.st` (R156). -/
def execVamoFaddSt (w : BitVec 3) (d a b : Reg) (c : BitVec 4) (s : State) : Host.Outcome State Fault Refusal :=
  vamo w d a b c .fadd 2 s

/-- `vamo.fadd.mo` (R156). -/
def execVamoFaddMo (w : BitVec 3) (d a b : Reg) (c : BitVec 4) (s : State) : Host.Outcome State Fault Refusal :=
  vamo w d a b c .fadd 3 s

/-- `vamo.fadd.po` (R156). -/
def execVamoFaddPo (w : BitVec 3) (d a b : Reg) (c : BitVec 4) (s : State) : Host.Outcome State Fault Refusal :=
  vamo w d a b c .fadd 4 s

/-- `vamo.fadd.sy` (R156). -/
def execVamoFaddSy (w : BitVec 3) (d a b : Reg) (c : BitVec 4) (s : State) : Host.Outcome State Fault Refusal :=
  vamo w d a b c .fadd 5 s

/-- `vamo.min.cl` (R156). -/
def execVamoMinCl (w : BitVec 3) (d a b : Reg) (c : BitVec 4) (s : State) : Host.Outcome State Fault Refusal :=
  vamo w d a b c .min 0 s

/-- `vamo.min.sl` (R156). -/
def execVamoMinSl (w : BitVec 3) (d a b : Reg) (c : BitVec 4) (s : State) : Host.Outcome State Fault Refusal :=
  vamo w d a b c .min 1 s

/-- `vamo.min.st` (R156). -/
def execVamoMinSt (w : BitVec 3) (d a b : Reg) (c : BitVec 4) (s : State) : Host.Outcome State Fault Refusal :=
  vamo w d a b c .min 2 s

/-- `vamo.min.mo` (R156). -/
def execVamoMinMo (w : BitVec 3) (d a b : Reg) (c : BitVec 4) (s : State) : Host.Outcome State Fault Refusal :=
  vamo w d a b c .min 3 s

/-- `vamo.min.po` (R156). -/
def execVamoMinPo (w : BitVec 3) (d a b : Reg) (c : BitVec 4) (s : State) : Host.Outcome State Fault Refusal :=
  vamo w d a b c .min 4 s

/-- `vamo.min.sy` (R156). -/
def execVamoMinSy (w : BitVec 3) (d a b : Reg) (c : BitVec 4) (s : State) : Host.Outcome State Fault Refusal :=
  vamo w d a b c .min 5 s

/-- `vamo.max.cl` (R156). -/
def execVamoMaxCl (w : BitVec 3) (d a b : Reg) (c : BitVec 4) (s : State) : Host.Outcome State Fault Refusal :=
  vamo w d a b c .max 0 s

/-- `vamo.max.sl` (R156). -/
def execVamoMaxSl (w : BitVec 3) (d a b : Reg) (c : BitVec 4) (s : State) : Host.Outcome State Fault Refusal :=
  vamo w d a b c .max 1 s

/-- `vamo.max.st` (R156). -/
def execVamoMaxSt (w : BitVec 3) (d a b : Reg) (c : BitVec 4) (s : State) : Host.Outcome State Fault Refusal :=
  vamo w d a b c .max 2 s

/-- `vamo.max.mo` (R156). -/
def execVamoMaxMo (w : BitVec 3) (d a b : Reg) (c : BitVec 4) (s : State) : Host.Outcome State Fault Refusal :=
  vamo w d a b c .max 3 s

/-- `vamo.max.po` (R156). -/
def execVamoMaxPo (w : BitVec 3) (d a b : Reg) (c : BitVec 4) (s : State) : Host.Outcome State Fault Refusal :=
  vamo w d a b c .max 4 s

/-- `vamo.max.sy` (R156). -/
def execVamoMaxSy (w : BitVec 3) (d a b : Reg) (c : BitVec 4) (s : State) : Host.Outcome State Fault Refusal :=
  vamo w d a b c .max 5 s

/-- `vamo.and.cl` (R156). -/
def execVamoAndCl (w : BitVec 3) (d a b : Reg) (c : BitVec 4) (s : State) : Host.Outcome State Fault Refusal :=
  vamo w d a b c .and 0 s

/-- `vamo.and.sl` (R156). -/
def execVamoAndSl (w : BitVec 3) (d a b : Reg) (c : BitVec 4) (s : State) : Host.Outcome State Fault Refusal :=
  vamo w d a b c .and 1 s

/-- `vamo.and.st` (R156). -/
def execVamoAndSt (w : BitVec 3) (d a b : Reg) (c : BitVec 4) (s : State) : Host.Outcome State Fault Refusal :=
  vamo w d a b c .and 2 s

/-- `vamo.and.mo` (R156). -/
def execVamoAndMo (w : BitVec 3) (d a b : Reg) (c : BitVec 4) (s : State) : Host.Outcome State Fault Refusal :=
  vamo w d a b c .and 3 s

/-- `vamo.and.po` (R156). -/
def execVamoAndPo (w : BitVec 3) (d a b : Reg) (c : BitVec 4) (s : State) : Host.Outcome State Fault Refusal :=
  vamo w d a b c .and 4 s

/-- `vamo.and.sy` (R156). -/
def execVamoAndSy (w : BitVec 3) (d a b : Reg) (c : BitVec 4) (s : State) : Host.Outcome State Fault Refusal :=
  vamo w d a b c .and 5 s

/-- `vamo.or.cl` (R156). -/
def execVamoOrCl (w : BitVec 3) (d a b : Reg) (c : BitVec 4) (s : State) : Host.Outcome State Fault Refusal :=
  vamo w d a b c .or 0 s

/-- `vamo.or.sl` (R156). -/
def execVamoOrSl (w : BitVec 3) (d a b : Reg) (c : BitVec 4) (s : State) : Host.Outcome State Fault Refusal :=
  vamo w d a b c .or 1 s

/-- `vamo.or.st` (R156). -/
def execVamoOrSt (w : BitVec 3) (d a b : Reg) (c : BitVec 4) (s : State) : Host.Outcome State Fault Refusal :=
  vamo w d a b c .or 2 s

/-- `vamo.or.mo` (R156). -/
def execVamoOrMo (w : BitVec 3) (d a b : Reg) (c : BitVec 4) (s : State) : Host.Outcome State Fault Refusal :=
  vamo w d a b c .or 3 s

/-- `vamo.or.po` (R156). -/
def execVamoOrPo (w : BitVec 3) (d a b : Reg) (c : BitVec 4) (s : State) : Host.Outcome State Fault Refusal :=
  vamo w d a b c .or 4 s

/-- `vamo.or.sy` (R156). -/
def execVamoOrSy (w : BitVec 3) (d a b : Reg) (c : BitVec 4) (s : State) : Host.Outcome State Fault Refusal :=
  vamo w d a b c .or 5 s

end Sys2Proof.Machine
end

