-- ==== Sys2Proof/Machine/Vint.lean ====
section
/-! DEFINITION. Major VINT: vector integer arithmetic (R113-R115, R118, R119). -/

namespace Sys2Proof.Machine

/-- Issue of a VINT form (R118): operand b open and of the right format (R112), no Q4X unless the form moves codes
(R114). -/
def vintInfo (w p : BitVec 3) (d : Dst) (srcs : List Dst) (b : VOp) (q4x : Bool) (s : State) : Info :=
  vecInfo w p d (whenAny s.me (srcs ++ opSrcs b)) 2 (opBad b s.me || (!q4x && s.me.isQ4x))

/-- elem(d, i) := f(W, elem(a, i), y) (R113). -/
def vint (w : BitVec 3) (d a : Reg) (b : VOp) (p : BitVec 3) (f : Nat → Nat → Nat → Nat) (s : State) :
    Host.Outcome State Fault Refusal :=
  vecForm (vintInfo w p (.v d) [.v a] b false s) b
    (fun h i act y o => if act then o.elem h h.width i (f h.width (h.elem a h.width i) y) else o) (emitV d 2) s

/-- elem(d, i) := f(W, elem(a, i), y) with flags (R118). -/
def vintSat (w : BitVec 3) (d a : Reg) (b : VOp) (p : BitVec 3) (f : Nat → Nat → Nat → Nat × BitVec 8) (s : State) :
    Host.Outcome State Fault Refusal :=
  vecForm (vintInfo w p (.v d) [.v a] b false s) b
    (fun h i act y o =>
      if act then
        let r := f h.width (h.elem a h.width i) y
        (o.elem h h.width i r.1).flags r.2
      else o) (emitV d 2) s

/-- Bit i of d := f(W, elem(a, i), y) (R113). -/
def vcmp (w : BitVec 3) (d : MReg) (a : Reg) (b : VOp) (p : BitVec 3) (f : Nat → Nat → Nat → Bool) (s : State) :
    Host.Outcome State Fault Refusal :=
  vecForm (vintInfo w p (.m d) [.v a] b false s) b
    (fun h i act y o => if act then o.bit i (f h.width (h.elem a h.width i) y) else o) (emitM d 2) s

/-- `vadc` and `vsbc` (R119): carry in from m`k`, carry out to m`k + 8`; f gives the sum and the carry. -/
def vcarry (w : BitVec 3) (d a : Reg) (b : VOp) (k : BitVec 3) (f : Nat → Nat → Nat → Nat → Nat × Bool) (s : State) :
    Host.Outcome State Fault Refusal :=
  vecForm { vintInfo w 0 (.v d) [.v a, .m (0#1 ++ k)] b false s with pred := none } b
    (fun h i act y o =>
      if act then
        let r := f h.width (h.elem a h.width i) y ((h.getM (0#1 ++ k)).getLsbD i).toNat
        (o.elem h h.width i r.1).bit i r.2
      else o)
    (fun o h => (h.putLanes d o.d 2).putMBits (1#1 ++ k) o.b 2) s

/-- `vadd` (R118). -/
def execVadd (w : BitVec 3) (d a : Reg) (b : VOp) (p : BitVec 3) (s : State) : Host.Outcome State Fault Refusal :=
  vint w d a b p (fun _ x y => x + y) s

/-- `vsub` (R118). -/
def execVsub (w : BitVec 3) (d a : Reg) (b : VOp) (p : BitVec 3) (s : State) : Host.Outcome State Fault Refusal :=
  vint w d a b p (fun W x y => wrapInt W ((x : Int) - y)) s

/-- `vadc` (R119). -/
def execVadc (w : BitVec 3) (d a : Reg) (b : VOp) (k : BitVec 3) (s : State) : Host.Outcome State Fault Refusal :=
  vcarry w d a b k (fun W x y c => (x + y + c, carryOut W x y c)) s

/-- `vsbc` (R119). -/
def execVsbc (w : BitVec 3) (d a : Reg) (b : VOp) (k : BitVec 3) (s : State) : Host.Outcome State Fault Refusal :=
  vcarry w d a b k (fun W x y c => (wrapInt W ((x : Int) - y - c), borrowOut x y c)) s

/-- `vmul` (R118). -/
def execVmul (w : BitVec 3) (d a : Reg) (b : VOp) (p : BitVec 3) (s : State) : Host.Outcome State Fault Refusal :=
  vint w d a b p (fun _ x y => x * y) s

/-- `vmulh` (R118). -/
def execVmulh (w : BitVec 3) (d a : Reg) (b : VOp) (p : BitVec 3) (s : State) : Host.Outcome State Fault Refusal :=
  vint w d a b p (fun W x y => wrapInt W (sInt W x * sInt W y / (2 ^ W : Nat))) s

/-- `vmulhn` (R118). -/
def execVmulhn (w : BitVec 3) (d a : Reg) (b : VOp) (p : BitVec 3) (s : State) : Host.Outcome State Fault Refusal :=
  vint w d a b p (fun W x y => x * y / 2 ^ W) s

/-- `vmacc` (R118). -/
def execVmacc (w : BitVec 3) (d a : Reg) (b : VOp) (p : BitVec 3) (s : State) : Host.Outcome State Fault Refusal :=
  vecForm (vintInfo w p (.v d) [.v a, .v d] b false s) b
    (fun h i act y o =>
      if act then o.elem h h.width i (h.elem d h.width i + h.elem a h.width i * y) else o) (emitV d 2) s

/-- `vand` (R118). -/
def execVand (w : BitVec 3) (d a : Reg) (b : VOp) (p : BitVec 3) (s : State) : Host.Outcome State Fault Refusal :=
  vint w d a b p (fun _ x y => x &&& y) s

/-- `vor` (R118). -/
def execVor (w : BitVec 3) (d a : Reg) (b : VOp) (p : BitVec 3) (s : State) : Host.Outcome State Fault Refusal :=
  vint w d a b p (fun _ x y => x ||| y) s

/-- `vxor` (R118). -/
def execVxor (w : BitVec 3) (d a : Reg) (b : VOp) (p : BitVec 3) (s : State) : Host.Outcome State Fault Refusal :=
  vint w d a b p (fun _ x y => x ^^^ y) s

/-- `vshl` (R118). -/
def execVshl (w : BitVec 3) (d a : Reg) (b : VOp) (p : BitVec 3) (s : State) : Host.Outcome State Fault Refusal :=
  vint w d a b p (fun W x y => x * 2 ^ (y % W)) s

/-- `vshr` (R118). -/
def execVshr (w : BitVec 3) (d a : Reg) (b : VOp) (p : BitVec 3) (s : State) : Host.Outcome State Fault Refusal :=
  vint w d a b p (fun W x y => x / 2 ^ (y % W)) s

/-- `vsar` (R118). -/
def execVsar (w : BitVec 3) (d a : Reg) (b : VOp) (p : BitVec 3) (s : State) : Host.Outcome State Fault Refusal :=
  vint w d a b p (fun W x y => wrapInt W (sInt W x / (2 ^ (y % W) : Nat))) s

/-- `vmin` (R118). -/
def execVmin (w : BitVec 3) (d a : Reg) (b : VOp) (p : BitVec 3) (s : State) : Host.Outcome State Fault Refusal :=
  vint w d a b p (fun W x y => if sInt W y < sInt W x then y else x) s

/-- `vmax` (R118). -/
def execVmax (w : BitVec 3) (d a : Reg) (b : VOp) (p : BitVec 3) (s : State) : Host.Outcome State Fault Refusal :=
  vint w d a b p (fun W x y => if sInt W x < sInt W y then y else x) s

/-- `vminn` (R118). -/
def execVminn (w : BitVec 3) (d a : Reg) (b : VOp) (p : BitVec 3) (s : State) : Host.Outcome State Fault Refusal :=
  vint w d a b p (fun _ x y => min x y) s

/-- `vmaxn` (R118). -/
def execVmaxn (w : BitVec 3) (d a : Reg) (b : VOp) (p : BitVec 3) (s : State) : Host.Outcome State Fault Refusal :=
  vint w d a b p (fun _ x y => max x y) s

/-- `vceq` (R118). -/
def execVceq (w : BitVec 3) (d : MReg) (a : Reg) (b : VOp) (p : BitVec 3) (s : State) :
    Host.Outcome State Fault Refusal :=
  vcmp w d a b p (fun _ x y => x == y) s

/-- `vcne` (R118). -/
def execVcne (w : BitVec 3) (d : MReg) (a : Reg) (b : VOp) (p : BitVec 3) (s : State) :
    Host.Outcome State Fault Refusal :=
  vcmp w d a b p (fun _ x y => x != y) s

/-- `vclt` (R118). -/
def execVclt (w : BitVec 3) (d : MReg) (a : Reg) (b : VOp) (p : BitVec 3) (s : State) :
    Host.Outcome State Fault Refusal :=
  vcmp w d a b p (fun W x y => decide (sInt W x < sInt W y)) s

/-- `vcle` (R118). -/
def execVcle (w : BitVec 3) (d : MReg) (a : Reg) (b : VOp) (p : BitVec 3) (s : State) :
    Host.Outcome State Fault Refusal :=
  vcmp w d a b p (fun W x y => decide (sInt W x ≤ sInt W y)) s

/-- `vcltn` (R118). -/
def execVcltn (w : BitVec 3) (d : MReg) (a : Reg) (b : VOp) (p : BitVec 3) (s : State) :
    Host.Outcome State Fault Refusal :=
  vcmp w d a b p (fun _ x y => decide (x < y)) s

/-- `vclen` (R118). -/
def execVclen (w : BitVec 3) (d : MReg) (a : Reg) (b : VOp) (p : BitVec 3) (s : State) :
    Host.Outcome State Fault Refusal :=
  vcmp w d a b p (fun _ x y => decide (x ≤ y)) s

/-- `vsel` (R118, R13: an inactive element takes y). -/
def execVsel (w : BitVec 3) (d a : Reg) (b : VOp) (p : BitVec 3) (s : State) : Host.Outcome State Fault Refusal :=
  vecForm (vintInfo w p (.v d) [.v a] b true s) b
    (fun h i act y o => o.elem h h.width i (if act then h.elem a h.width i else y)) (emitV d 2) s

/-- `vabsd` (R118). -/
def execVabsd (w : BitVec 3) (d a : Reg) (b : VOp) (p : BitVec 3) (s : State) : Host.Outcome State Fault Refusal :=
  vint w d a b p (fun W x y => (sInt W x - sInt W y).natAbs) s

/-- `vsadd` (R118). -/
def execVsadd (w : BitVec 3) (d a : Reg) (b : VOp) (p : BitVec 3) (s : State) : Host.Outcome State Fault Refusal :=
  vintSat w d a b p (fun W x y => saturate W (sInt W x + sInt W y)) s

/-- `vssub` (R118). -/
def execVssub (w : BitVec 3) (d a : Reg) (b : VOp) (p : BitVec 3) (s : State) : Host.Outcome State Fault Refusal :=
  vintSat w d a b p (fun W x y => saturate W (sInt W x - sInt W y)) s

/-- `vgen` (R118). -/
def execVgen (w : BitVec 3) (d : MReg) (a : Reg) (b : VOp) (p : BitVec 3) (s : State) :
    Host.Outcome State Fault Refusal :=
  vcmp w d a b p (fun W x y => carryOut W x y 0) s

/-- `vmov` (R118). -/
def execVmov (w : BitVec 3) (d : Reg) (b : VOp) (p : BitVec 3) (s : State) : Host.Outcome State Fault Refusal :=
  vecForm (vintInfo w p (.v d) [] b true s) b
    (fun h i act y o => if act then o.elem h h.width i y else o) (emitV d 2) s

end Sys2Proof.Machine
end

