-- ==== Sys2Proof/Machine/Vxr.lean ====
section
/-! DEFINITION. Major VXR: permutes, moves, conversions, reductions, the dot product, validity accumulation and
rescaling (R51-R54, R124-R135). -/

namespace Sys2Proof.Machine

/-- The granules that hold elements `js`, those below `vl`, of register a (R125, R367). -/
def readsAt (a : Reg) (h : Hart) (js : List Nat) : List (Dst × Nat) :=
  (js.filter (fun j => decide (j < h.vl.toNat))).map (h.granule a h.width)

/-- Issue of a VXR form that writes a vector: `ill` beside the Q4X rule (R114, R124). `reads` gives the granules that it reads
for its active elements (R367). -/
def vxrInfo (w : BitVec 3) (p : Option (BitVec 3)) (d : Dst) (srcs : List Dst) (lat : Nat) (q4x ill : Bool)
    (reads : Hart → List Nat → List (Dst × Nat)) (s : State) : Info :=
  let i : Info := { vecInfo w 0 d (whenAny s.me srcs) lat (ill || (!q4x && s.me.isQ4x)) with
    pred := p, lending := if p.isSome then .bits else .no }
  let h := s.me.settle s.me.now
  { i with ecc := .reads (reads h ((List.range h.vl.toNat).filter (fun k => h.todo k && (activeMask i h).getLsbD k))) }

/-- An element-wise VXR form: f gives what active element i becomes (R125, R130, R134, R135). -/
def vxrForm (i : Info) (f : Hart → Nat → Out → Out) (emit : Out → Hart → Hart) (s : State) :
    Host.Outcome State Fault Refusal :=
  vecForm i (.sca 0) (fun h k act _ o => if act then f h k o else o) emit s

/-- A form that never stops part-way: everything at once, then the element progress is cleared (R27, R126, R136). -/
def wholeForm (i : Info) (f : Hart → BitVec 4096 → Hart) (s : State) : Host.Outcome State Fault Refusal :=
  run i s fun s => .done (s.setMe (f s.me (activeMask i s.me)).progress0)

/-- Element `j` of a register, 0 at or above `vl` (R125). -/
def Hart.elemOr0 (h : Hart) (r : Reg) (j : Nat) : Nat := if j < h.vl.toNat then h.elem r h.width j else 0

/-! ### Permutes and moves -/

/-- A dist that breaks the rule of `vxch`: no power of two from 1 to `vl`/2 (R125). -/
def distBad (vl dist : Nat) : Bool :=
  decide (0 < vl) && !(decide (1 ≤ dist ∧ 2 * dist ≤ vl) && 2 ^ Nat.log2 dist == dist)

/-- `vxch` (R125). -/
def execVxch (w : BitVec 3) (d a b : Reg) (p : BitVec 3) (s : State) : Host.Outcome State Fault Refusal :=
  let h := s.me.settle s.me.now
  vxrForm (vxrInfo w (some p) (.v d) [.v a, .a b] 2 true (d == a || distBad h.vl.toNat (h.getA b).toNat)
      (fun h is => readsAt a h (is.map (fun i => i ^^^ (h.getA b).toNat))) s)
    (fun h i o => o.elem h h.width i (h.elemOr0 a (i ^^^ (h.getA b).toNat))) (emitV d 2) s

/-- `vslup` (R125): elements below the offset are unchanged. The offset is all 64 bits of the scalar, read unsigned, as are
the dist of `vxch`, the index of `vext` and `vins` and the N of `vrescl`: R111 would give a scalar operand the low width
bits (DEDUCED, log entry 43). -/
def execVslup (w : BitVec 3) (d a b : Reg) (p : BitVec 3) (s : State) : Host.Outcome State Fault Refusal :=
  vxrForm (vxrInfo w (some p) (.v d) [.v a, .a b] 2 true (d == a)
      (fun h is => readsAt a h ((is.filter (fun i => decide ((h.getA b).toNat ≤ i))).map (fun i => i - (h.getA b).toNat))) s)
    (fun h i o =>
      if i < (h.getA b).toNat then o else o.elem h h.width i (h.elemOr0 a (i - (h.getA b).toNat))) (emitV d 2) s

/-- `vsldn` (R125). -/
def execVsldn (w : BitVec 3) (d a b : Reg) (p : BitVec 3) (s : State) : Host.Outcome State Fault Refusal :=
  vxrForm (vxrInfo w (some p) (.v d) [.v a, .a b] 2 true (d == a)
      (fun h is => readsAt a h (is.map (fun i => i + (h.getA b).toNat))) s)
    (fun h i o => o.elem h h.width i (h.elemOr0 a (i + (h.getA b).toNat))) (emitV d 2) s

/-- `vperm` (R125): b may be a stream (R59). -/
def execVperm (w : BitVec 3) (d a : Reg) (b : VOp) (p : BitVec 3) (s : State) : Host.Outcome State Fault Refusal :=
  vecForm (vxrInfo w (some p) (.v d) (.v a :: opSrcs b) 2 true (d == a || b == .vec d || opBad b s.me)
      (fun h is => match b with
        | .vec r => readsAt r h is ++ readsAt a h (is.map (h.elem r h.width))
        | _ => []) s) b
    (fun h i act y o => if act then o.elem h h.width i (h.elemOr0 a y) else o) (emitV d 2) s

/-- The active elements below `vl`, in ascending order. -/
def activeList (h : Hart) (act : BitVec 4096) : List Nat := (List.range h.vl.toNat).filter (fun i => act.getLsbD i)

/-- Write the values `xs` to elements from `j` on. -/
def putFrom (h : Hart) : Nat → List Nat → Out → Out
  | _, [], o => o
  | j, x :: xs, o => putFrom h (j + 1) xs (o.elem h h.width j x)

/-- `vcmpr` (R126). -/
def execVcmpr (w : BitVec 3) (d a : Reg) (p : BitVec 3) (s : State) : Host.Outcome State Fault Refusal :=
  wholeForm (vxrInfo w (some p) (.v d) [.v a] 2 true (d == a) (readsAt a) s) (fun h act =>
    emitV d 2 (putFrom h 0 ((activeList h act).map (h.elem a h.width)) Out.empty) h) s

/-- Expand: the k-th active element takes element k of a (R126). -/
def expandFrom (h : Hart) (a : Reg) : Nat → List Nat → Out → Out
  | _, [], o => o
  | k, i :: is, o => expandFrom h a (k + 1) is (o.elem h h.width i (h.elem a h.width k))

/-- `vexpd` (R126). -/
def execVexpd (w : BitVec 3) (d a : Reg) (p : BitVec 3) (s : State) : Host.Outcome State Fault Refusal :=
  wholeForm (vxrInfo w (some p) (.v d) [.v a] 2 true (d == a)
      (fun h is => readsAt a h (List.range is.length)) s) (fun h act =>
    emitV d 2 (expandFrom h a 0 (activeList h act) Out.empty) h) s

/-- The running counts of active elements below each of the elements `is` (R126). -/
def rankFrom (h : Hart) (act : BitVec 4096) : Nat → List Nat → Out → Out
  | _, [], o => o
  | n, i :: is, o => rankFrom h act (n + (act.getLsbD i).toNat) is (o.elem h h.width i n)

/-- `vrank` (R126). -/
def execVrank (w : BitVec 3) (d : Reg) (p : BitVec 3) (s : State) : Host.Outcome State Fault Refusal :=
  wholeForm (vxrInfo w (some p) (.v d) [] 2 false false (fun _ _ => []) s) (fun h act =>
    emitV d 2 (rankFrom h act 0 (List.range h.vl.toNat) Out.empty) h) s

/-- `vext` (R127): integers are sign-extended, patterns and Q4X codes zero-extended. -/
def execVext (w : BitVec 3) (d a b : Reg) (s : State) : Host.Outcome State Fault Refusal :=
  wholeForm (vxrInfo w none (.a d) [.v a, .a b] 0 true false
      (fun h _ => readsAt a h [(h.getA b).toNat]) s) (fun h _ =>
    let x := h.elemOr0 a (h.getA b).toNat
    let y := if isFloat h.fmt || h.isQ4x then x else wrapInt 64 (sInt h.width x)
    h.setA d (BitVec.ofNat 64 y) 0) s

/-- `vins` (R127): an index at or above `vl` writes nothing. -/
def execVins (w : BitVec 3) (d a b : Reg) (s : State) : Host.Outcome State Fault Refusal :=
  wholeForm (vxrInfo w none (.v d) [.a a, .a b] 2 true false (fun _ _ => []) s) (fun h _ =>
    let i := (h.getA b).toNat
    if i < h.vl.toNat then emitV d 2 (Out.empty.elem h h.width i (h.getA a).toNat) h else h) s

/-! ### Conversions -/

/-- Convert a pattern between two formats (R130). -/
def convert (src dst : BitVec 4) (rm : BitVec 2) (x : Nat) : Nat × BitVec 8 :=
  let ws := fmtWidth src
  let wd := fmtWidth dst
  if isFloat src then
    if isFloat dst then (Fmt.ofCode dst).round rm ((Fmt.ofCode src).read x)
    else toIntBits rm wd ((Fmt.ofCode src).read x)
  else if isFloat dst then (Fmt.ofCode dst).round rm (Fp.ofInt (sInt ws x))
  else if wd < ws then saturate wd (sInt ws x)
  else (wrapInt wd (sInt ws x), 0)

/-- The register after the source group of `vcvt`, which runs from a to a + ⌊(`vl` − 1) / VLMAX⌋ and is empty where `vl` is
0 (R129). -/
def cvtEnd (h : Hart) (a : Reg) (src : BitVec 4) : Nat :=
  if h.vl = 0 then a.toNat else a.toNat + (h.vl.toNat - 1) / h.vlmax (fmtWidth src) + 1

/-- What makes `vcvt` ILLEGAL (R129). -/
def cvtBad (h : Hart) (d a b : Reg) : Bool :=
  b == 10 || decide (12 ≤ b.toNat) || decide (32 < cvtEnd h a (b.setWidth 4))
    || (fmtWidth (b.setWidth 4) != h.width && decide (a.toNat ≤ d.toNat ∧ d.toNat < cvtEnd h a (b.setWidth 4)))

/-- `vcvt` (R128-R131): b is the code of the source format. -/
def execVcvt (w : BitVec 3) (d a b : Reg) (p : BitVec 3) (s : State) : Host.Outcome State Fault Refusal :=
  let h := s.me
  let src : BitVec 4 := b.setWidth 4
  let group := (List.range (cvtEnd h a src - a.toNat)).map (fun k => Dst.v (a + BitVec.ofNat 5 k))
  vxrForm (vxrInfo w (some p) (.v d) group 4 false (cvtBad h d a b)
      (fun h is => is.map (fun i =>
        let vm := h.vlmax (fmtWidth src)
        h.granule (a + BitVec.ofNat 5 (i / vm)) (fmtWidth src) (i % vm))) s)
    (fun h i o =>
      let vm := h.vlmax (fmtWidth src)
      let r := convert src h.fmt h.rm (h.elem (a + BitVec.ofNat 5 (i / vm)) (fmtWidth src) (i % vm))
      (o.elem h h.width i r.1).flags r.2) (emitV d 4) s

/-! ### Reductions -/

/-- An element that a reduction combines: below the live length and active (R50, R51). -/
def present (h : Hart) (act : BitVec 4096) (i : Nat) : Bool :=
  decide (i < h.vl.toNat) && decide (i < h.live.toNat) && act.getLsbD i

/-- The patterns that a reduction combines. -/
def presentList (h : Hart) (act : BitVec 4096) (a : Reg) : List Nat :=
  ((List.range h.vl.toNat).filter (present h act)).map (h.elem a h.width)

/-- The granules of the live ones of the active elements of register a. -/
def liveReads (a : Reg) (h : Hart) (is : List Nat) : List (Dst × Nat) :=
  readsAt a h (is.filter (fun i => decide (i < h.live.toNat)))

/-- An integer reduction (R132): the result wraps to W bits and is sign-extended. -/
def vred (w : BitVec 3) (d a : Reg) (p : BitVec 3) (f : Nat → List Nat → Int) (s : State) :
    Host.Outcome State Fault Refusal :=
  wholeForm (vxrInfo w (some p) (.a d) [.v a] 0 false false (liveReads a) s) (fun h act =>
    let r := wrapInt h.width (f h.width (presentList h act a))
    h.setA d (BitVec.ofInt 64 (sInt h.width r)) 0) s

/-- `vredsum` (R132). -/
def execVredsum (w : BitVec 3) (d a : Reg) (p : BitVec 3) (s : State) : Host.Outcome State Fault Refusal :=
  vred w d a p (fun _ xs => (xs.foldl (· + ·) 0 : Nat)) s

/-- `vredmin` (R132). -/
def execVredmin (w : BitVec 3) (d a : Reg) (p : BitVec 3) (s : State) : Host.Outcome State Fault Refusal :=
  vred w d a p (fun W xs => xs.foldl (fun m x => min m (sInt W x)) ((2 ^ (W - 1) : Nat) - 1)) s

/-- `vredmax` (R132). -/
def execVredmax (w : BitVec 3) (d a : Reg) (p : BitVec 3) (s : State) : Host.Outcome State Fault Refusal :=
  vred w d a p (fun W xs => xs.foldl (fun m x => max m (sInt W x)) (-(2 ^ (W - 1) : Nat))) s

/-- `vredand` (R132). -/
def execVredand (w : BitVec 3) (d a : Reg) (p : BitVec 3) (s : State) : Host.Outcome State Fault Refusal :=
  vred w d a p (fun W xs => (xs.foldl (· &&& ·) (2 ^ W - 1) : Nat)) s

/-- `vredor` (R132). -/
def execVredor (w : BitVec 3) (d a : Reg) (p : BitVec 3) (s : State) : Host.Outcome State Fault Refusal :=
  vred w d a p (fun _ xs => (xs.foldl (· ||| ·) 0 : Nat)) s

/-- The input or output of a node of the canonical sum: absent, or a value, with the flags so far (R51). -/
structure Leaf51 where
  val : Option Fp
  fl : BitVec 8
  deriving DecidableEq, Repr

/-- An absent input. -/
def Leaf51.none : Leaf51 := { val := .none, fl := 0 }

/-- A node: one absent input passes the other on (R51). -/
def node (f : Fp → Fp → Fp × BitVec 8) (x y : Leaf51) : Leaf51 :=
  match x.val, y.val with
  | .some a, .some b =>
    let r := f a b
    { val := .some r.1, fl := x.fl ||| y.fl ||| r.2 }
  | .some a, .none => { val := .some a, fl := x.fl ||| y.fl }
  | .none, v => { val := v, fl := x.fl ||| y.fl }

/-- One level of the tree: neighbours are combined (R52). -/
def pairUp (f : Fp → Fp → Fp × BitVec 8) : List Leaf51 → List Leaf51
  | x :: y :: t => node f x y :: pairUp f t
  | t => t

/-- The sum of one block of 32 (R52). -/
def block32 (f : Fp → Fp → Fp × BitVec 8) (t : List Leaf51) : Leaf51 :=
  (pairUp f (pairUp f (pairUp f (pairUp f (pairUp f t))))).headD Leaf51.none

/-- The sum in the order of R52 over the inputs `x 0` … `x (vl − 1)`. -/
def sumAgnostic (f : Fp → Fp → Fp × BitVec 8) (vl : Nat) (x : Nat → Leaf51) : Leaf51 :=
  ((List.range ((vl + 31) / 32)).map (fun b => block32 f ((List.range 32).map (fun j => x (32 * b + j))))).foldl
    (node f) Leaf51.none

/-- The sum in the order of R54: partials of the working lanes, then the lanes in turn. -/
def sumLanes (f : Fp → Fp → Fp × BitVec 8) (lanes vl : Nat) (x : Nat → Leaf51) : Leaf51 :=
  ((List.range lanes).map (fun j =>
    ((List.range ((vl + lanes - 1) / lanes)).map (fun k => x (j + k * lanes))).foldl (node f) Leaf51.none)).foldl
    (node f) Leaf51.none

/-- The accumulation format (R51). -/
def accFmt (h : Hart) : Fmt := if h.fmt == 4 then .f64 else .f32

/-- A sum node: it rounds once to the accumulation format (R51). -/
def sumNode (k : Fmt) (rm : BitVec 2) (a b : Fp) : Fp × BitVec 8 :=
  let r := k.add rm a b
  (k.read r.1, r.2)

/-- A minimum or maximum node: a NaN input gives a NaN (R52). -/
def extremeNode (choose : Fp → Fp → Fp) (a b : Fp) : Fp × BitVec 8 :=
  if a.isNan || b.isNan then (.nan false, nvSig a b) else (choose a b, 0)

/-- A leaf: the element read as a number (R51). -/
def leafOf (k : Fmt) (x : Nat) : Leaf51 :=
  match k.read x with
  | .nan sig => { val := some (.nan false), fl := if sig then flNV else 0 }
  | v => { val := some v, fl := 0 }

/-- The canonical sum of leaves in the order that `la` selects, rounded to the accumulation format, with its flags:
`identity` when every leaf is absent (R51-R54). -/
def canonical (h : Hart) (f : Fp → Fp → Fp × BitVec 8) (identity : Fp) (x : Nat → Leaf51) : Nat × BitVec 8 :=
  let r := if h.la then sumAgnostic f h.vl.toNat x else sumLanes f h.lanes h.vl.toNat x
  let q := (accFmt h).round h.rm (r.val.getD identity)
  (q.1, q.2 ||| r.fl)

/-- A floating-point reduction (R133). -/
def vfred (w : BitVec 3) (d a : Reg) (p : BitVec 3) (f : Fmt → BitVec 2 → Fp → Fp → Fp × BitVec 8) (identity : Fp)
    (s : State) : Host.Outcome State Fault Refusal :=
  wholeForm (vxrInfo w (some p) (.a d) [.v a] 0 false (!isFloat s.me.fmt) (liveReads a) s) (fun h act =>
    let r := canonical h (f (accFmt h) h.rm) identity
      (fun i => if present h act i then leafOf h.fp (h.elem a h.width i) else Leaf51.none)
    (h.setA d (BitVec.ofNat 64 r.1) 0).flag r.2) s

/-- `vfredsum` (R133). -/
def execVfredsum (w : BitVec 3) (d a : Reg) (p : BitVec 3) (s : State) : Host.Outcome State Fault Refusal :=
  vfred w d a p sumNode (.fin false 0 0) s

/-- `vfredmin` (R133). -/
def execVfredmin (w : BitVec 3) (d a : Reg) (p : BitVec 3) (s : State) : Host.Outcome State Fault Refusal :=
  vfred w d a p (fun _ _ => extremeNode Fp.minOf) (.inf false) s

/-- `vfredmax` (R133). -/
def execVfredmax (w : BitVec 3) (d a : Reg) (p : BitVec 3) (s : State) : Host.Outcome State Fault Refusal :=
  vfred w d a p (fun _ _ => extremeNode Fp.maxOf) (.inf true) s

/-- Operand b of elements 0 to `vl` − 1, popped in one go (R112). -/
def operands (b : VOp) (h : Hart) : List Nat → State → Fetch (List Nat)
  | [], s => .ok [] s
  | i :: is, s =>
    (s.operand b h.width i h).bind fun y s => (operands b h is s).bind fun ys s => .ok (y :: ys) s

/-- `vfdot` (R53, R112, R133): with a fault among the elements it would pop it pops none and traps. For MALFORMED-CRD the
`tval` is the coordinate, as R34 and R199 say, where R112 speaks of the virtual address (DEDUCED, log entry 41). -/
def execVfdot (w : BitVec 3) (d a : Reg) (b : VOp) (p : BitVec 3) (s : State) : Host.Outcome State Fault Refusal :=
  let i := vxrInfo w (some p) (.a d) (.v a :: opSrcs b) 0 false (opBad b s.me || !isFloat s.me.fmt)
    (fun h is => liveReads a h is ++ (match b with | .vec r => liveReads r h is | _ => [])) s
  run i s fun s =>
    let h := s.me
    match operands b h (List.range h.vl.toNat) s with
    | .fault c t _ =>
      let s := s.refetchOp b
      .trap (s.setMe s.me.progress0) c t false
    | .stall t => .stall (s.rollback t)
    | .leave t => .leave t
    | .ok ys s =>
      let act := activeMask i h
      let r := canonical h (sumNode (accFmt h) h.rm) (.fin false 0 0) (fun k =>
        if present h act k then
          let m := Fp.mul (h.fp.read (h.elem a h.width k)) (h.fp.read (ys[k]?.getD 0))
          { val := some m.1, fl := m.2 }
        else Leaf51.none)
      .done (s.setMe ((s.me.setA d (BitVec.ofNat 64 r.1) 0).flag r.2).progress0)

/-! ### Validity accumulation and rescaling -/

/-- `vvacc` (R124, R134): sums in d, at most `v30`, counts in d + 1. -/
def execVvacc (w : BitVec 3) (d a : Reg) (b : MReg) (p : BitVec 3) (s : State) : Host.Outcome State Fault Refusal :=
  vxrForm (vxrInfo w (some p) (.v d) [.v d, .v (d + 1), .v a, .m b] 4 false (d == 31)
      (fun h is =>
        let js := is.filter (fun i => (h.getM b).getLsbD i)
        is.map (fun i => (Dst.m b, i / 64)) ++ [d, d + 1, a].flatMap (fun r => readsAt r h js)) s)
    (fun h i o =>
      if (h.getM b).getLsbD i then
        let W := h.width
        let x := h.elem d W i
        let y := h.elem a W i
        let r := if isFloat h.fmt then h.fp.add h.rm (h.fp.read x) (h.fp.read y) else (x + y, 0)
        let c := countUp W (h.elem (d + 1) W i)
        ((o.elem h W i r.1).elem2 h W i c.1).flags (r.2 ||| c.2)
      else o)
    (fun o h => (h.putLanes d o.d 4).putLanes (d + 1) o.e 4) s

/-- One rescaled element: value, scalar count, element count (R135). -/
def rescale (k : Fmt) (rm : BitVec 2) (x n c : Nat) : Nat × BitVec 8 :=
  if c == 0 then (0, flINVALIDALL)
  else
    match k.read x with
    | .nan sig => (k.nan, if sig then flNV else 0)
    | .inf neg => if n == 0 then (k.nan, flNV) else k.inf neg
    | .fin neg m e => if n == 0 then (0, 0) else k.div rm (.fin neg (m * n) e) (.fin false c 0)

/-- `vrescl` (R135): pad elements keep d. -/
def execVrescl (w : BitVec 3) (d a b : Reg) (p : BitVec 3) (s : State) : Host.Outcome State Fault Refusal :=
  vxrForm (vxrInfo w (some p) (.v d) [.v d, .v a, .a b] 4 false (!isFloat s.me.fmt)
      (fun h is => liveReads d h is ++ liveReads a h is) s)
    (fun h i o =>
      if i < h.live.toNat then
        let r := rescale h.fp h.rm (h.elem d h.width i) (h.getA b).toNat (h.elem a h.width i)
        (o.elem h h.width i r.1).flags r.2
      else o) (emitV d 4) s

end Sys2Proof.Machine
end

