-- ==== Sys2Proof/Machine/Stream.lean ====
section
/-! DEFINITION. Major SPIN without the grammar: streams, the skein and pruning (R196-R223). -/

namespace Sys2Proof.Machine

/-! ### Descriptors (R196, R197) -/

/-- A level of a sparse tensor (R197). -/
structure SpLevel where
  ext : Nat
  kind : BitVec 2
  parr : Word
  carr : Word
  deriving DecidableEq, Repr

/-- A sparse tensor descriptor (R196). -/
structure SpDesc where
  fmt : BitVec 4
  clamp : Bool
  pos64 : Bool
  vbase : Word
  levels : List SpLevel
  deriving DecidableEq, Repr

/-- A level entry of four words; none when it breaks R197. -/
def levelOf (w0 parr carr w3 : Word) : Option SpLevel :=
  let kind := w0.extractLsb' 0 2
  let ext := (w0.extractLsb' 32 32).toNat
  if ext = 0 ∨ w0.extractLsb' 2 30 ≠ 0 ∨ w3 ≠ 0 ∨ ((kind = 0 ∨ kind = 3) ∧ parr ≠ 0)
      ∨ ((kind = 0 ∨ kind = 2) ∧ carr ≠ 0) then none
  else some { ext := ext, kind := kind, parr := parr, carr := carr }

/-- The first `n` level entries; those that are left must be zero (R196). -/
def levelsOf : Nat → List Word → Option (List SpLevel)
  | 0, ws => if ws.all (· == 0) then some [] else none
  | n + 1, w0 :: w1 :: w2 :: w3 :: ws =>
    match levelOf w0 w1 w2 w3, levelsOf n ws with
    | some l, some ls => some (l :: ls)
    | _, _ => none
  | _ + 1, _ => none

/-- The descriptor that 20 words hold; none when a check of R203 fails. -/
def descOf : List Word → Option SpDesc
  | w0 :: vbase :: r2 :: r3 :: ws =>
    let n := (w0.extractLsb' 0 3).toNat
    let f := w0.extractLsb' 4 4
    if w0.extractLsb' 10 54 ≠ 0 ∨ w0.getLsbD 3 ∨ r2 ≠ 0 ∨ r3 ≠ 0 ∨ n = 0 ∨ 4 < n ∨ 9 < f.toNat
        ∨ vbase.toNat % (fmtWidth f / 8) ≠ 0 then none
    else
      (levelsOf n ws).map fun ls =>
        { fmt := f, clamp := w0.getLsbD 8, pos64 := w0.getLsbD 9, vbase := vbase, levels := ls }
  | _ => none

/-- A walk along level k of a descriptor at `da`, its bounds not read yet, under parent p (R198). -/
def SpDesc.cursor (d : SpDesc) (da : Word) (k p : Nat) : Option Cursor :=
  (d.levels[k]?).map fun l =>
    { da := da, level := BitVec.ofNat 2 k, vfmt := d.fmt, clamp := d.clamp, pos64 := d.pos64, vbase := d.vbase,
      kind := l.kind, ext := l.ext, parr := l.parr, carr := l.carr, vals := k + 1 == d.levels.length, known := false,
      parent := p, pos := 0, endp := 0, prev := none, rank := none, rest := false }

/-! ### Opening streams (R203-R206) -/

/-- Issue of a SPIN form that is not predicated (R67, R202). -/
def spinInfo (w : BitVec 3) (d : Option Dst) (srcs : List Dst) (ill : Bool) : Info :=
  { wt := w, on := .vector, priv := false, lending := .no, pred := none, flow := false, vec := true, dest := d,
    srcs := srcs, lat := 0, ill := ill, illCsr := false, ecc := .elems }

/-- The spindle reads for a stream after every class-0 access before the instruction that starts it (R188). The table of R287 also
allows row 3 of its program to read x[518] as it was before an earlier class-0 store, which R188 and R287's own text order
before the gather: the model follows R188 (DEDUCED, log entry 43). -/
def State.startStream (s : State) : State :=
  (s.drain s.cur (fun q => q.cls == 0)).drainPosted s.cur (fun p => p.cls == 0)

/-- ILLEGAL with the word in hand. -/
def illegal (s : State) : Res := .trap s .illegal (s.word.setWidth 64) false

/-- A stream at its position with nothing fetched ahead. -/
def Stream.at (k : StreamCore) : Stream := { core := k, buf := [], held := none }

/-- A stream that the hart whose turn it is opens now, in its mode and with the backings it sees (R191, R397). -/
def State.fresh (s : State) : StreamCore := { StreamCore.closed with mode := s.me.priv, views := s.views s.cur }

/-- Open a stream in a register of the hart whose turn it is (R201). -/
def State.openStream (s : State) (r : SReg) (k : StreamCore) : State := s.setMe (s.me.setS r (Stream.at k))

/-- `sp.open` (R203); that level 0 has parent 0 is checked on b alone, at issue (R35). -/
def execSpOpen (w : BitVec 3) (d : SReg) (a b : Reg) (s : State) : Host.Outcome State Fault Refusal :=
  let h := s.me.settle s.me.now
  run (spinInfo w none [.a a, .a b]
      ((h.getA b).extractLsb' 62 2 == 0 && (h.getA b).extractLsb' 0 62 != 0)) s fun s =>
    let da := s.me.getA a
    let k := ((s.me.getA b).extractLsb' 62 2).toNat
    let p := ((s.me.getA b).extractLsb' 0 62).toNat
    if da.toNat % 64 != 0 then .trap s .misalign da false
    else
      (s.startStream.loadWords da 20).plain s fun ws s =>
        match (descOf ws).bind (fun x => (x.cursor da k p).map (fun c => (x, c))) with
        | none => illegal s
        | some (x, c) => .done (s.openStream d { s.fresh with kind := .fibre, fmt := x.fmt, ca := c })

/-- A format that no stream of `sp.bind` or `sp.gath` has: Q4X, I4 (R204, R205). -/
def fourBit (f : BitVec 4) : Bool := f == 10 || f == 11

/-- `sp.bind` (R204). -/
def execSpBind (w : BitVec 3) (d : SReg) (a b : Reg) (s : State) : Host.Outcome State Fault Refusal :=
  let h := s.me.settle s.me.now
  run (spinInfo w none [.a a, .a b] (fourBit h.fmt || decide (2 ^ 32 ≤ (h.getA b).toNat))) s fun s =>
    let va := s.me.getA a
    if va.toNat % s.me.esize != 0 then .trap s .misalign va false
    else
      let s := s.startStream
      .done (s.openStream d { s.fresh with
        kind := .bind, fmt := s.me.fmt
        ca := { Cursor.idle with vbase := va, endp := (s.me.getA b).toNat } })

/-- `sp.gath` (R205). -/
def execSpGath (w : BitVec 3) (d : SReg) (a : Reg) (b : SReg) (s : State) : Host.Outcome State Fault Refusal :=
  run (spinInfo w none [.a a] ((s.me.getS b).core.kind != .fibre || d == b || fourBit s.me.fmt)) s fun s =>
    let va := s.me.getA a
    if va.toNat % s.me.esize != 0 then .trap s .misalign va false
    else
      let s := s.startStream
      .done (s.openStream d { s.fresh with
        kind := .gather, fmt := s.me.fmt, ca := (s.me.getS b).core.ca, xbase := va })

/-- Co-iterate two fibre streams (R206): the sources are closed before the pair is opened. -/
def spPair (w : BitVec 3) (d a b : SReg) (ka kb : StreamKind) (pk : BitVec 3) (ill : Bool) (s : State) :
    Host.Outcome State Fault Refusal :=
  run (spinInfo w none [] (ill || d.getLsbD 0 || a == b || (s.me.getS a).core.kind != .fibre
      || (s.me.getS b).core.kind != .fibre)) s fun s =>
    let s := s.startStream
    let x := (s.me.getS a).core
    let y := (s.me.getS b).core
    let k : StreamCore := { s.fresh with ca := x.ca, cb := y.ca, pk := pk }
    let h := (s.me.setS a Stream.closed).setS b Stream.closed
    .done (s.setMe ((h.setS d (Stream.at { k with kind := ka, fmt := x.fmt })).setS (d + 1)
      (Stream.at { k with kind := kb, fmt := y.fmt })))

/-- `sp.isect` (R206). -/
def execSpIsect (w : BitVec 3) (d a b : SReg) (s : State) : Host.Outcome State Fault Refusal :=
  spPair w d a b .isectA .isectB 0 false s

/-- `sp.union` (R206, R207): p = 0 is ILLEGAL (R202). -/
def execSpUnion (w : BitVec 3) (d a b : SReg) (k : BitVec 3) (s : State) : Host.Outcome State Fault Refusal :=
  spPair w d a b .unionA .unionB k (k == 0) s

/-! ### Skipping, looking, taking (R207, R210-R212) -/

/-- The steps a walk of a stream can take at most: coordinates are below 2^32. -/
def walkFuel : Nat := 2 ^ 34

/-- A drain that has been skipped to a coordinate delivers nothing below it any more (R210, R221). -/
def Stream.from (t : Stream) (target : Nat) : Stream :=
  if t.core.kind == .drain then { t with core := { t.core with low := max t.core.low target } } else t

/-- Pass the elements of a stream whose coordinate is below a target (R210). Those that it passes on a drain count as
delivered in the positions after them: R210 and R220 do not say (DESIGN CHOICE, log entry 45). -/
def skipLoop (id target : Nat) : Nat → Stream → State → Fetch Stream
  | 0, t, s => .ok t s
  | n + 1, t, s =>
    (t.peek id s).bind fun r s =>
      match r.1 with
      | none => .ok r.2 s
      | some e => if e.crd < target then skipLoop id target n r.2 s else .ok (t.from target) s

/-- A closed stream is ILLEGAL at issue (R201). -/
def shut (h : Hart) (r : SReg) : Bool := !(h.getS r).isOpen

/-- What a fault that stops nothing part-way leaves: the element progress cleared (R210, R212). -/
def Fetch.res {α : Type} (f : Fetch α) (s0 : State) (k : α → State → Res) : Res :=
  match f with
  | .ok x s => k x s
  | .fault c t s => .trap (s.setMe s.me.progress0) c t false
  | .stall s => .stall (s0.rollback s)
  | .leave s => .leave s

/-- `sp.skip` (R210). -/
def execSpSkip (w : BitVec 3) (d : SReg) (a : Reg) (s : State) : Host.Outcome State Fault Refusal :=
  run (spinInfo w none [.a a] (shut s.me d)) s fun s =>
    (s.onStream s.cur d (skipLoop s.cur ((s.me.getA a).toNat % 2 ^ 32) walkFuel)).res s fun t s =>
      .done (s.setMe (s.me.setS d t).progress0)

/-- Where `sp.crd` and `sp.pos` stand in the stream: at an element to come, or at a fault that the walk has met. -/
inductive Look where
  | at (t : Stream)
  | held (c : Cause) (tval : Word)

/-- The next element seen from a place in the stream. -/
def Look.next (id : Nat) (l : Look) (s : State) : Fetch (Option StreamElem × Look) :=
  match l with
  | .held c t => .fault c t s
  | .at t => (t.peek id s).bind fun r s => .ok (r.1, .at r.2) s

/-- The loop of `sp.crd` and `sp.pos` over elements (R207, R211): `val` of an element, all ones beyond the end, 0 in a
pad; on a union the presence bits. A fault held on an element that is not active stops the form at the first active one after
it, and not where none follows: the form writes nothing for the one that holds it (DESIGN CHOICE, log entry 45). -/
def lookLoop (act : BitVec 4096) (h : Hart) (id : Nat) (union : Bool) (val : StreamElem → Nat) :
    List Nat → Look → Out → State → Loop
  | [], _, o, s => .fin o s
  | i :: is, l, o, s =>
    let wanted := h.todo i && act.getLsbD i
    let mark := fun (o : Out) (x y : Bool) => if union then (o.bit i x).bit2 i y else o
    if h.live.toNat ≤ i then
      lookLoop act h id union val is l (if wanted then mark (o.elem h h.width i 0) false false else o) s
    else
      match l.next id s with
      | .ok (e, l') s =>
        let o := if wanted then
            match e with
            | some e => mark (o.elem h h.width i (val e)) e.inA e.inB
            | none => mark (o.elem h h.width i (2 ^ h.width - 1)) false false
          else o
        lookLoop act h id union val is l' o s
      | .fault c t s =>
        if wanted then .stop i c t o s else lookLoop act h id union val is (.held c t) o s
      | .stall s => .stall i s
      | .leave s => .leave s

/-- A loop that a fault has stopped leaves its stream to be fetched again (R209). -/
def Loop.refetch (l : Loop) (r : SReg) : Loop :=
  match l with
  | .stop k c t o s => .stop k c t o (s.refetch s.cur r)
  | l => l

/-- A union member (R207). -/
def StreamKind.isUnion : StreamKind → Bool
  | .unionA => true
  | .unionB => true
  | _ => false

/-- `sp.crd` and `sp.pos` (R211). -/
def spLook (w : BitVec 3) (d : Reg) (a : SReg) (p : BitVec 3) (widths : List Nat) (val : StreamElem → Nat)
    (s : State) : Host.Outcome State Fault Refusal :=
  let i := { spinInfo w (some (.v d)) [] (shut s.me a || !widths.contains s.me.width) with
    pred := some p, lending := .bits }
  run i s fun s =>
    let h := s.me
    let k := (h.getS a).core
    let n := h.vl.toNat
    let q := s.elemCut [] (activeMask i h) n
    let l : Look := if s.bufferBad s.cur a then .held .eccFatal (((h.getS a).buf.head?.bind (fun e => e.addr)).getD 0)
      else .at (h.getS a)
    ((lookLoop (activeMask i h) h s.cur k.kind.isUnion val (upTo q.1 n) l Out.empty q.2).refetch a).res s q.1 n
      (fun o h => ((h.putLanes d o.d 0).putMBits (0#1 ++ k.pk) o.b 0).putMBits (1#1 ++ k.pk) o.c 0)

/-- `sp.crd` (R211). -/
def execSpCrd (w : BitVec 3) (d : Reg) (a : SReg) (p : BitVec 3) (s : State) : Host.Outcome State Fault Refusal :=
  spLook w d a p [32, 64] (fun e => e.crd) s

/-- `sp.pos` (R211). -/
def execSpPos (w : BitVec 3) (d : Reg) (a : SReg) (p : BitVec 3) (s : State) : Host.Outcome State Fault Refusal :=
  spLook w d a p [64] (fun e => e.pos.toNat) s

/-- The elements left of a fibre (R212): of a C fibre by its bounds, of a B fibre the set bits from its next position on; a
clamped S fibre whose coordinate passes its extent has none. The spec names only bounds faults here. Of a clamped S fibre
whose coordinate cannot be read r is 1, and a fault in reading the bits of a B fibre, which r needs, is raised (DESIGN CHOICE,
log entry 45). -/
def fibreLeft (id : Nat) (priv : Reader) (c : Cursor) (s : State) : Fetch Nat :=
  let x := c.span
  match c.kind.toNat with
  | 1 =>
    (c.open id priv s).bind fun c s =>
      if c.endp < c.pos then (if c.clamp then .ok 0 s else .fault .malformedCrd 0xFFFFFFFFFFFFFFFF s)
      else .ok (c.endp - c.pos) s
  | 2 => countBits id priv c.parr x.1 (x.2 - x.1) s
  | 3 =>
    if c.clamp && decide (x.1 < x.2) then
      match spinRead id priv .other (addrAt c.carr x.1 4) 4 s with
      | .ok crd s => .ok (if c.ext ≤ crd then 0 else 1) s
      | .fault _ _ s => .ok 1 s
      | .stall s => .stall s
      | .leave s => .leave s
    else .ok (x.2 - x.1) s
  | _ => .ok (x.2 - x.1) s

/-- The elements of a pair's member that have been produced and not popped, those with a fault held on their value
among them: with none, the next is produced, or the fault held on it is raised (R212). -/
def producedLeft (id : Nat) (t : Stream) (s : State) : Fetch Nat :=
  if t.buf.isEmpty then
    (t.peek id s).bind fun r s => .ok (match r.1 with | none => 0 | some _ => 1) s
  else .ok t.buf.length s

/-- Raise the fault that a spindle holds on the bounds of a fibre with nothing delivered yet (R212). -/
def boundsHeld (t : Stream) (s : State) (k : State → Fetch Nat) : Fetch Nat :=
  match t.held with
  | some f => if f.bounds && t.buf.isEmpty then .fault f.cause f.tval s else k s
  | none => k s

/-- r of R212. -/
def streamLeft (id : Nat) (t : Stream) (s : State) : Fetch Nat :=
  match t.core.kind with
  | .closed => .ok 0 s
  | .fibre => boundsHeld t s (fibreLeft id t.core.reader t.core.ca)
  | .gather => boundsHeld t s (fibreLeft id t.core.reader t.core.ca)
  | .bind => .ok (t.core.ca.endp - t.core.ca.pos) s
  | .drain =>
    if s.skeinOut (clusterOf id) then .stall s
    else .ok ((s.fast (clusterOf id)).skein.filter (fun e => decide (t.core.low ≤ e.1))).length s
  | .isectA => producedLeft id t s
  | .isectB => producedLeft id t s
  | .unionA => producedLeft id t s
  | .unionB => producedLeft id t s

/-- `sp.take` on a member of a pair is an input of a log (R378). -/
def StreamKind.logged : StreamKind → Bool
  | .isectA => true
  | .isectB => true
  | k => k.isUnion

/-- The bytes of the one buffer of a hart's spindle (R167, R208). -/
def bufferSize : Nat := 32768

/-- The bytes that the elements fetched for a stream take up: those of their values. What else an element takes up the
spec does not say (DESIGN CHOICE, log entry 45). -/
def Stream.bytes (t : Stream) : Nat := t.buf.length * (fmtWidth t.core.fmt / 8)

/-- The bytes that a hart's spindle has fetched for its 16 streams. -/
def Hart.buffered (h : Hart) : Nat := h.st.toList.foldl (fun n t => n + t.bytes) 0

/-- A stream may be fetched ahead (R208): it is open, no fault is held for it, and the buffer has room for one value. A
drain delivers its values as they are popped (R220). -/
def Hart.mayFetch (h : Hart) (t : Stream) : Bool :=
  t.isOpen && t.core.kind != .drain && t.held.isNone && t.buf.all (fun e => e.held.isNone)
    && decide (h.buffered + fmtWidth t.core.fmt / 8 ≤ bufferSize)

/-- A member of a pair with nothing produced waits for its spindle, while accesses perform apart (R212, R333, log entry 7). -/
def Stream.awaits (t : Stream) (s : State) : Bool := t.core.kind.logged && t.buf.isEmpty && s.queued && s.me.mayFetch t

/-- `sp.take` (R212). -/
def execSpTake (w : BitVec 3) (d : Reg) (a : SReg) (b : Reg) (s : State) : Host.Outcome State Fault Refusal :=
  run (spinInfo w (some (.a d)) [.a b] (shut s.me a)) s fun s =>
    let n := (s.me.getA b).toNat
    if n = 0 then .done (s.setA d 0 0)
    else
      let t := s.me.getS a
      (s.onStream s.cur a (streamLeft s.cur)).res s fun r s =>
        let v := BitVec.ofNat 64 (min n r)
        if t.awaits s && decide (0 < r) then .wait s else
        if t.core.kind.logged then s.inputWord 6 v fun v s => .done (s.setA d v 0) else .done (s.setA d v 0)

/-! ### Records (R213-R215) -/

/-- The code of a kind (R201). -/
def StreamKind.code : StreamKind → BitVec 4
  | .closed => 0 | .fibre => 1 | .bind => 2 | .gather => 3 | .isectA => 4 | .isectB => 5 | .unionA => 6
  | .unionB => 7 | .drain => 8

/-- The kind of a code. -/
def kindOf (c : BitVec 4) : Option StreamKind :=
  match c.toNat with
  | 0 => some .closed | 1 => some .fibre | 2 => some .bind | 3 => some .gather | 4 => some .isectA
  | 5 => some .isectB | 6 => some .unionA | 7 => some .unionB | 8 => some .drain | _ => none

/-- A kind that walks one fibre. -/
def StreamKind.oneFibre (k : StreamKind) : Bool := k == .fibre || k == .gather

/-- The bounds of a walk for a record; only those of a C fibre are in memory, and where they have not been read and
cannot be, they are free values (log entry 9). -/
def boundsFor (id : Nat) (priv : Reader) (c : Cursor) (s : State) : Fetch (Word × Word) :=
  let lo := c.parent * c.ext
  if !c.known && c.kind == 2 then .ok (BitVec.ofNat 64 lo, BitVec.ofNat 64 (lo + c.ext)) s
  else if c.known then .ok (BitVec.ofNat 64 c.pos, BitVec.ofNat 64 c.endp) s
  else
  match c.open id priv s with
  | .ok c t => .ok (BitVec.ofNat 64 c.pos, BitVec.ofNat 64 c.endp) t
  | .fault _ _ _ => .ok (Config.freeWord s.free, Config.freeWord (s.free + 1)) s.drawn.drawn
  | .stall t => .stall t
  | .leave t => .leave t

/-- The first word of a record (R213). -/
def recordHead (k : StreamCore) : Word :=
  let pair := k.kind.logged
  (0#48 ++ (if pair then k.cb.level else 0) ++ (if pair || k.kind.oneFibre then k.ca.level else 0) ++ 0#1
    ++ (if k.kind.isUnion then k.pk else 0) ++ k.fmt ++ k.kind.code : BitVec 64)

/-- The record of a stream (R213). -/
def recordOf (id : Nat) (k : StreamCore) (s : State) : Fetch (List Word) :=
  match k.kind with
  | .closed => .ok (List.replicate 8 0) s
  | .bind => .ok [recordHead k, k.ca.vbase, BitVec.ofNat 64 k.ca.pos, BitVec.ofNat 64 k.ca.endp, 0, 0, 0, 0] s
  | .drain => .ok [recordHead k, 0, BitVec.ofNat 64 k.n, BitVec.ofNat 64 k.low, 0, 0, 0, 0] s
  | _ =>
    (boundsFor id k.reader k.ca s).bind fun x s =>
      if k.kind.oneFibre then
        .ok [recordHead k, k.ca.da, x.1, x.2, if k.kind == .gather then k.xbase else 0, 0, 0, 0] s
      else
        (boundsFor id k.reader k.cb s).bind fun y s => .ok [recordHead k, k.ca.da, x.1, x.2, k.cb.da, y.1, y.2, 0] s

/-- The cells of words at rising keys. -/
def cellsOfWords (key : Nat) : List Word → List (Nat × Byte × Byte)
  | [] => []
  | w :: ws => cellsOf key 8 w.toNat ++ cellsOfWords (key + 8) ws

/-- `sp.save` (R213, R214). -/
def execSpSave (w : BitVec 3) (d : SReg) (a : Reg) (s : State) : Host.Outcome State Fault Refusal :=
  run (spinInfo w none [.a a] false) s fun s =>
    let va := s.me.getA a
    if va.toNat % 64 != 0 then .trap s .misalign va false
    else
      (s.xlate (s.who s.cur) .store .other va).res s va fun key s =>
        let s := s.drainPosted s.cur (fun p => p.cls == 0 && p.key / 64 == key / 64)
        (recordOf s.cur (s.me.getS d).core s).res s fun ws s => .done (s.issueStore s.cur 0 (cellsOfWords key ws))

/-- The word i of a record. -/
def wordAt (ws : List Word) (i : Nat) : Word := ws[i]?.getD 0

/-- A walk restored from a record: its bounds are known, the coordinate before it is read again (R213, R215). -/
def restored (c : Cursor) (pos endp : Word) : Cursor :=
  { c with known := true, pos := pos.toNat, endp := endp.toNat, rest := true }

/-- What restoring a stream comes to: the stream, ILLEGAL, a fault of a descriptor read with its address, or a
stall (R214). -/
inductive Restored where
  | ok (k : StreamCore) (s : State)
  | bad (s : State)
  | fault (c : Cause) (va : Word) (s : State)
  | stall (s : State)

/-- Read a descriptor that a record names, and its walk at a level (R214). -/
def restCursor (da : Word) (level : BitVec 2) (pos endp : Word) (s : State) (k : SpDesc → Cursor → State → Restored) :
    Restored :=
  if da.toNat % 64 != 0 then .bad s
  else
    match s.loadWords da 20 with
    | .fault c va s => .fault c va s
    | .stall s => .stall s
    | .leave s => .stall s
    | .ok ws s =>
      match (descOf ws).bind (fun x => (x.cursor da level.toNat 0).map (fun c => (x, restored c pos endp))) with
      | none => .bad s
      | some (x, c) => k x c s

/-- The stream of a record, opened by a reader (R191, R213, R214, R397). The spec does not say what a record with `fmt` 10 to 15,
with a misaligned descriptor address, or with non-zero fields that its kind does not use, comes to: the first two are
ILLEGAL, and such fields are not looked at (DESIGN CHOICE, log entry 45). -/
def restoreStream (w : Reader) (ws : List Word) (s : State) : Restored :=
  let h := wordAt ws 0
  let f := h.extractLsb' 4 4
  match kindOf (h.extractLsb' 0 4) with
  | none => .bad s
  | some kind =>
    let k : StreamCore :=
      { StreamCore.closed with kind := kind, fmt := f, mode := w.priv, views := w.views, pk := h.extractLsb' 8 3 }
    if h.extractLsb' 16 48 ≠ 0 ∨ h.getLsbD 11 ∨ wordAt ws 7 ≠ 0 ∨ (kind ≠ .closed ∧ 9 < f.toNat) then .bad s
    else
      match kind with
      | .closed => .ok StreamCore.closed s
      | .bind =>
        .ok { k with ca := { Cursor.idle with vbase := wordAt ws 1, pos := (wordAt ws 2).toNat,
                                              endp := (wordAt ws 3).toNat } } s
      | .drain => .ok { k with n := (wordAt ws 2).toNat, low := (wordAt ws 3).toNat } s
      | _ =>
        restCursor (wordAt ws 1) (h.extractLsb' 12 2) (wordAt ws 2) (wordAt ws 3) s fun _ ca s =>
          if kind.oneFibre then .ok { k with ca := ca, xbase := if kind == .gather then wordAt ws 4 else 0 } s
          else
            restCursor (wordAt ws 4) (h.extractLsb' 14 2) (wordAt ws 5) (wordAt ws 6) s fun _ cb s =>
              .ok { k with ca := ca, cb := cb } s

/-- `sp.rest` (R213, R214). -/
def execSpRest (w : BitVec 3) (d : SReg) (a : Reg) (s : State) : Host.Outcome State Fault Refusal :=
  run (spinInfo w none [.a a] false) s fun s =>
    let va := s.me.getA a
    if va.toNat % 64 != 0 then .trap s .misalign va false
    else
      (s.startStream.loadWords va 8).plain s fun ws t =>
        match restoreStream (t.reader t.cur) ws t with
        | .ok k t => .done (t.openStream d k)
        | .bad t => illegal t
        | .fault c x t => .trap t c x false
        | .stall t => .stall (s.rollback t)

/-- `sp.close` (R214). -/
def execSpClose (w : BitVec 3) (d : SReg) (s : State) : Host.Outcome State Fault Refusal :=
  run (spinInfo w none [] false) s fun s => .done (s.setMe (s.me.setS d Stream.closed))

/-! ### The skein (R216-R221) -/

/-- The capacity of the skein (R216). -/
def skeinSize : Nat := 65536

/-- The formats a skein may have: w32, w64, F64, F32 (R216). -/
def skeinFmt (f : BitVec 4) : Bool := f == 2 || f == 3 || f == 4 || f == 5

/-- x + y in the skein format (R218). -/
def skeinAdd (f : BitVec 4) (rm : BitVec 2) (x y : Nat) : Nat × BitVec 8 :=
  if isFloat f then
    let k := Fmt.ofCode f
    k.add rm (k.read x) (k.read y)
  else ((x + y) % 2 ^ fmtWidth f, 0)

/-- Accumulate one element (R218): the skein, flags, and whether it overflowed. -/
def skeinPut (f : BitVec 4) (rm : BitVec 2) (t : List (Nat × Word)) (c x : Nat) : List (Nat × Word) × BitVec 8 × Bool :=
  match tget t c with
  | some y =>
    let r := skeinAdd f rm y.toNat x
    (tput t c (BitVec.ofNat 64 r.1), r.2, false)
  | none => if t.length < skeinSize then (tput t c (BitVec.ofNat 64 x), 0, false) else (t, 0, true)

/-- The loop of `cx.acc` (R112, R218). -/
def accLoop (act : BitVec 4096) (a : Reg) (b : VOp) (h : Hart) : List Nat → Out → State → Loop
  | [], o, s => .fin o s
  | i :: is, o, s =>
    if !h.todo i then accLoop act a b h is o s
    else
      match s.operand b h.width i h with
      | .fault c t s => .stop i c t o s
      | .stall s => .stall i s
      | .leave s => .leave s
      | .ok y s =>
        if !act.getLsbD i then accLoop act a b h is o s
        else if h.live.toNat ≤ i then accLoop act a b h is (o.bit i false) s
        else if s.sharedBad s.myCluster 3 (h.elem a h.width i % 2 ^ 32) then .stop i .eccFatal 0 o s
        else
          let f := s.myFast
          let r := skeinPut h.fmt h.rm f.skein (h.elem a h.width i % 2 ^ 32) y
          accLoop act a b h is ((o.bit i r.2.2).flags r.2.1) (s.setMyFast { f with skein := r.1 })

/-- Issue of a `cx.*` form with a predicate. Its format is that of the skein when it issues: a `cx.clr` of another hart that falls
within it does not make it ILLEGAL (R218, R221). -/
def cxInfo (w p : BitVec 3) (d : Dst) (srcs : List Dst) (ill : Bool) (s : State) : Info :=
  { spinInfo w (some d) (whenAny s.me srcs) (ill || (s.me.fmt != s.myFast.skfmt && s.me.engaged != some .taking)) with
    pred := some p, lending := .bits }

/-- An access to the skein waits until its parts are exchanged (R338). -/
def skeinReady (s : State) (k : State → Res) : Res := if s.skeinOut s.myCluster then .stall s else k s

/-- A `cx.*` instruction is an input of a log, and in a replay waits for its turn (R378, R381): k takes the logged
words. -/
def State.cxInput (s s0 : State) (m : BitVec 4096) (k : BitVec 4096 → State → Res) : Res :=
  (s.input s.myCluster 5 (fun e => e.kind == 5) (maskWords s0.me.vl.toNat m)).res s0 fun ws s =>
    k (if s.replaying s.myCluster then wordsMask ws else m) s

/-- The context that runs on the hart's cluster neither records nor replays (R378). -/
def State.plainMode (s : State) : Bool :=
  match s.ctx (s.spaceOf s.myCluster).1 (s.spaceOf s.myCluster).2 with
  | some c => c.mode == .plain
  | none => true

/-- The elements of a list that a `cx.*` instruction takes up in this turn, and the one with which its next turn begins
(R171, R221): while accesses perform apart (log entry 7) each element is a turn of its own, so that those of other harts
come between; in record and replay mode, and otherwise, one turn takes them all (R380). -/
def State.cxTurn (s : State) (is : List Nat) : List Nat × Option Nat :=
  if s.queued && s.plainMode then
    match is.filter s.me.todo with
    | i :: j :: _ => ([i], some j)
    | l => (l, none)
  else (is, none)

/-- The end of a turn of a `cx.*` instruction: it goes on at an element, where neither a trap nor a stop reaches it, or it
ends. -/
def State.cxEnd (s : State) (next : Option Nat) (cut : Option Cut) (n : Nat) : Res :=
  match next with
  | some j => .stall (s.setMe { s.me.progressAt j with engaged := some .taking })
  | none => (s.setMe { s.me with engaged := none }).endOrStop cut n

/-- The hart is to perform all elements of a `cx.*` instruction in one turn (R380). -/
def State.cxWhole (s : State) : State := if s.plainMode then s else { s with partly := none }

/-- `cx.acc` (R218). -/
def execCxAcc (w : BitVec 3) (d : MReg) (a : Reg) (b : VOp) (p : BitVec 3) (s : State) :
    Host.Outcome State Fault Refusal :=
  let i := { cxInfo w p (.m d) (.v a :: opSrcs b) (opBad b s.me) s with ecc := if popsStream b then .loop else .elems }
  run i s fun s => skeinReady s fun s =>
    let s := s.cxWhole
    let h := s.me
    let q := s.streamCut b i.srcs (activeMask i h) h.vl.toNat
    let c := s.cxTurn (upTo q.1 h.vl.toNat)
    match accLoop (activeMask i h) a b h c.1 Out.empty q.2 with
    | .fin o t =>
      t.cxInput s o.b.val fun m t =>
        (t.setMe ((t.me.putMBits d { o.b with val := m &&& o.b.mask } 0).flag o.fl)).cxEnd c.2 q.1 h.vl.toNat
    | .stop k c tv o t =>
      let t := t.refetchOp b
      t.cxInput s o.b.val fun m t =>
        .trap (t.setMe ((t.me.putMBits d { o.b with val := m &&& o.b.mask } 0).flag o.fl |>.progressAt k)) c tv true
    | .stall k t => .stall (s.stuck t k)
    | .leave t => .leave t

/-- The elements of `cx.get` (R219). -/
def getLoop (act : BitVec 4096) (a : Reg) (h : Hart) (t : List (Nat × Word)) : List Nat → Out → Out
  | [], o => o
  | i :: is, o =>
    if h.todo i && act.getLsbD i then
      let x := tget t (h.elem a h.width i % 2 ^ 32)
      getLoop act a h t is ((o.elem h h.width i (x.getD 0).toNat).bit i x.isSome)
    else getLoop act a h t is o

/-- `cx.get` (R219). -/
def execCxGet (w : BitVec 3) (d a : Reg) (b : MReg) (p : BitVec 3) (s : State) : Host.Outcome State Fault Refusal :=
  let i := cxInfo w p (.v d) [.v a] false s
  run i s fun s => skeinReady s fun s =>
    let h := s.me
    let c := s.cxTurn (List.range h.vl.toNat)
    let bad := c.1.any (fun k =>
      h.todo k && (activeMask i h).getLsbD k && s.sharedBad s.myCluster 3 (h.elem a h.width k % 2 ^ 32))
    if bad then .trap s .eccFatal 0 h.midway else
    let o := getLoop (activeMask i h) a h s.myFast.skein c.1 Out.empty
    s.cxInput s 0 fun _ t => (t.setMe ((t.me.putLanes d o.d 0).putMBits b o.b 0)).cxEnd c.2 none h.vl.toNat

/-- `cx.drain` (R220), a `cx.*` instruction of the log (R378). -/
def execCxDrain (w : BitVec 3) (d : SReg) (s : State) : Host.Outcome State Fault Refusal :=
  run (spinInfo w none [] false) s fun s =>
    s.cxInput s 0 fun _ t => .done (t.openStream d { t.fresh with kind := .drain, fmt := t.myFast.skfmt })

/-- A drain that passes a `cx.clr` reaches its end (R221). -/
def Hart.endDrains (h : Hart) : Hart := { h with st := h.st.map (fun t => { t with core := t.core.ended }) }

/-- `cx.clr` (R217, R221). -/
def execCxClr (w : BitVec 3) (s : State) : Host.Outcome State Fault Refusal :=
  run (spinInfo w none [] (!skeinFmt s.me.fmt)) s fun s => skeinReady s fun s =>
    s.cxInput s 0 fun _ t =>
      let t := t.healShared t.myCluster 3 (fun _ => true)
      let t := (hartsOf [t.myCluster]).foldl (fun t id => t.setHart id (t.hart id).endDrains) t
      .done (t.setMyFast { t.myFast with skein := [], skfmt := t.me.fmt })

/-! ### Pruning (R222, R223) -/

/-- One step of the generator (R223): its new state and the 53-bit integer. -/
def rngNext (r0 r1 : Word) : Word × Word × Nat :=
  let s1 := r0 ^^^ (r0 <<< 23)
  let n1 := s1 ^^^ r1 ^^^ (s1 >>> 17) ^^^ (r1 >>> 26)
  (r1, n1, ((n1 + r1) >>> 11).toNat)

/-- One pruned element: x under the threshold t with the random integer u (R222). -/
def pruneElem (f : BitVec 4) (t x u : Nat) : Nat × BitVec 8 :=
  if isFloat f then
    let k := Fmt.ofCode f
    let a := k.read x
    let b := k.read t
    let nv := if b.isNan then flNV else 0
    let zero : Fp := .fin false 0 0
    match a, b with
    | .nan sig, _ => (k.nan, nv ||| (if sig then flNV else 0))
    | .inf _, _ => (x, nv)
    | _, .nan _ => (x, nv)
    | _, .inf neg => (if neg then x else k.zero false, nv)
    | a, .fin n m e =>
      if !(Fp.lt zero (.fin n m e)) then (x, nv)
      else if Fp.lt (.fin false (u * m) (e - 53)) a.abs then (x, nv) else (k.zero false, nv)
  else
    let w := fmtWidth f
    if sInt w t ≤ 0 then (x, 0)
    else if (u : Int) * sInt w t < (sInt w x).natAbs * (2 ^ 53 : Nat) then (x, 0) else (0, 0)

/-- The elements of `vprune` in ascending order, with the generator's state (R222). -/
def pruneLoop (act : BitVec 4096) (h : Hart) (a : Reg) (t : Nat) : List Nat → Word → Word → Out → Word × Word × Out
  | [], r0, r1, o => (r0, r1, o)
  | i :: is, r0, r1, o =>
    if !(h.todo i && act.getLsbD i) then pruneLoop act h a t is r0 r1 o
    else
      let x := h.elem a h.width i
      if h.live.toNat ≤ i then pruneLoop act h a t is r0 r1 (o.elem h h.width i x)
      else
        let g := rngNext r0 r1
        let q := pruneElem h.fmt t x g.2.2
        pruneLoop act h a t is g.1 g.2.1 ((o.elem h h.width i q.1).flags q.2)

/-- What `vprune` leaves of its hart (R222, R223). -/
def pruned (d a b : Reg) (act : BitVec 4096) (h : Hart) : Hart :=
  let r := pruneLoop act h a ((h.getA b).toNat % 2 ^ h.width) (List.range h.vl.toNat) h.rng0 h.rng1 Out.empty
  ((emitV d 4 r.2.2 { h with rng0 := r.1, rng1 := r.2.1 }).flag r.2.2.fl).progress0

/-- Some element draws from the generator (R222). -/
def drawsRng (act : BitVec 4096) (h : Hart) : Bool :=
  (List.range (min h.live.toNat h.vl.toNat)).any (fun i => h.todo i && act.getLsbD i)

/-- `vprune` (R222, R223); an uncorrectable error of the generator's state is met at the first element that draws from it
(R367). -/
def execVprune (w : BitVec 3) (d a b : Reg) (p : BitVec 3) (s : State) : Host.Outcome State Fault Refusal :=
  let i := vxrInfo w (some p) (.v d) [.v a, .a b] 4 false false (readsAt a) s
  run i s fun s =>
    let act := activeMask i s.me
    if s.ctlBad [0x31, 0x32] && drawsRng act s.me then .trap s .eccFatal 0 s.me.midway
    else .done (s.setMe (pruned d a b act s.me))

/-! ### Fetching ahead (R208) -/

/-- A fault met in looking for the next element of a walk lies in the bounds of its fibre (R208, R212). -/
def boundsFault (id : Nat) (k : StreamCore) (tval : Word) (s : State) : Bool :=
  (match k.ca.open id k.reader s with | .fault _ _ _ => true | _ => false) || tval == 0xFFFFFFFFFFFFFFFF

/-- `SPINDLE_FETCH`: the spindle of hart `h` reads one element ahead for stream `sr`; a fault is held on the first element
that depends on it, and nothing is fetched beyond (R208, R209). -/
def execSpindleFetch (h : Nat) (sr : SReg) (s : State) : Host.Outcome State Fault Refusal :=
  let t := (s.hart h).getS sr
  let put := fun (t : Stream) (s : State) => Host.Outcome.next (s.setHart h ((s.hart h).setS sr t))
  if !(s.hart h).mayFetch t then .next s
  else
    match t.ahead.step h s with
    | .ok (some e) s =>
      match fetchVal h t.ahead e s with
      | .ok e s => put { t with buf := t.buf ++ [e] } s
      | .fault c v s => put { t with buf := t.buf ++ [{ e with held := some { cause := c, tval := v, bounds := false } }] } s
      | .stall s => .next s
      | .leave s => .next s
    | .fault c v u => put { t with held := some { cause := c, tval := v, bounds := boundsFault h t.ahead v s } } u
    | .ok none s => .next s
    | .stall s => .next s
    | .leave s => .next s

end Sys2Proof.Machine
end

