-- ==== Sys2Proof/Machine/Grammar.lean ====
section
/-! DEFINITION. The grammar engine (R247-R255). -/

namespace Sys2Proof.Machine

/-- The fields of a descriptor of eight words, without its row map; none when a check of R250 fails (R247). -/
def grammarOf : List Word → Option (Grammar × Nat)
  | [w0, rtab, stab, dtab, omap, r5, r6, r7] =>
    let ncol := (w0.extractLsb' 44 20).toNat
    let ndict := (w0.extractLsb' 32 12).toNat
    let nrow := (w0.extractLsb' 16 13).toNat
    let nrules := (w0.extractLsb' 0 13).toNat
    if w0.extractLsb' 29 3 ≠ 0 ∨ w0.extractLsb' 13 3 ≠ 0 ∨ r5 ≠ 0 ∨ r6 ≠ 0 ∨ r7 ≠ 0 ∨ ncol = 0 ∨ ndict = 0
        ∨ 2048 < ndict ∨ nrow = 0 ∨ 4096 < nrow ∨ nrules = 0 ∨ 4096 < nrules ∨ rtab.toNat % 8 ≠ 0
        ∨ stab.toNat % 4 ≠ 0 ∨ dtab.toNat % 4 ≠ 0 ∨ omap.toNat % 4 ≠ 0 then none
    else
      some ({ ncol := ncol, ndict := ndict, nrow := nrow, nrules := nrules, rtab := rtab, stab := stab, dtab := dtab,
              omap := omap, rows := [] }, nrow)
  | _ => none

/-- Class-0 loads of `n` 32-bit words at rising addresses (R250). -/
def State.loadHalves (s : State) (va : Word) : Nat → Fetch (List Nat)
  | 0 => .ok [] s
  | n + 1 =>
    ((s.loadAt 0 .other va 4).at va).bind fun x s =>
      (State.loadHalves s (va + 4) n).bind fun xs s => .ok (x :: xs) s

/-- The grammar engine runs a `grm.eval` of another hart of the cluster (R171, R254, R297). -/
def State.engineBusy (s : State) : Bool :=
  (List.range 8).any (fun k =>
    let id := 16 * s.myCluster + k
    id != s.cur && (s.hart id).live? && (match (s.hart id).engaged with | some (.evaluating _) => true | _ => false))

/-- A `grm.*` waits for the engine (R171, R333). -/
def engineFree (s : State) (k : Res) : Res := if s.engineBusy then .wait s else k

/-- `grm.bind` (R250): it runs while `vbad` = 1. -/
def execGrmBind (w : BitVec 3) (a : Reg) (s : State) : Host.Outcome State Fault Refusal :=
  run { spinInfo w none [.a a] false with vec := false } s fun s => engineFree s <|
    let da := s.me.getA a
    if da.toNat % 64 != 0 then .trap s .misalign da false
    else
      (s.loadWords da 8).plain s fun ws t =>
        match grammarOf ws with
        | none => illegal t
        | some (g, n) =>
          (t.loadHalves g.omap n).plain s fun rows t =>
            if rows.any (fun r => decide (g.nrules ≤ r)) then illegal t
            else .done (t.setMyFast { t.myFast with gram := some { g with rows := rows }, rvalid := 0 })

/-! ### Evaluation (R251-R253) -/

/-- A `grm.eval` at work: its hart and its reads, the grammar, the address of x and the number of lanes. -/
structure Eval where
  id : Nat
  reader : Reader
  g : Grammar
  x : Word
  nb : Nat
  rm : BitVec 2
  /-- A stop falls after the rule in progress, and not only after its wave (R253). -/
  journal : Bool
  /-- An earlier turn has performed rules of it. -/
  begun : Bool
  /-- Rules below it are performed before a stop: one of them has stalled (R327). -/
  floor : Nat
  deriving DecidableEq, Repr

/-- A read of the engine through the spindle (R252). -/
def Eval.read (c : Eval) (u : Use) (va : Word) (n : Nat) (s : State) : Fetch Nat := spinRead c.id c.reader u va n s

/-- The header of rule ρ (R248). -/
def Eval.header (c : Eval) (ρ : Nat) (s : State) : Fetch Word :=
  (c.read .other (addrAt c.g.rtab ρ 8) 8 s).bind fun x s => .ok (BitVec.ofNat 64 x) s

/-- `dep` of a header (R248). -/
def headDep (h : Word) : Nat := (h.extractLsb' 48 4).toNat

/-- The F32 value in lane ℓ of a row of the rule-value file (R255). -/
def laneOf (row : BitVec 512) (l : Nat) : Nat := (row.extractLsb' (32 * l) 32).toNat

/-- Add a term to a lane's accumulator (R251): the exact product c × x, then one rounding to F80. -/
def addTerm (acc : Nat) (c x : Fp) : Nat × BitVec 8 :=
  let p := Fp.mul c x
  let t := Fp.add 0 (Fmt.f80.read acc) p.1
  let r := Fmt.f80.round 0 t.1
  (r.1, (p.2 ||| t.2 ||| r.2) &&& (flNV ||| flOF))

/-- Add a term to every lane, whose second factors are given. -/
def addTerms (c : Fp) : List Nat → List Nat → List Nat × BitVec 8
  | acc :: accs, x :: xs =>
    let r := addTerm acc c (Fmt.f32.read x)
    let q := addTerms c accs xs
    (r.1 :: q.1, r.2 ||| q.2)
  | _, _ => ([], 0)

/-- Read x of a column for lanes from `l` on (R251): per-element accesses (R323, R328). -/
def Eval.column (c : Eval) (col : Nat) : Nat → Nat → State → Fetch (List Nat)
  | 0, _, s => .ok [] s
  | n + 1, l, s =>
    (c.read .elem (addrAt c.x (col * c.nb + l) 4) 4 s).bind fun x s =>
      (Eval.column c col n (l + 1) s).bind fun xs s => .ok (x :: xs) s

/-- A terminal (R248, R251, R252). -/
def Eval.terminal (c : Eval) (y : Nat) (accs : List Nat) (s : State) : Fetch (List Nat × BitVec 8) :=
  let col := y / 2 ^ 11 % 2 ^ 20
  let vi := y % 2 ^ 11
  if c.g.ncol ≤ col then .fault .malformedCrd (BitVec.ofNat 64 col) s
  else if c.g.ndict ≤ vi then .fault .malformedCrd (BitVec.ofNat 64 y) s
  else
    (c.read .other (addrAt c.g.dtab vi 4) 4 s).bind fun d s =>
      (c.column col c.nb 0 s).bind fun xs s => .ok (addTerms (Fmt.f32.read d) accs xs) s

/-- The header of a rule that a nonterminal names, whose valid bit is `valid`: an invalid rule comes before a fault of that
read, in the order of R252. -/
def Eval.named (c : Eval) (id : Nat) (valid : Bool) (s : State) : Fetch Word :=
  match c.header id s with
  | .fault k v s => if valid then .fault k v s else .fault .ruleOrder (BitVec.ofNat 64 id) s
  | r => r

/-- A nonterminal of rule ρ of depth `dep` (R248, R251, R252). -/
def Eval.nonterminal (c : Eval) (ρ dep y : Nat) (accs : List Nat) (s : State) : Fetch (List Nat × BitVec 8) :=
  let id := y / 2 ^ 19 % 2 ^ 12
  let ci := y / 2 ^ 8 % 2 ^ 11
  if y % 2 ^ 8 ≠ 0 ∨ c.g.ndict ≤ ci then .fault .malformedCrd (BitVec.ofNat 64 y) s
  else if c.g.nrules ≤ id then .fault .ruleOrder (BitVec.ofNat 64 id) s
  else
    (c.named id ((s.fast (clusterOf c.id)).rvalid.getLsbD id) s).bind fun h s =>
      let f := s.fast (clusterOf c.id)
      if headDep h == 15 then .fault .ruleDepth (BitVec.ofNat 64 ρ) s
      else if dep ≤ headDep h ∨ f.rvalid.getLsbD id = false then .fault .ruleOrder (BitVec.ofNat 64 id) s
      else if s.sharedBad (clusterOf c.id) 2 id then .fault .eccFatal 0 s
      else
        let row := f.rvf.toList[id]?.getD 0
        let xs := (List.range c.nb).map (laneOf row)
        if ci = 0 then .ok (addTerms (.fin false 1 0) accs xs) s
        else (c.read .other (addrAt c.g.dtab ci 4) 4 s).bind fun d s => .ok (addTerms (Fmt.f32.read d) accs xs) s

/-- The symbols of rule ρ from symbol `q` on, left to right (R251). -/
def Eval.symbols (c : Eval) (ρ dep : Nat) : Nat → Nat → List Nat → BitVec 8 → State → Fetch (List Nat × BitVec 8)
  | 0, _, accs, fl, s => .ok (accs, fl) s
  | n + 1, q, accs, fl, s =>
    (c.read .other (addrAt c.g.stab q 4) 4 s).bind fun y s =>
      (if 2 ^ 31 ≤ y then c.nonterminal ρ dep y accs s else c.terminal y accs s).bind fun r s =>
        Eval.symbols c ρ dep n (q + 1) r.1 (fl ||| r.2) s

/-- A row of the rule-value file from the lanes of a rule: each rounded to F32, the rest +0 (R251). -/
def rowOf (rm : BitVec 2) : Nat → List Nat → BitVec 512 × BitVec 8
  | _, [] => (0, 0)
  | l, acc :: accs =>
    let r := Fmt.f32.round rm (Fmt.f80.read acc)
    let q := rowOf rm (l + 1) accs
    (q.1 ||| (BitVec.ofNat 512 r.1 <<< (32 * l)), q.2 ||| r.2)

/-- The depth of the rule below ρ, which that of ρ must not be below (R252). -/
def Eval.below (c : Eval) (ρ : Nat) (s : State) : Fetch Nat :=
  match ρ with
  | 0 => .ok 0 s
  | r + 1 => (c.header r s).bind fun h s => .ok (headDep h) s

/-- Rule ρ with its header and the depth below it checked: its row and flags (R251, R252). -/
def Eval.rule (c : Eval) (ρ : Nat) (h : Word) (s : State) : Fetch (BitVec 512 × BitVec 8) :=
  let first := (h.extractLsb' 0 32).toNat
  let cnt := (h.extractLsb' 32 16).toNat
  (c.symbols ρ (headDep h) cnt first (List.replicate c.nb 0) 0 s).bind fun r s =>
    let q := rowOf c.rm 0 r.1
    .ok (q.1, r.2 ||| q.2) s

/-- A header that is malformed (R252). -/
def headBad (h : Word) : Bool :=
  h.extractLsb' 52 12 != 0 || decide (2 ^ 32 < (h.extractLsb' 0 32).toNat + (h.extractLsb' 32 16).toNat)

/-- The header of rule ρ, checked against that of the rule before it, and the depth of that rule (R252). -/
def Eval.head (c : Eval) (ρ : Nat) (s : State) : Fetch (Word × Nat) :=
  (c.header ρ s).bind fun h s =>
    if headBad h then .fault .malformedCrd (h.extractLsb' 0 32 |>.setWidth 64) s
    else
      (c.below ρ s).bind fun d s =>
        if headDep h < d then .fault .ruleOrder (BitVec.ofNat 64 ρ) s else .ok (h, d) s

/-- What the evaluation of a range comes to: the end, a fault at a rule, a stop before a rule (R253), or the end of this
turn at a rule: in a stage-2 stall, or with the next rule to come in a turn of its own. -/
inductive EvalEnd where
  | fin (fl : BitVec 8) (s : State)
  | trap (ρ : Nat) (c : Cause) (tval : Word) (fl : BitVec 8) (s : State)
  | cut (ρ : Nat) (fl : BitVec 8) (s : State)
  | turn (ρ : Nat) (fl : BitVec 8) (s : State)
  | stall (ρ : Nat) (fl : BitVec 8) (s : State)

/-- Write the row of a rule and set its valid bit (R251). -/
def State.putRule (s : State) (ρ : Nat) (row : BitVec 512) : State :=
  let f := s.myFast
  (s.healShared s.myCluster 2 (fun n => n == ρ)).setMyFast
    { f with rvf := f.rvf.setIfInBounds ρ row, rvalid := f.rvalid ||| (1#4096 <<< ρ) }

/-- The rules of a range in ascending id (R252). `left` is the number of rules after which a stop is due, where one is;
it is taken before the next rule in journal mode, without a look at that rule, and before the next wave in drain mode
(R253). While accesses perform apart (log entry 7) each rule is a turn of its own. -/
def evalLoop (c : Eval) : List Nat → Bool → Option Nat → BitVec 8 → State → EvalEnd
  | [], _, _, fl, s => .fin fl s
  | ρ :: ρs, some?, left, fl, s =>
    let due := (some? || c.begun) && left == some 0 && decide (c.floor ≤ ρ)
    if due && c.journal then .cut ρ fl s
    else if some? && s.queued then .turn ρ fl s
    else
    match c.head ρ s with
    | .fault k t s => .trap ρ k t fl s
    | .stall s => .stall ρ fl s
    | .leave s => .stall ρ fl s
    | .ok (h, d) s =>
      if due && decide (d < headDep h) then .cut ρ fl s
      else
        match c.rule ρ h s with
        | .fault k t s => .trap ρ k t fl s
        | .stall s => .stall ρ fl s
        | .leave s => .stall ρ fl s
        | .ok r s => evalLoop c ρs true (left.map (· - 1)) (fl ||| r.2) (s.putRule ρ r.1)

/-- What makes `grm.eval` ILLEGAL (R251). -/
def evalBad (h : Hart) (f : Fast) (a b : Reg) : Bool :=
  let x := h.getA a
  x.extractLsb' 32 32 != 0 || x.extractLsb' 25 3 != 0 || (h.getA b).toNat % 4 != 0
    || (match f.gram with
        | some g => decide (g.nrules < (x.extractLsb' 0 12).toNat + (x.extractLsb' 12 13).toNat)
        | none => true)

/-- The end of `grm.eval` or of a turn of it (R252, R253): the hart has the engine until its evaluation ends (R171). A stop
sets `tstat.mid` as R253 says, where R335 leaves `tstat` as it is for other stops (DEDUCED, log entry 44). -/
def EvalEnd.res (e : EvalEnd) (views : List (Nat × Nat)) : Res :=
  match e with
  | .fin fl s => .done (s.setMe { (s.me.flag fl).progress0 with engaged := none })
  | .trap ρ c t fl s => .trap (s.setMe ((s.me.flag fl).progressAt ρ)) c t true
  | .cut ρ fl s =>
    .leave ((s.setMe { (s.me.flag fl).progressAt ρ with tstat := s.me.tstat ||| 2 }).takeStop s.cur 3)
  | .turn ρ fl s => .stall (s.setMe { (s.me.flag fl).progressAt ρ with engaged := some (.evaluating views) })
  | .stall ρ fl s =>
    .stall (s.setMe { (s.me.flag fl).progressAt ρ with engaged := some (.evaluating views), floor := ρ + 1 })

/-- The backings that a `grm.eval` has chosen at its issue (R191). -/
def State.evalViews (s : State) : List (Nat × Nat) :=
  match s.me.engaged with
  | some (.evaluating v) => v
  | _ => s.views s.cur

/-- `grm.eval` (R251-R253): it runs while `vbad` = 1. Its units are rules, and it goes on from `estart` alone (R252). -/
def execGrmEval (w : BitVec 3) (a b : Reg) (s : State) : Host.Outcome State Fault Refusal :=
  let h := s.me.settle s.me.now
  run { spinInfo w none [.a a, .a b] (evalBad h s.myFast a b) with vec := false } s fun s => engineFree s <|
    match s.myFast.gram with
    | none => illegal s
    | some g =>
      let x := s.me.getA a
      let c : Eval :=
        { id := s.cur, reader := { priv := s.me.priv, views := s.evalViews }, g := g, x := s.me.getA b
          nb := (x.extractLsb' 28 4).toNat + 1, rm := s.me.rm, journal := s.journal,
          begun := (match s.me.engaged with | some (.evaluating _) => true | _ => false), floor := s.me.floor }
      let ρa := (x.extractLsb' 0 12).toNat
      let todo := (List.range' ρa (x.extractLsb' 12 13).toNat).filter (fun ρ => decide (s.me.estart.toNat ≤ ρ))
      let q := s.windowCut
      (evalLoop c todo false q.1 0 q.2.startStream).res s.evalViews

/-! ### Output (R254) -/

/-- The rule of row j0 + i, where there is such a row (R254). -/
def outRule (g : Grammar) (j0 i : Nat) : Option Nat := if j0 + i < g.nrow then g.rows[j0 + i]? else none

/-- The elements of `grm.out` (R254). -/
def outLoop (act : BitVec 4096) (h : Hart) (f : Fast) (g : Grammar) (j0 l : Nat) : List Nat → Out → Out
  | [], o => o
  | i :: is, o =>
    if act.getLsbD i then
      let r : Nat × BitVec 8 := match outRule g j0 i with
        | some ρ => h.fp.round h.rm (Fmt.f32.read (laneOf (f.rvf.toList[ρ]?.getD 0) l))
        | none => (0, 0)
      outLoop act h f g j0 l is ((o.elem h h.width i r.1).flags r.2)
    else outLoop act h f g j0 l is o

/-- A row that `grm.out` reads carries an uncorrectable error (R367). -/
def State.outBad (s : State) (act : BitVec 4096) (n : Nat) (g : Grammar) (j0 : Nat) : Bool :=
  (List.range n).any (fun i =>
    act.getLsbD i && (match outRule g j0 i with | some ρ => s.sharedBad s.myCluster 2 ρ | none => false))

/-- The first active element whose rule has no valid value (R254). -/
def outMissing (act : BitVec 4096) (n : Nat) (f : Fast) (g : Grammar) (j0 : Nat) : Option Nat :=
  (List.range n).findSome? (fun i =>
    if act.getLsbD i then (outRule g j0 i).filter (fun ρ => !f.rvalid.getLsbD ρ) else none)

/-- `grm.out` (R254). -/
def execGrmOut (w : BitVec 3) (d a b : Reg) (p : BitVec 3) (s : State) : Host.Outcome State Fault Refusal :=
  let h := s.me.settle s.me.now
  let i := { spinInfo w (some (.v d)) [.a a, .a b]
      (s.myFast.gram.isNone || decide (15 < (h.getA b).toNat) || !isFloat h.fmt) with
    pred := some p, lending := .bits }
  run i s fun s => engineFree s <|
    match s.myFast.gram with
    | none => illegal s
    | some g =>
      let h := s.me
      let act := activeMask i h
      let j0 := (h.getA a).toNat
      match outMissing act h.vl.toNat s.myFast g j0 with
      | some ρ => .trap s .ruleOrder (BitVec.ofNat 64 ρ) false
      | none =>
        if s.outBad act h.vl.toNat g j0 then .trap s .eccFatal 0 false else
        let o := outLoop act h s.myFast g j0 (h.getA b).toNat (List.range h.vl.toNat) Out.empty
        .done (s.setMe (((h.putLanes d o.d 0).flag o.fl).progress0))

end Sys2Proof.Machine
end

