-- ==== Sys2Proof/Machine/Ebank.lean ====
section
/-! DEFINITION. Every-bank accesses: bank sets, loads that combine, stores and posted atomics (R25, R147-R153,
R173-R177, R186, R187). -/

namespace Sys2Proof.Machine

/-! ### Bank sets -/

/-- What reading a bank set gives: a valid set, no valid set (R175), an uncorrectable error, or a stall. -/
inductive SetRead where
  | ok (b : BankSet) (s : State)
  | bad (s : State)
  | ecc (va : Word) (s : State)
  | stall (s : State)

/-- Go on with what a read of the table or a descriptor gives: a translation fault makes the set invalid (R175). -/
def Fetch.set {α : Type} (a : Fetch α) (k : α → State → SetRead) : SetRead :=
  match a with
  | .ok x s => k x s
  | .fault c va s => if c == .eccFatal then .ecc va s else .bad s
  | .stall s => .stall s
  | .leave s => .bad s

/-- The table entry of a set is valid (R173). -/
def entryGood (e : Word) : Bool := e.getLsbD 0 && e.extractLsb' 56 8 == 0 && e.extractLsb' 1 5 == 0

/-- The head of a descriptor is valid (R174): bank count and size. -/
def descGood (n size : Word) : Bool :=
  decide (2 ≤ n.toNat ∧ n.toNat ≤ 64) && size.extractLsb' 52 12 == 0 && size != 0 && size.toNat % 8 == 0

/-- A bank base is valid (R174). -/
def baseGood (b : Word) : Bool := b.extractLsb' 56 8 == 0 && b.extractLsb' 0 6 == 0

/-- Read a set from the table at `bstp` and keep it (R147, R173-R176): the reads follow every earlier store of the
hart. -/
def State.readSet (s : State) (id : BitVec 12) : SetRead :=
  match s.me.banks.find? (fun b => b.id == id) with
  | some b => .ok b s
  | none =>
    let s := s.drain s.cur (fun _ => true)
    let ea := addrAt s.me.bstp id.toNat 8
    ((s.loadAt 0 .other ea 8).at ea).set fun e s =>
      let e : Word := BitVec.ofNat 64 e
      if !entryGood e then .bad s
      else
        let da := e &&& 0x00FFFFFFFFFFFFC0
        (s.loadWords da 2).set fun hd s =>
          let n := hd.headD 0
          let size := hd.tail.headD 0
          if !descGood n size then .bad s
          else
            (s.loadWords (da + 16) n.toNat).set fun bs s =>
              if bs.all baseGood then
                let b : BankSet := { id := id, size := size.toNat, bases := bs }
                .ok b (s.setMe { s.me with banks := s.me.banks ++ [b] })
              else .bad s

/-- The set of an every-bank address: PERM at issue when it is not valid (R147); progress held from before stays valid
(R33, R103). -/
def withSet (e : Word) (s0 : State) (k : BankSet → State → Res) : Res :=
  match s0.readSet (e.extractLsb' 52 12) with
  | .ok b s => k b s
  | .bad s => .trap s .perm e s0.me.midway
  | .ecc va s => .trap s .eccFatal va s0.me.midway
  | .stall s => .stall (s0.rollback s)

/-- The offset of an every-bank address (R147). -/
def offsetOf (e : Word) : Nat := (e.extractLsb' 0 52).toNat

/-- What stops an element of size n at offset o in every bank (R147). -/
def offsetFault (b : BankSet) (o n : Nat) : Option Cause :=
  if o % n != 0 then some .misalign else if b.size < o + n then some .perm else none

/-- The banks of an element with the addresses of its parts (R147). -/
def partsOf (b : BankSet) (o : Nat) : List (Nat × Word) :=
  (List.range b.bases.length).map (fun k => (k, (b.bases[k]?.getD 0) + BitVec.ofNat 64 o))

/-! ### One element in every bank (R149-R152) -/

/-- What the banks of an element have come to: the combination so far, the banks done, flags, and whether a bank was
not permitted. -/
structure Banks where
  acc : Option Nat
  done : Word
  fl : BitVec 8
  miss : Bool
  deriving DecidableEq, Repr

/-- What going through the banks of an element gives. -/
inductive BankEnd where
  | fin (b : Banks) (s : State)
  | ecc (va : Word) (s : State)
  | stall (s : State)

/-- Read the unmarked banks of an element in ascending order and combine them (R149, R152). -/
def loadBanks (cls : BitVec 4) (u : Use) (n : Nat) (f : Combine) : List (Nat × Word) → Banks → State → BankEnd
  | [], b, s => .fin b s
  | (k, va) :: ps, b, s =>
    if b.done.getLsbD k then loadBanks cls u n f ps b s
    else
      match s.loadAt cls u va n with
      | .ok x s =>
        let r := match b.acc with
          | none => (x, 0)
          | some y => f y x
        loadBanks cls u n f ps { b with acc := some r.1, done := b.done ||| (1#64 <<< k), fl := b.fl ||| r.2 } s
      | .trap c s => if c == .eccFatal then .ecc va s else loadBanks cls u n f ps { b with miss := true } s
      | .stall s => .stall s

/-- Translate the unmarked banks of an element; the keys of those permitted (R150-R152). -/
def xlateBanks (k : Kind) (u : Use) : List (Nat × Word) → Banks → List (Nat × Word) → State →
    BankEnd × List (Nat × Word)
  | [], b, keys, s => (.fin b s, keys)
  | (i, va) :: ps, b, keys, s =>
    if b.done.getLsbD i then xlateBanks k u ps b keys s
    else
      match s.xlate (s.who s.cur) k u va with
      | .ok key s => xlateBanks k u ps { b with done := b.done ||| (1#64 <<< i) } (keys ++ [(key, va)]) s
      | .trap c s =>
        if c == .eccFatal then (.ecc va s, keys) else xlateBanks k u ps { b with miss := true } keys s
      | .stall s => (.stall s, keys)

/-- Issue the permitted parts of a store (R150, R182, R186). -/
def State.issueParts (s : State) (cls : BitVec 4) (n x : Nat) (keys : List (Nat × Word)) : State :=
  keys.foldl (fun s p =>
    (s.drainPosted s.cur (fun q => q.cls == cls && q.key / 8 == p.1 / 8)).issueStore s.cur cls (cellsOf p.1 n x)) s

/-- Hand the permitted parts of an atomic to the fabric, after the earlier accesses of the class (R151, R186). -/
def State.postParts (s : State) (cls : BitVec 4) (op : AmoOp) (x : Word) (keys : List (Nat × Word)) : State :=
  let s := s.drain s.cur (fun q => q.cls == cls)
  let ps := keys.map (fun p => ({ cls := cls, key := p.1, op := op, operand := x, va := p.2 } : Posted))
  s.setMe { s.me with posted := s.me.posted ++ ps }

/-- The banks marked in `bdone` have performed before trap entry (R187). -/
def State.settleParts (s : State) (cls : BitVec 4) : State :=
  (s.drain s.cur (fun q => q.cls == cls)).drainPosted s.cur (fun p => p.cls == cls)

/-- The banks of an element of an every-bank load wait in their class queue, and its combination for all of them (R184, log
entry 7): none where `queued` is clear, where a bank is not permitted or carries an error, or where no bank is left. -/
def State.lateBanks (s : State) (cls : BitVec 4) (u : Use) (n : Nat) (op : CombOp) (fmt : BitVec 4) (parts : List (Nat × Word))
    (b : Banks) (p : Place) : Option State :=
  if s.queued then
    match xlateBanks .load u parts b [] s with
    | (.fin r t, keys) =>
      if r.miss || keys.isEmpty || keys.any (fun k => t.badAt k.1) then none
      else
        let g := t.openGather keys.length (.banks op fmt s.me.rm b.acc p)
        some (g.2.issueLate cls (keys.zipIdx.map (fun k =>
          { va := k.1.2, key := k.1.1, n := n, use := .part g.1 k.2 })))
    | _ => none
  else none

/-- An every-bank instruction has completed: `bdone` and the element progress are cleared (R25, R27). -/
def Hart.bankDone (h : Hart) : Hart := { h.progress0 with bdone := 0 }

/-- EBANK-PARTIAL at element i (R152). -/
def partial152 (s : State) (i : Nat) (done : Word) (tval : Word) : Res :=
  .trap (s.setMe { s.me.progressAt i with bdone := done }) .ebankPartial tval true

/-! ### Scalar forms -/

/-- Issue of a scalar every-bank form. -/
def ebankInfo (w : BitVec 3) (d : Option Dst) (srcs : List Dst) : Info := scalarInfo w d srcs 0

/-- A scalar every-bank load (R147-R149, R152). -/
def ebankLoad (w : BitVec 3) (d a b : Reg) (c : BitVec 4) (op : CombOp) (s : State) :
    Host.Outcome State Fault Refusal :=
  let srcs := if s.me.bdone = 0 then [Dst.a a, .a b] else [.a a, .a b, .a d]
  run (ebankInfo w (some (.a d)) srcs) s fun s =>
    let e := s.me.getA a + s.me.getA b
    withSet e s fun bs t =>
      match offsetFault bs (offsetOf e) 8 with
      | some x => .trap t x e t.me.midway
      | none =>
        let h := t.me
        let b0 : Banks :=
          { acc := if h.bdone = 0 then none else some (h.getA d).toNat, done := h.bdone, fl := 0, miss := false }
        match t.lateBanks c .other 8 op 4 (partsOf bs (offsetOf e)) b0 (h.placeA d) with
        | some t => .done (t.setMe t.me.bankDone)
        | none =>
          match loadBanks c .other 8 (op.fn 64 .f64 h.rm) (partsOf bs (offsetOf e)) b0 t with
          | .stall t => .stall (s.rollback t)
          | .ecc va t => .trap t .eccFatal va t.me.midway
          | .fin r t =>
            let h := t.me.flag r.fl
            let h := match r.acc with
              | some x => h.setA d (BitVec.ofNat 64 x) 0
              | none => h
            if r.miss then partial152 (t.setMe h) 0 r.done e else .done (t.setMe h.bankDone)

/-- A scalar every-bank store or atomic (R147, R150-R152): `k` the kind of access, `issue` what is done with the
permitted parts. Where the parts of a store wait in their queue, the hart stalls with them marked in `bdone` before it traps
EBANK-PARTIAL: they perform one by one, in any order, before the trap (R187). -/
def ebankWrite (w : BitVec 3) (d a b : Reg) (c : BitVec 4) (k : Kind)
    (issue : State → Word → List (Nat × Word) → State) (s : State) : Host.Outcome State Fault Refusal :=
  run (ebankInfo w none [.a a, .a b, .a d]) s fun s =>
    let e := s.me.getA a + s.me.getA b
    withSet e s fun bs t =>
      match offsetFault bs (offsetOf e) 8 with
      | some x => .trap t x e t.me.midway
      | none =>
        let b0 : Banks := { acc := none, done := t.me.bdone, fl := 0, miss := false }
        match xlateBanks k .other (partsOf bs (offsetOf e)) b0 [] t with
        | (.stall t, _) => .stall (s.rollback t)
        | (.ecc va t, _) => .trap t .eccFatal va t.me.midway
        | (.fin r t, keys) =>
          let t := issue t (t.me.getA d) keys
          if r.miss then
            if t.queued && !keys.isEmpty then .stall (t.setMe { t.me with bdone := r.done })
            else partial152 (t.settleParts c) 0 r.done e
          else .done (t.setMe t.me.bankDone)

/-! ### Vector forms -/

/-- Issue of a vector every-bank form: only a prefix predicates it; no Q4X, no I4, and `fadd` needs a floating-point
format (R148). -/
def vebankInfo (w : BitVec 3) (d : Option Dst) (srcs : List Dst) (fadd : Bool) (s : State) : Info :=
  { vmemInfo w none d srcs (s.me.isQ4x || s.me.isI4 || (fadd && !isFloat s.me.fmt)) s with lending := .bits }

/-- The banks an element has done before: `bdone` belongs to element `estart` alone (R152). -/
def doneBefore (h : Hart) (i : Nat) : Word := if i = h.estart.toNat then h.bdone else 0

/-- How a loop over every-bank elements ends: through, or stopped at an element with its banks done; with what has been read
and what waits in its class queue. -/
inductive ElemEnd where
  | fin (o late : Out) (s : State)
  | stop (i : Nat) (c : Cause) (tval : Word) (done : Word) (o late : Out) (s : State)
  | stall (i : Nat) (s : State)

/-- The loop of `vld.e.*` (R149, R152). An element that is both pad and inactive is written +0 as a pad: R149 states both
(DEDUCED, log entry 43). -/
def bankLoadLoop (cls : BitVec 4) (h : Hart) (act : BitVec 4096) (e : Word) (bs : BankSet) (d : Reg) (op : CombOp) :
    List Nat → Out → Out → State → ElemEnd
  | [], o, late, s => .fin o late s
  | i :: is, o, late, s =>
    let n := h.esize
    let tv := addrAt e i n
    if !h.todo i then bankLoadLoop cls h act e bs d op is o late s
    else if h.live.toNat ≤ i then bankLoadLoop cls h act e bs d op is (o.elem h h.width i 0) late s
    else if !act.getLsbD i then bankLoadLoop cls h act e bs d op is o late s
    else
      match offsetFault bs (offsetOf e + i * n) n with
      | some x => .stop i x tv (doneBefore h i) o late s
      | none =>
        let b0 : Banks :=
          { acc := if doneBefore h i = 0 then none else some (h.elem d h.width i), done := doneBefore h i, fl := 0,
            miss := false }
        match s.lateBanks cls .other n op h.fmt (partsOf bs (offsetOf e + i * n)) b0 (h.placeOf d i) with
        | some s => bankLoadLoop cls h act e bs d op is o (late.elem h h.width i 0) s
        | none =>
          match loadBanks cls .other n (op.fn h.width h.fp h.rm) (partsOf bs (offsetOf e + i * n)) b0 s with
          | .stall s => .stall i s
          | .ecc va s => .stop i .eccFatal va (doneBefore h i) o late s
          | .fin r s =>
            let o := match r.acc with
              | some x => o.elem h h.width i x
              | none => o
            if r.miss then .stop i .ebankPartial tv r.done (o.flags r.fl) late s
            else bankLoadLoop cls h act e bs d op is (o.flags r.fl) late s

/-- The loop of `vst.e` (R150, R152). -/
def bankStoreLoop (cls : BitVec 4) (h : Hart) (act : BitVec 4096) (e : Word) (bs : BankSet) (d : Reg) :
    List Nat → State → ElemEnd
  | [], s => .fin Out.empty Out.empty s
  | i :: is, s =>
    let n := h.esize
    let tv := addrAt e i n
    if !(h.todo i && decide (i < h.live.toNat) && act.getLsbD i) then bankStoreLoop cls h act e bs d is s
    else
      match offsetFault bs (offsetOf e + i * n) n with
      | some x => .stop i x tv (doneBefore h i) Out.empty Out.empty s
      | none =>
        let b0 : Banks := { acc := none, done := doneBefore h i, fl := 0, miss := false }
        match xlateBanks .store .other (partsOf bs (offsetOf e + i * n)) b0 [] s with
        | (.stall s, _) => .stall i s
        | (.ecc va s, _) => .stop i .eccFatal va (doneBefore h i) Out.empty Out.empty s
        | (.fin r s, keys) =>
          let s := s.issueParts cls n (h.elem d h.width i) keys
          if r.miss then .stop i .ebankPartial tv r.done Out.empty Out.empty s
          else bankStoreLoop cls h act e bs d is s

/-- A form whose loop was cut before it performed an element: the banks done of element `estart` stay done (R25, R152). -/
def cutAtStart (cut : Option Cut) (n : Nat) (h : Hart) : Bool :=
  match cut with
  | some c => decide (c.elem < n ∧ c.elem ≤ h.estart.toNat)
  | none => false

/-- The backings that a form keeps for its next turn, where its turn ends within it (R191). -/
def State.keepViews (s : State) (cut : Option Cut) (n : Nat) : Option Engaged :=
  match cut with
  | some (.window k) => if k < n && s.partly.isSome then some (.viewing (s.views s.cur)) else none
  | _ => none

/-- The end of a vector every-bank form (R152, R187) on register d of a load, none for a store; the parts of a store that wait
in their queue perform before the trap, as for the scalar forms. -/
def ElemEnd.res (x : ElemEnd) (s0 : State) (cut : Option Cut) (n : Nat) (cls : BitVec 4) (d : Option Reg) : Res :=
  let put := fun (o late : Out) (s : State) => match d with
    | some d => (s.healOut d o late).setMe ((emitV d 0 o s.me).expect d late)
    | none => s
  match x with
  | .fin o late s =>
    let s := put o late s
    (s.setMe { s.me.flag o.fl with
      bdone := if cutAtStart cut n s.me then s.me.bdone else 0, engaged := s.keepViews cut n }).endOrStop cut n
  | .stop i c tv done o late s =>
    if c == .ebankPartial && d.isNone && s.queued && decide (s0.me.queue.length < s.me.queue.length) then
      .stall (s.setMe { (s.me.flag o.fl).progressAt i with bdone := done })
    else
    let s := (put o late s).settleParts cls
    .trap (s.setMe { (s.me.flag o.fl).progressAt i with bdone := done }) c tv true
  | .stall i s => .stall (s0.stuck s i)

/-- A vector every-bank load (R147-R149, R152). -/
def vebankLoad (w : BitVec 3) (d a b : Reg) (c : BitVec 4) (op : CombOp) (s : State) :
    Host.Outcome State Fault Refusal :=
  let srcs := if s.me.bdone = 0 then [Dst.a a, .a b] else [.a a, .a b, .v d]
  let i := vebankInfo w (some (.v d)) srcs (op == .fadd) s
  run i s fun s =>
    let e := s.me.getA a + s.me.getA b
    withSet e s fun bs t =>
      let h := t.me
      let n := h.vl.toNat
      let q := t.elemCut i.srcs (activeMask i h) (min h.live.toNat n)
      (bankLoadLoop c h (activeMask i h) e bs d op (upTo q.1 n) Out.empty Out.empty q.2).res s q.1 n c (some d)

/-! ### The loads that combine (R148, R149) -/

/-- `ld.e.add` (R148, R149). -/
def execLdEAdd (w : BitVec 3) (d a b : Reg) (c : BitVec 4) (s : State) : Host.Outcome State Fault Refusal :=
  ebankLoad w d a b c .add s

/-- `ld.e.fadd` (R148, R149). -/
def execLdEFadd (w : BitVec 3) (d a b : Reg) (c : BitVec 4) (s : State) : Host.Outcome State Fault Refusal :=
  ebankLoad w d a b c .fadd s

/-- `ld.e.min` (R148, R149). -/
def execLdEMin (w : BitVec 3) (d a b : Reg) (c : BitVec 4) (s : State) : Host.Outcome State Fault Refusal :=
  ebankLoad w d a b c .min s

/-- `ld.e.max` (R148, R149). -/
def execLdEMax (w : BitVec 3) (d a b : Reg) (c : BitVec 4) (s : State) : Host.Outcome State Fault Refusal :=
  ebankLoad w d a b c .max s

/-- `ld.e.minn` (R148, R149). -/
def execLdEMinn (w : BitVec 3) (d a b : Reg) (c : BitVec 4) (s : State) : Host.Outcome State Fault Refusal :=
  ebankLoad w d a b c .minn s

/-- `ld.e.maxn` (R148, R149). -/
def execLdEMaxn (w : BitVec 3) (d a b : Reg) (c : BitVec 4) (s : State) : Host.Outcome State Fault Refusal :=
  ebankLoad w d a b c .maxn s

/-- `ld.e.and` (R148, R149). -/
def execLdEAnd (w : BitVec 3) (d a b : Reg) (c : BitVec 4) (s : State) : Host.Outcome State Fault Refusal :=
  ebankLoad w d a b c .and s

/-- `ld.e.or` (R148, R149). -/
def execLdEOr (w : BitVec 3) (d a b : Reg) (c : BitVec 4) (s : State) : Host.Outcome State Fault Refusal :=
  ebankLoad w d a b c .or s

/-- `ld.e.xor` (R148, R149). -/
def execLdEXor (w : BitVec 3) (d a b : Reg) (c : BitVec 4) (s : State) : Host.Outcome State Fault Refusal :=
  ebankLoad w d a b c .xor s

/-- `st.e` (R150). -/
def execStE (w : BitVec 3) (d a b : Reg) (c : BitVec 4) (s : State) : Host.Outcome State Fault Refusal :=
  ebankWrite w d a b c .store (fun s x keys => s.issueParts c 8 x.toNat keys) s

/-- `amo.e.add` (R151). -/
def execAmoEAdd (w : BitVec 3) (d a b : Reg) (c : BitVec 4) (s : State) : Host.Outcome State Fault Refusal :=
  ebankWrite w d a b c .atomic (fun s x keys => s.postParts c .add x keys) s

/-- `amo.e.or` (R151). -/
def execAmoEOr (w : BitVec 3) (d a b : Reg) (c : BitVec 4) (s : State) : Host.Outcome State Fault Refusal :=
  ebankWrite w d a b c .atomic (fun s x keys => s.postParts c .or x keys) s

/-- `amo.e.and` (R151). -/
def execAmoEAnd (w : BitVec 3) (d a b : Reg) (c : BitVec 4) (s : State) : Host.Outcome State Fault Refusal :=
  ebankWrite w d a b c .atomic (fun s x keys => s.postParts c .and x keys) s

/-- `amo.e.max` (R151). -/
def execAmoEMax (w : BitVec 3) (d a b : Reg) (c : BitVec 4) (s : State) : Host.Outcome State Fault Refusal :=
  ebankWrite w d a b c .atomic (fun s x keys => s.postParts c .max x keys) s

/-- `vld.e.add` (R148, R149). -/
def execVldEAdd (w : BitVec 3) (d a b : Reg) (c : BitVec 4) (s : State) : Host.Outcome State Fault Refusal :=
  vebankLoad w d a b c .add s

/-- `vld.e.fadd` (R148, R149). -/
def execVldEFadd (w : BitVec 3) (d a b : Reg) (c : BitVec 4) (s : State) : Host.Outcome State Fault Refusal :=
  vebankLoad w d a b c .fadd s

/-- `vld.e.min` (R148, R149). -/
def execVldEMin (w : BitVec 3) (d a b : Reg) (c : BitVec 4) (s : State) : Host.Outcome State Fault Refusal :=
  vebankLoad w d a b c .min s

/-- `vld.e.max` (R148, R149). -/
def execVldEMax (w : BitVec 3) (d a b : Reg) (c : BitVec 4) (s : State) : Host.Outcome State Fault Refusal :=
  vebankLoad w d a b c .max s

/-- `vld.e.minn` (R148, R149). -/
def execVldEMinn (w : BitVec 3) (d a b : Reg) (c : BitVec 4) (s : State) : Host.Outcome State Fault Refusal :=
  vebankLoad w d a b c .minn s

/-- `vld.e.maxn` (R148, R149). -/
def execVldEMaxn (w : BitVec 3) (d a b : Reg) (c : BitVec 4) (s : State) : Host.Outcome State Fault Refusal :=
  vebankLoad w d a b c .maxn s

/-- `vld.e.and` (R148, R149). -/
def execVldEAnd (w : BitVec 3) (d a b : Reg) (c : BitVec 4) (s : State) : Host.Outcome State Fault Refusal :=
  vebankLoad w d a b c .and s

/-- `vld.e.or` (R148, R149). -/
def execVldEOr (w : BitVec 3) (d a b : Reg) (c : BitVec 4) (s : State) : Host.Outcome State Fault Refusal :=
  vebankLoad w d a b c .or s

/-- `vld.e.xor` (R148, R149). -/
def execVldEXor (w : BitVec 3) (d a b : Reg) (c : BitVec 4) (s : State) : Host.Outcome State Fault Refusal :=
  vebankLoad w d a b c .xor s

/-- `vst.e` (R150, R152). -/
def execVstE (w : BitVec 3) (d a b : Reg) (c : BitVec 4) (s : State) : Host.Outcome State Fault Refusal :=
  let i := vebankInfo w none [.a a, .a b, .v d] false s
  run i s fun s =>
    let e := s.me.getA a + s.me.getA b
    withSet e s fun bs t =>
      let h := t.me
      let n := h.vl.toNat
      let q := t.elemCut i.srcs (activeMask i h) (min h.live.toNat n)
      (bankStoreLoop c h (activeMask i h) e bs d (upTo q.1 n) q.2).res s q.1 n c none

end Sys2Proof.Machine
end

