-- ==== Sys2Proof/Machine/Mem.lean ====
section
/-! DEFINITION. Major MEM: scalar loads and stores (R90, R91). -/

namespace Sys2Proof.Machine

/-- A scalar load of `n` bytes, zero-extended (R90, R91): performed at once, or, with `queued` set, left in its class queue,
its register waiting for it (R184, log entry 7). -/
def scalarLoad (w : BitVec 3) (d a b : Reg) (c : BitVec 4) (n : Nat) (s : State) :
    Host.Outcome State Fault Refusal :=
  run (scalarInfo w (some (.a d)) [.a a, .a b] 0) s fun s =>
    let va := s.me.getA a + s.me.getA b
    if va.toNat % n != 0 then .trap s .misalign va false
    else
      (s.loadFor c .other va n (.place (s.me.placeA d))).res s va fun x t =>
        match x with
        | some x => .done (t.setA d (BitVec.ofNat 64 x) 0)
        | none => .done t

/-- A scalar store of the low `n` bytes of d (R90, R91). -/
def scalarStore (w : BitVec 3) (d a b : Reg) (c : BitVec 4) (n : Nat) (s : State) :
    Host.Outcome State Fault Refusal :=
  run (scalarInfo w none [.a a, .a b, .a d] 1) s fun s =>
    let va := s.me.getA a + s.me.getA b
    if va.toNat % n != 0 then .trap s .misalign va false
    else (s.storeAt c .other va n (s.me.getA d).toNat).res s va fun _ t => .done t

/-- `ld.b` (R90). -/
def execLdB (w : BitVec 3) (d a b : Reg) (c : BitVec 4) (s : State) : Host.Outcome State Fault Refusal :=
  scalarLoad w d a b c 1 s

/-- `ld.h` (R90). -/
def execLdH (w : BitVec 3) (d a b : Reg) (c : BitVec 4) (s : State) : Host.Outcome State Fault Refusal :=
  scalarLoad w d a b c 2 s

/-- `ld.w` (R90). -/
def execLdW (w : BitVec 3) (d a b : Reg) (c : BitVec 4) (s : State) : Host.Outcome State Fault Refusal :=
  scalarLoad w d a b c 4 s

/-- `ld.d` (R90). -/
def execLdD (w : BitVec 3) (d a b : Reg) (c : BitVec 4) (s : State) : Host.Outcome State Fault Refusal :=
  scalarLoad w d a b c 8 s

/-- `st.b` (R90). -/
def execStB (w : BitVec 3) (d a b : Reg) (c : BitVec 4) (s : State) : Host.Outcome State Fault Refusal :=
  scalarStore w d a b c 1 s

/-- `st.h` (R90). -/
def execStH (w : BitVec 3) (d a b : Reg) (c : BitVec 4) (s : State) : Host.Outcome State Fault Refusal :=
  scalarStore w d a b c 2 s

/-- `st.w` (R90). -/
def execStW (w : BitVec 3) (d a b : Reg) (c : BitVec 4) (s : State) : Host.Outcome State Fault Refusal :=
  scalarStore w d a b c 4 s

/-- `st.d` (R90). -/
def execStD (w : BitVec 3) (d a b : Reg) (c : BitVec 4) (s : State) : Host.Outcome State Fault Refusal :=
  scalarStore w d a b c 8 s

end Sys2Proof.Machine
end

