-- ==== Sys2Proof/Machine/Channel.lean ====
section
/-! DEFINITION. What the copy channels do word by word: their transfers, the reads and writes of a chunk or packet, and how
a fault ends a transfer (R189, R262, R263, R266, R269-R273). -/

namespace Sys2Proof.Machine

/-! ### Channels and transfers (R261-R263, R270) -/

/-- Channel `ch` of cluster c. -/
def State.chan (s : State) (c ch : Nat) : Channel := (s.fast c).chans.toList[ch]?.getD Channel.reset

/-- Replace channel `ch` of cluster c. -/
def State.setChan (s : State) (c ch : Nat) (k : Channel) : State :=
  s.setFast c { s.fast c with chans := (s.fast c).chans.setIfInBounds ch k }

/-- The transfer of an id on a channel, while it is not complete. -/
def Channel.find (k : Channel) (id : BitVec 32) : Option Transfer := k.xfers.find? (fun t => t.id == id)

/-- Replace a transfer. -/
def Channel.put (k : Channel) (t : Transfer) : Channel :=
  { k with xfers := k.xfers.map (fun x => if x.id == t.id then t else x) }

/-- Replace a transfer of channel `ch` of cluster c. -/
def State.putTransfer (s : State) (c ch : Nat) (t : Transfer) : State := s.setChan c ch ((s.chan c ch).put t)

/-- x precedes y (R261). -/
def precedes (x y : BitVec 32) : Bool := let d := (y - x).toNat; decide (1 ≤ d ∧ d < 2 ^ 31)

/-- The code of a fault record for a cause (R263). -/
def faultRecord (id : BitVec 32) (code : BitVec 8) : Word := (id ++ 0#24 ++ code : BitVec 64)

/-- Take a complete transfer off its channel, with its cause code and missed blocks (R262, R355). -/
def Channel.finish (k : Channel) (id : BitVec 32) (code missed : Nat) : Channel :=
  let xs := k.xfers.filter (fun t => t.id != id)
  { k with
    xfers := xs
    ends := k.ends ++ [{ id := id, cause := code, missed := missed }]
    wrote := k.wrote.filter (fun e => xs.any (fun t => precedes t.id e.1)) }

/-- A fault ends a transfer (R270): it counts as complete, the first fault is recorded, and FABRIC becomes pending on
the hart that issued it. -/
def State.failTransfer (s : State) (c ch : Nat) (t : Transfer) (code : BitVec 8) (va : Word) : State :=
  let k := (s.chan c ch).finish t.id code.toNat 0
  let k := if k.frec == 0 then { k with frec := faultRecord t.id code, faddr := va } else k
  (s.setChan c ch k).pendCause t.hart .fabric ((BitVec.ofNat 32 ch ++ t.id : BitVec 64))

/-- The state after a step of an engine that only stalls. -/
def stalled (s0 s : State) : State := s0.rollback s

/-! ### Chunks (R266) -/

/-- The number of chunks of an element (R266). -/
def Element.chunks (e : Element) : Nat := e.ext.foldl (· * ·) 1

/-- The offset of chunk c on the laid-out side: dimension 0 innermost (R266). -/
def layoutAt : List Nat → List Int → Nat → Int
  | x :: xs, d :: ds, c => ((c % x : Nat) : Int) * d + layoutAt xs ds (c / x)
  | _, _, _ => 0

/-- The source of chunk c (R266). -/
def Element.srcAt (e : Element) (c : Nat) : Word :=
  offsetAt e.src (if e.side then c * e.len else layoutAt e.ext e.str c)

/-- The destination of chunk c (R266). -/
def Element.dstAt (e : Element) (c : Nat) : Word :=
  offsetAt e.dst (if e.side then layoutAt e.ext e.str c else c * e.len)

/-! ### Translation and whole accesses (R267, R367, R271) -/

/-- Translate one byte for a channel: on `ch0`-`ch3` a home outside the module is a PERM fault (R267). -/
def State.chanKey (s : State) (ch : Nat) (w : Who) (k : Kind) (u : Use) (va : Word) : Fetch Nat :=
  match s.xlate w k u va with
  | .ok key t => if ch < 4 && !inModule key then .fault .perm va t else .ok key t
  | .trap c t => .fault c va t
  | .stall t => .stall t

/-- Translate `n` bytes. -/
def State.chanKeys (s : State) (ch : Nat) (w : Who) (k : Kind) (u : Use) (va : Word) : Nat → Fetch (List Nat)
  | 0 => .ok [] s
  | n + 1 =>
    (s.chanKey ch w k u va).bind fun key s =>
      (State.chanKeys s ch w k u (va + 1) n).bind fun ks s => .ok (key :: ks) s

/-- The bytes at a list of keys that begins at `va`; an uncorrectable error is a channel fault (R367). -/
def State.keysGood (s : State) (va : Word) (ks : List Nat) : Fetch Unit :=
  match ks.findIdx? s.badAt with
  | some i => .fault .eccFatal (addrAt va i 1) s
  | none => .ok () s

/-- Read `n` bytes for a channel at once. -/
def State.chanRead (s : State) (ch : Nat) (w : Who) (va : Word) (n : Nat) : Fetch (List Byte) :=
  (s.chanKeys ch w .load .other va n).bind fun ks s => (s.keysGood va ks).bind fun _ s => .ok (ks.map s.mem.read) s

/-- The regions of a partition as they stand. -/
def State.regionsOf (s : State) (p : Nat) : List Region := ((tget s.parts p).map (fun q => q.regions)).getD []

/-- The party of a transfer for a write: it goes to the shadow of a region as it stands (R271). -/
def State.writer (s : State) (t : Transfer) : Who := { t.who with regions := s.regionsOf t.who.part }

/-- Write bytes for a transfer: a byte that a later transfer of the channel has written keeps its value (R262). -/
def State.chanWrite (s : State) (c ch : Nat) (id : BitVec 32) (ks : List Nat) (bs : List Byte) : State :=
  let k := s.chan c ch
  let taken := fun key => k.wrote.any (fun e => precedes id e.1 && e.2.contains key)
  let cells := (ks.zip bs).filter (fun e => !taken e.1)
  let s := s.perform (cells.map (fun e => (e.1, e.2, 0xFF#8)))
  if k.xfers.any (fun t => precedes t.id id) then
    s.setChan c ch { k with wrote := k.wrote ++ [(id, cells.map (fun e => e.1))] }
  else s

/-! ### Bursts: a chunk or packet word by word (R181, R189) -/

/-- A list without repeats. -/
def distinct : List Nat → List Nat
  | [] => []
  | x :: xs => x :: (distinct xs).filter (fun y => y != x)

/-- A burst that has read and written nothing yet. -/
def Burst.start (va : Word) (src dst : List Nat) : Burst :=
  { va := va, src := src, dst := dst, unread := distinct (src.map (· / 8)), got := [], unwritten := distinct (dst.map (· / 8)) }

/-- Nothing is left to do. -/
def Burst.over (b : Burst) : Bool := b.unread.isEmpty && b.unwritten.isEmpty

/-- The places of a burst whose keys lie in an aligned word. -/
def placesIn (ks : List Nat) (w : Nat) : List (Nat × Nat) := (ks.zipIdx.filter (fun e => e.1 / 8 == w)).map (fun e => (e.2, e.1))

/-- A byte of a source as a transfer sees it: the old contents of a backing that a `pub` has taken out of its view, or of memory
as it was when a `pub` showed part of what its element writes (R272). -/
def State.sourceByte (s : State) (t : Transfer) (key : Nat) : Byte :=
  let now := ((tget t.old 16).getD s.mem).read key
  match t.who.regions.find? (fun g => decide (g.visible ≤ key ∧ key < g.visible + g.size)) with
  | some g => match tget t.old g.n with | some m => m.read key | none => now
  | none => now

/-- Read one aligned word of the source. -/
def State.burstRead (s : State) (t : Transfer) (b : Burst) (w : Nat) : Burst :=
  { b with
    unread := b.unread.filter (· != w)
    got := b.got ++ (placesIn b.src w).map (fun e => (e.1, s.sourceByte t e.2)) }

/-- Every byte of an aligned word of the destination has been read. -/
def Burst.ready (b : Burst) (w : Nat) : Bool := (placesIn b.dst w).all (fun e => b.got.any (fun g => g.1 == e.1))

/-- Write one aligned word of the destination. -/
def State.burstWrite (s : State) (c ch : Nat) (t : Transfer) (b : Burst) (w : Nat) : State :=
  let l := placesIn b.dst w
  let s := s.chanWrite c ch t.id (l.map (fun e => e.2)) (l.map (fun e => (tget b.got e.1).getD 0))
  s.putTransfer c ch { t with burst := some { b with
    got := b.got.filter (fun g => !l.any (fun e => e.1 == g.1)), unwritten := b.unwritten.filter (· != w) } }

/-- The next access of a burst, one of those that may come next: a word of the source read, or a word of the destination
written. -/
def State.burstStep (s : State) (c ch : Nat) (t : Transfer) (b : Burst) : State :=
  let ws := b.unwritten.filter b.ready
  let n := Config.pick s.free % (b.unread.length + ws.length)
  if n < b.unread.length then
    let w := b.unread[n]?.getD 0
    match (placesIn b.src w).find? (fun e => s.badAt e.2) with
    | some e => s.drawn.failTransfer c ch t Cause.eccFatal.code (addrAt b.va e.1 1)
    | none => s.drawn.putTransfer c ch { t with burst := some (s.burstRead t b w) }
  else s.drawn.burstWrite c ch t b (ws[n - b.unread.length]?.getD 0)

/-- The rest of a burst at once: what is unread is read, then every word left is written; an error in what it reads fails the
transfer (R270, R367). -/
def State.burstRest (s : State) (c ch : Nat) (t : Transfer) (b : Burst) : State :=
  match (b.unread.flatMap (placesIn b.src)).find? (fun e => s.badAt e.2) with
  | some e => s.failTransfer c ch t Cause.eccFatal.code (addrAt b.va e.1 1)
  | none =>
    let b := b.unread.foldl (s.burstRead t) b
    b.unwritten.foldl (fun s w =>
      match (s.chan c ch).find t.id with
      | some t => match t.burst with | some b => s.burstWrite c ch t b w | none => s
      | none => s) (s.putTransfer c ch { t with burst := some b })

/-- The transfers of a list of clusters: cluster, channel and transfer. -/
def State.transfersOn (s : State) (cs : List Nat) : List (Nat × Nat × Transfer) :=
  cs.flatMap (fun c => (List.range 6).flatMap (fun ch => (s.chan c ch).xfers.map (fun t => (c, ch, t))))

/-- Every word of the bursts that a test names performs (R324, R191): those of channels of the clusters `cs`. -/
def State.finishBursts (s : State) (cs : List Nat) (which : Transfer → Burst → Bool) : State :=
  (s.transfersOn cs).foldl (fun s e =>
    match (s.chan e.1 e.2.1).find e.2.2.id with
    | some t =>
      match t.burst with
      | some b => if which t b then s.burstRest e.1 e.2.1 t b else s
      | none => s
    | none => s) s

/-- A running element holds a translation of its barrier that a test names (R269): by its transfer and key. -/
def State.barHeld (s : State) (cs : List Nat) (which : Transfer → Nat → Bool) : Bool :=
  (s.transfersOn cs).any (fun e =>
    match e.2.2.barKey with
    | some k => which e.2.2 k
    | none => false)

/-- Some burst touches a range of keys. -/
def Burst.touches (b : Burst) (lo n : Nat) : Bool := (b.src ++ b.dst).any (fun k => decide (lo ≤ k ∧ k < lo + n))

end Sys2Proof.Machine
end

