-- ==== Sys2Proof/Machine/Traps.lean ====
section
/-! DEFINITION. Steps that act on a hart from outside its instruction stream: trap entry at a boundary, fetch faults and
illegal words, pre-emption requests and the grace window, results and accesses that come about on their own. -/

namespace Sys2Proof.Machine

/-- Change nothing but the state. -/
def event (s : State) : Host.Outcome State Fault Refusal := .next s

/-- `TRAP_ENTRY`: a pending asynchronous cause of hart `h` enters the handler (R331, R103); where none may be taken
(none pending, `tb` = 1, a sleeping `wfe`) nothing happens. -/
def execTrapEntry (h : Nat) (s : State) : Host.Outcome State Fault Refusal :=
  event (((s.land h).boundaryTrap h).getD s)

/-- `WFE_WAKE`: a sleeping `wfe` wakes and reads its word again (R96). -/
def execWfeWake (h : Nat) (s : State) : Host.Outcome State Fault Refusal :=
  event (if (s.hart h).asleep then s.setHart h { s.hart h with woken := true } else s)

/-- `PREEMPTION_REQUEST`: a request is posted to a set of harts; those that wait stop (R332, R333). -/
def execPreemptionRequest (hs : List Nat) (s : State) : Host.Outcome State Fault Refusal := event (s.postAll hs)

/-- `GRACE_WINDOW_EXPIRY`: the grace window of a hart's request has ended, and the hart stops at its boundary (R333, R334). -/
def execGraceWindowExpiry (h : Nat) (s : State) : Host.Outcome State Fault Refusal :=
  event (if s.windowOver h then
    let t := s.land h
    (t.setHart h { t.hart h with expired := true }).graceStop h else s)

/-- `GRACE_WINDOW_FORCED_STOP`: 1 µs after the window ends a hart that has not stopped stops with its results
completed (R334). -/
def execGraceWindowForcedStop (h : Nat) (s : State) : Host.Outcome State Fault Refusal :=
  event (if s.windowOver h && decide (s.windowEnd h + 1000 ≤ s.mtime) then (s.land h).graceStop h else s)

/-- `ILLEGAL_WORD`: the hart whose turn it is meets a word that no form assigns (R66): ILLEGAL with the word; after a
prefix, a word that may not follow it makes the pair ILLEGAL (R32, R68). A hart that does not run meets no word. -/
def execIllegalWord (word : BitVec 32) (s : State) : Host.Outcome State Fault Refusal :=
  event (if s.me.live? then
      match s.me.lent with
      | some l =>
        if !l.viaTret && pairWordBad l word then
          s.raise s .illegal ((prefixWord l).setWidth 64) (s.me.pc - 4) none s.me.midway
        else s.raise s .illegal (word.setWidth 64) s.me.pc s.me.lent s.me.midway
      | none => s.raise s .illegal (word.setWidth 64) s.me.pc none s.me.midway
    else s)

/-- The cause of a failed fetch. -/
def fetchCauseOf : FetchCause → Cause
  | .pageFetch => .pageFetch
  | .perm => .perm
  | .eccFatal => .eccFatal

/-- `INSTRUCTION_FETCH_FAULT`: the fetch at the pc of the hart whose turn it is fails (R35, R34); a hart that does not
run fetches nothing (R93). -/
def execInstructionFetchFault (cause : FetchCause) (va : BitVec 64) (s : State) : Host.Outcome State Fault Refusal :=
  event (if s.me.live? then s.raise s (fetchCauseOf cause) va s.me.pc s.me.lent s.me.midway else s)

/-- `FIXED_LATENCY_RESULT`: the results of hart `h` that are readable reach their registers (R29, R30). -/
def execFixedLatencyResult (h : Nat) (s : State) : Host.Outcome State Fault Refusal :=
  event (s.setHart h ((s.hart h).settle (s.hart h).now))

/-- An access in a class queue may perform now: what stands before it in the queue belongs to the same instruction and to
other words (R142, R182, R187). -/
def Issued.free (q : Issued) (before : List Issued) : Bool :=
  before.all (fun r => r.grp == q.grp && !r.keys.any (fun k => q.keys.any (fun j => j / 8 == k / 8)))

/-- `ACCESS_PERFORMS_AT_HOME`: entry `k` of a class queue of hart `h` performs, where the order of its class lets it (R182,
R187). One to a scratchpad granule that is not exchanged waits until it is (R338). -/
def execAccessPerformsAtHome (h : Nat) (a : HomeStep) (s : State) : Host.Outcome State Fault Refusal :=
  let r := s.hart h
  match a with
  | .queued c k =>
    let l := r.queue.filter (fun q => q.cls == c)
    match l[k]? with
    | some q =>
      if q.free (l.take k) && !q.keys.any s.away then
        event ((s.setHart h { r with queue := r.queue.erase q }).performIssued h q)
      else event s
    | none => event s

/-- A part must wait for its turn in the log of its context (R381). -/
def State.partWaits (s : State) (h : Nat) (p : Posted) : Bool :=
  match s.postedInput h p with
  | .wait _ => true
  | _ => false

/-- A turn of a hart in which its order asked for a posted part before the turn of that part in a replay is undone, and the
hart stalls at its instruction (R381). -/
def stallEarly (s : State) (o : Host.Outcome State Fault Refusal) : Host.Outcome State Fault Refusal :=
  match o with
  | .next t => if t.early == s.early then o else .next (s.setMe { s.me with status := .stalled })
  | _ => o

/-- A step of an engine that asked for a posted part before the turn of that part in a replay is undone (R381). -/
def undoEarly (s : State) (o : Host.Outcome State Fault Refusal) : Host.Outcome State Fault Refusal :=
  match o with
  | .next t => if t.early == s.early then o else .next s
  | _ => o

/-- `POSTED_PART_PERFORM`: part `k` of the posted parts of hart `h` performs, unless an earlier part of its class to
the same word still waits (R151, R186) or it is not its turn in a replay (R381). -/
def execPostedPartPerform (h k : Nat) (s : State) : Host.Outcome State Fault Refusal :=
  match (s.hart h).posted[k]? with
  | some p =>
    if ((s.hart h).posted.take k).any (fun q => q.cls == p.cls && q.key / 8 == p.key / 8) || s.partWaits h p
        || s.away p.key then
      event s
    else
      let t := s.setHart h { s.hart h with posted := (s.hart h).posted.eraseIdx k }
      match t.postedInput h p with
      | .diverge u => event u
      | _ => event (t.performPosted h p)
  | none => event s

end Sys2Proof.Machine
end

