-- ==== Sys2Proof/Machine/System.lean ====
section
/-! DEFINITION. Major SYS without `ctx.*`, and the prefix: control registers, fences, waits, time, traps and their
return, TLB invalidation, lane maps (R16-R23, R68, R92-R101, R105). -/

namespace Sys2Proof.Machine

/-! ### Control registers (R16) -/

/-- The control registers that `mfc` and `mtc` name. -/
inductive Csr where
  | hctl | vl | vtype | estart | lgp (k : BitVec 4) | tcause | tval | tpc | tpfx | tstat | fstat | rng0 | rng1
  | bdone | hwm (r : Reg) | lmap | mtime | hartid | clid | tvec | bstp | scpwin | rfpend
  deriving DecidableEq, Repr

/-- The register of a number; none for a number not in the table and for `smiss` (R16, R17). -/
def csrOf (n : BitVec 10) : Option Csr :=
  let k := n.toNat
  if 0x10 ≤ k ∧ k < 0x20 then some (.lgp (n.setWidth 4))
  else if 0x50 ≤ k ∧ k < 0x70 then some (.hwm ((n - 0x50).setWidth 5))
  else
    match k with
    | 0x000 => some .hctl | 0x001 => some .vl | 0x002 => some .vtype | 0x003 => some .estart
    | 0x020 => some .tcause | 0x021 => some .tval | 0x022 => some .tpc | 0x023 => some .tpfx | 0x024 => some .tstat
    | 0x030 => some .fstat | 0x031 => some .rng0 | 0x032 => some .rng1 | 0x041 => some .bdone
    | 0x070 => some .lmap | 0x080 => some .mtime | 0x081 => some .hartid | 0x082 => some .clid
    | 0x090 => some .tvec | 0x091 => some .bstp | 0x092 => some .scpwin | 0x0A0 => some .rfpend
    | _ => none

/-- Held by vector harts only (R16). -/
def Csr.vectorOnly : Csr → Bool
  | .vl => true | .vtype => true | .estart => true | .lgp _ => true | .rng0 => true | .rng1 => true | .hwm _ => true
  | .lmap => true | _ => false

/-- Mode U may not read it (R16). -/
def Csr.readNeedsP : Csr → Bool
  | .tcause => true | .tval => true | .tpc => true | .tpfx => true | .tstat => true | .tvec => true | .bstp => true
  | .scpwin => true | .rfpend => true | _ => false

/-- Mode U may not write it (R16). -/
def Csr.writeNeedsP : Csr → Bool
  | .hctl => false | .fstat => false | .rng0 => false | .rng1 => false | .hwm _ => false | _ => true

/-- No mode may write it (R16). -/
def Csr.readOnly : Csr → Bool
  | .lmap => true | .mtime => true | .hartid => true | .clid => true | .rfpend => true | _ => false

/-- The count `rfpend` reports for a stack (R22, R375): that of the channel with the most refreshes postponed, or
with the most pulled in when none is postponed. -/
def State.rfpend (s : State) (stack : Nat) : Word :=
  let owed := (s.refresh.filter (fun e => e.1 / 32 == stack)).map (fun e => e.2.owed)
  let top := owed.foldl max 0
  let v : Int := if 0 < top then top else owed.foldl min 0
  (BitVec.ofInt 5 v).setWidth 64

/-- The value of a control register, reserved bits zero (R94). -/
def State.readCsr (s : State) (c : Csr) : Word :=
  let h := s.me
  match c with
  | .hctl => h.hctl
  | .vl => h.vl.setWidth 64
  | .vtype => h.vtype
  | .estart => h.estart.setWidth 64
  | .lgp k => (h.lgp[k.toNat]'(k.isLt)).setWidth 64
  | .tcause => h.tcause
  | .tval => h.tval
  | .tpc => h.tpc
  | .tpfx => h.tpfx
  | .tstat => h.tstat
  | .fstat => h.fstat.setWidth 64
  | .rng0 => h.rng0
  | .rng1 => h.rng1
  | .bdone => h.bdone
  | .hwm r => (h.hwm[r.toNat]'(r.isLt)).setWidth 64
  | .lmap => h.lmap
  | .mtime => BitVec.ofNat 64 s.mtime
  | .hartid => BitVec.ofNat 64 s.cur
  | .clid => BitVec.ofNat 64 s.myCluster
  | .tvec => h.tvec
  | .bstp => h.bstp
  | .scpwin => h.scpwin
  | .rfpend => s.rfpend (s.myCluster / 16)

/-- A value of `vl` that traps: above VLMAX, which is 0 while `vbad` = 1 (R94). -/
def Hart.vlBad (h : Hart) (x : Word) : Bool :=
  decide ((if h.vbad then 0 else h.vlmax h.width) < (x.setWidth 13).toNat)

/-- A valid value of `vtype` that traps: its VLMAX is below `vl` (R94). -/
def Hart.vtypeSmall (h : Hart) (x : Word) : Bool :=
  !vtypeBad x && decide (h.vlmax (fmtWidth (x.extractLsb' 0 4)) < h.vl.toNat)

/-- Write `vtype` from a valid or invalid value (R19, R94, R109). -/
def Hart.putVtype (h : Hart) (x : Word) : Hart :=
  if vtypeBad x then { h with vtype := 0x8000000000000000, vl := 0, live := 0 }
  else { h with vtype := x &&& 0xFF, live := h.vl }

/-- Write `hctl` (R18, R94): in U only `chk` and `rm`; `mode` is read only. -/
def Hart.putHctl (h : Hart) (x : Word) : Hart :=
  let tb := if h.priv then x.getLsbD 4 else h.tb
  { h with hctl := mkHctl tb (x.extractLsb' 2 2) (x.getLsbD 1) h.priv }

/-- The hart after `mtc` has written a register (R20-R24, R31, R33, R34, R94, R176). -/
def Hart.writeCsr (h : Hart) (c : Csr) (x : Word) : Hart :=
  match c with
  | .hctl => h.putHctl x
  | .vl => { h with vl := x.setWidth 13, live := x.setWidth 13 }
  | .vtype => h.putVtype x
  | .estart => { h with estart := x.setWidth 13, lgp := Vector.replicate 16 (x.setWidth 13) }
  | .lgp k => { h with lgp := h.lgp.set k.toNat (x.setWidth 13) k.isLt }
  | .tcause => { h with tcause := x &&& 0xFF }
  | .tval => { h with tval := x }
  | .tpc => { h with tpc := x }
  | .tpfx => { h with tpfx := x &&& 0x8000000001FFC000 }
  | .tstat => { h with tstat := x &&& 0x3 }
  | .fstat => { h with fstat := x.setWidth 8 }
  | .rng0 => { h with rng0 := x }
  | .rng1 => { h with rng1 := x }
  | .bdone => { h with bdone := x }
  | .hwm r => { h with hwm := h.hwm.set r.toNat (x.setWidth 13) r.isLt }
  | .tvec => { h with tvec := x &&& ~~~3 }
  | .bstp => { h with bstp := x &&& ~~~0xFFF, banks := [] }
  | .scpwin => { h with scpwin := x &&& ~~~0x7FFFFF }
  | .lmap => h
  | .mtime => h
  | .hartid => h
  | .clid => h
  | .rfpend => h

/-- Issue of `mfc` (R16). -/
def mfcInfo (w : BitVec 3) (d : Reg) (c : Option Csr) (s : State) : Info :=
  { scalarInfo w (some (.a d)) [] 1 with
    priv := match c with | some c => c.readNeedsP | none => false
    illCsr := match c with | some c => c.vectorOnly && isControl s.cur | none => true }

/-- Issue of `mtc` (R16, R94). -/
def mtcInfo (w : BitVec 3) (d : Reg) (c : Option Csr) (s : State) : Info :=
  let h := s.me.settle s.me.now
  { scalarInfo w none [.a d] 1 with
    priv := match c with | some c => c.writeNeedsP | none => false
    illCsr := match c with | some c => c.readOnly || (c.vectorOnly && isControl s.cur) | none => true
    ill := match c with
      | some .vl => h.vlBad (h.getA d)
      | some .vtype => h.vtypeSmall (h.getA d)
      | _ => false }

/-- A control register of the hart whose turn it is carries an uncorrectable error (R367). -/
def State.csrBad (s : State) (c : Option Csr) : Bool :=
  s.badSram.any (fun l => match l with
    | .control h n => h == s.cur && csrOf (BitVec.ofNat 10 n) == c
    | _ => false)

/-- `mfc` of a register; `mtime` and `rfpend` are inputs of a log (R378). -/
def mfcOf (w : BitVec 3) (d : Reg) (c : Option Csr) (s : State) : Host.Outcome State Fault Refusal :=
  run (mfcInfo w d c s) s fun s =>
    if s.csrBad c then .trap s .eccFatal 0 false
    else match c with
    | none => .done s
    | some .mtime => s.inputWord 1 (s.readCsr .mtime) fun v s => .done (s.setA d v 1)
    | some .rfpend => s.inputWord 1 (s.readCsr .rfpend) fun v s => .done (s.setA d v 1)
    | some c => .done (s.setA d (s.readCsr c) 1)

/-- `mtc` of a register: an uncorrectable error in it is gone (R367, log entry 25). -/
def mtcOf (w : BitVec 3) (d : Reg) (c : Option Csr) (s : State) : Host.Outcome State Fault Refusal :=
  run (mtcInfo w d c s) s fun s =>
    match c with
    | none => .done s
    | some c =>
      let s := { s with badSram := s.badSram.filter (fun l => match l with
          | .control h n => !(h == s.cur && csrOf (BitVec.ofNat 10 n) == some c)
          | _ => true) }
      .done (s.setMe (s.me.writeCsr c (s.me.getA d)))

/-- `mfc` (R94). -/
def execMfc (w : BitVec 3) (d : Reg) (csr : BitVec 10) (s : State) : Host.Outcome State Fault Refusal :=
  mfcOf w d (csrOf csr) s

/-- `mtc` (R94). -/
def execMtc (w : BitVec 3) (d : Reg) (csr : BitVec 10) (s : State) : Host.Outcome State Fault Refusal :=
  mtcOf w d (csrOf csr) s

/-- `mtc hctl` (R18, R94). -/
def execMtcHctl (w : BitVec 3) (d : Reg) (s : State) : Host.Outcome State Fault Refusal := mtcOf w d (some .hctl) s

/-- `mtc vl` (R94, R109). -/
def execMtcVl (w : BitVec 3) (d : Reg) (s : State) : Host.Outcome State Fault Refusal := mtcOf w d (some .vl) s

/-- `mtc vtype` (R19, R94, R109). -/
def execMtcVtype (w : BitVec 3) (d : Reg) (s : State) : Host.Outcome State Fault Refusal := mtcOf w d (some .vtype) s

/-- `mtc estart`: the lane-group counters take the same value (R20). -/
def execMtcEstart (w : BitVec 3) (d : Reg) (s : State) : Host.Outcome State Fault Refusal :=
  mtcOf w d (some .estart) s

/-- `mtc bstp`: the copies of bank sets are dropped (R176). -/
def execMtcBstp (w : BitVec 3) (d : Reg) (s : State) : Host.Outcome State Fault Refusal := mtcOf w d (some .bstp) s

/-! ### Traps, waits, time -/

/-- `nop` (R93). -/
def execNop (w : BitVec 3) (s : State) : Host.Outcome State Fault Refusal :=
  run (scalarInfo w none [] 1) s fun s => .done s

/-- `svc` (R104): SVC with its code. -/
def execSvc (w : BitVec 3) (code : BitVec 10) (s : State) : Host.Outcome State Fault Refusal :=
  run (scalarInfo w none [] 1) s fun s => .trap s .svc (code.setWidth 64) false

/-- `brk` (R104): BRK with its code. -/
def execBrk (w : BitVec 3) (code : BitVec 10) (s : State) : Host.Outcome State Fault Refusal :=
  run (scalarInfo w none [] 1) s fun s => .trap s .brk (code.setWidth 64) false

/-- A queue entry accesses the bytes of a hart's trap slot that `tret` reads. -/
def Issued.inSlot (q : Issued) (id : Nat) : Bool := q.keys.any (fun k => decide (slotKey id ≤ k ∧ k < slotKey id + 32))

/-- The places in a class queue of the accesses to the trap slot, and of every earlier access of their classes (R182). -/
def slotTakes (id : Nat) (q : List Issued) (i : Nat) : Bool :=
  match q[i]? with
  | some x => (q.drop i).any (fun y => y.cls == x.cls && y.inSlot id)
  | none => false

/-- The queued stores of the hart whose turn it is to its own trap slot, with what must come before them, perform before
`tret` reads it (R180, R182). -/
def State.drainSlot (s : State) : State := s.drainAt s.cur (slotTakes s.cur)

/-- The address of a word of the slot, of those that `tret` reads, that carries an uncorrectable error (R102, R367). -/
def State.slotBad (s : State) (id : Nat) : Option Word :=
  ((List.range 4).find? (fun i => s.badAt (slotKey id + 8 * i))).map (fun i =>
    (s.hart id).scpwin + 0x5FFDC0 + BitVec.ofNat 64 (64 * (id % 16) + 8 * i))

/-- `tret` (R105): it reads `tpc`, `tpfx` and `tstat`, and then its trap slot (R367). -/
def execTret (w : BitVec 3) (s : State) : Host.Outcome State Fault Refusal :=
  run { scalarInfo w none [] 1 with priv := true, flow := true } s fun s =>
    if s.ctlBad [0x22, 0x23, 0x24] then .trap s .eccFatal 0 false
    else if s.me.tpc.toNat % 4 != 0 then .trap s .misalign s.me.tpc false
    else if s.slotAway s.cur then .stall s
    else
      let s := s.drainSlot
      match s.slotBad s.cur with
      | some va => .trap s .eccFatal va false
      | none =>
        let s := s.trapReturn
        .leave (s.setMe { s.me with status := .running, now := s.me.now + w.toNat })

/-- `halt` (R93, R331): the hart and the harts of its partition stop at once, and Aczar is told. -/
def execHalt (w : BitVec 3) (s : State) : Host.Outcome State Fault Refusal :=
  run { scalarInfo w none [] 1 with priv := true } s fun s =>
    .leave ((s.setMe { s.me with lent := none }).haltPart s.cur false)

/-- `wait n` (R98): until every pending result is readable, and n further cycles. -/
def execWait (w : BitVec 3) (n : BitVec 5) (s : State) : Host.Outcome State Fault Refusal :=
  run (scalarInfo w none [] 1) s fun s =>
    let h := s.me
    let t := h.lastReady (h.now + 1) + n.toNat
    .done (s.setMe { h with now := max h.now (t - 1 - w.toNat) })

/-- `rdtime` (R97). -/
def execRdtime (w : BitVec 3) (d : Reg) (s : State) : Host.Outcome State Fault Refusal :=
  run (scalarInfo w (some (.a d)) [] 1) s fun s =>
    s.inputWord 1 (BitVec.ofNat 64 s.mtime) fun v s => .done (s.setA d v 1)

/-- `rdcyc` (R97): the cycles of issue and those of stalls, waits and sleep, which are a free value (log entry 8). -/
def execRdcyc (w : BitVec 3) (d : Reg) (s : State) : Host.Outcome State Fault Refusal :=
  run (scalarInfo w (some (.a d)) [] 1) s fun s =>
    let n := s.me.stalls + Config.stallCycles s.free
    let s := (s.setMe { s.me with stalls := n }).drawn
    s.inputWord 1 (BitVec.ofNat 64 (s.me.now + n)) fun v s => .done (s.setA d v 1)

/-- A wake condition of the `wfe` in which the hart whose turn it is sleeps has come (R96): its line has been written, or
it has been woken otherwise; a pending asynchronous trap, which is taken after it completes. -/
def State.wakes (s : State) : Bool :=
  s.me.woken || (s.me.asleep && (tget s.watched s.cur).isNone) || (!s.me.async.isEmpty && !s.me.tb)

/-- `wfe` (R96): it completes when the word differs from b or a wake condition has come; otherwise it sleeps and watches
the line of the word. A replay takes d from its log (R381). -/
def execWfe (w : BitVec 3) (d a b : Reg) (s : State) : Host.Outcome State Fault Refusal :=
  run (scalarInfo w (some (.a d)) [.a a, .a b] 0) s fun s =>
    let va := s.me.getA a
    if va.toNat % 8 != 0 then .trap s .misalign va false
    else
      ((s.xlate (s.who s.cur) .load .other va).bind fun key s =>
          (s.loadHome 0 key 8).bind fun x s => .ok (key, x) s).res s va fun q s =>
        let v : Word := BitVec.ofNat 64 q.2
        if s.replaying s.myCluster || v != s.me.getA b || s.wakes then
          s.inputWord 2 v fun v s => .done ({ s with watched := tdel s.watched s.cur }.setA d v 0)
        else .wait ({ s with watched := tput s.watched s.cur (q.1 / 64) }.setMe { s.me with asleep := true })

/-! ### Fences and translation -/

/-- The places in a class queue that a fence must empty (R182, R185): an access of a class of `b` within the scope, and
every earlier access of its class. -/
def fenceTakes (c : Nat) (b : BitVec 16) (scope : Nat) (q : List Issued) (i : Nat) : Bool :=
  match q[i]? with
  | some x =>
    b.getLsbD x.cls.toNat
      && (q.drop i).any (fun y => y.cls == x.cls && y.keys.any (fun k => decide (homeScope c k ≤ scope)))
  | none => false

/-- The accesses that a fence waits for perform (R95, R185): queued stores within the scope, and posted parts at
`mo` or wider. -/
def State.fence (s : State) (b a : BitVec 16) (scope : Nat) : State :=
  if b = 0 ∨ a = 0 then s
  else
    let s := s.drainAt s.cur (fenceTakes s.myCluster b scope)
    if 3 ≤ scope then s.drainPosted s.cur (fun p => b.getLsbD p.cls.toNat) else s

/-- `fence.c` (R95, R185): a scope code above 5 is ILLEGAL (R92). -/
def execFenceC (w : BitVec 3) (a : Reg) (sc : BitVec 5) (s : State) : Host.Outcome State Fault Refusal :=
  run { scalarInfo w none [.a a] 1 with ill := decide (5 < sc.toNat) } s fun s =>
    let m := s.me.getA a
    .done (s.fence (m.extractLsb' 0 16) (m.extractLsb' 16 16) sc.toNat)

/-- `fence.all` (R95). -/
def execFenceAll (w : BitVec 3) (sc : BitVec 5) (s : State) : Host.Outcome State Fault Refusal :=
  run { scalarInfo w none [] 1 with ill := decide (5 < sc.toNat) } s fun s =>
    .done (s.fence 0xFFFF 0xFFFF sc.toNat)

/-- Every access that a hart has issued performs (R324): its queued stores and posted parts. -/
def State.drainHart (s : State) (id : Nat) : State := (s.drain id (fun _ => true)).drainPosted id (fun _ => true)

/-- Drop the translations of a partition that a test names from every TLB of its clusters and of the dies (R324). -/
def State.dropTlb (s : State) (p : Nat) (which : TlbEntry → Bool) : State :=
  { s with
    clusters := s.clusters.map (fun e =>
      (e.1, { e.2 with tlb := e.2.tlb.filter (fun t => !(t.part == p && which t)) }))
    dieTlb := s.dieTlb.map (fun e => (e.1, e.2.filter (fun t => !(t.part == p && which t)))) }

/-- The clusters of the partition of the hart whose turn it is, or its own cluster. -/
def State.myClusters (s : State) : List Nat :=
  match s.partOf s.myCluster with
  | some (_, p) => p.clusters
  | none => [s.myCluster]

/-- `tlb.inv` names the translations of a page, of a start and size, in a context (R100, R279): all of them, those of a page
that covers `va`, and in the hart's own context those of a page that meets the page of `va` as the tables now hold it. -/
def State.named (s : State) (all : Bool) (va ctx page size : Nat) : Bool :=
  let new := s.storedPage (s.who s.cur) va
  all || decide (page ≤ va ∧ va < page + size)
    || (ctx == (s.spaceOf s.myCluster).2 && decide (page < new.1 + new.2 ∧ new.1 < page + size))

/-- `tlb.inv` (R92, R100, R279, R324), b the number in the field of that name: what was translated through a dropped translation
performs first: the accesses of harts and the words of chunks that have started. It waits for elements that hold a
translation of their barrier which it names (R269, log entry 11). -/
def execTlbInv (w : BitVec 3) (a : Reg) (b : BitVec 5) (s : State) : Host.Outcome State Fault Refusal :=
  let all := decide (b = 1#5)
  run { scalarInfo w none (if all then [] else [.a a]) 1 with priv := true, ill := decide (1 < b.toNat) } s fun s =>
    let va := (s.me.getA a).toNat
    if s.barHeld s.myClusters (fun t _ => match t.barPage with | some p => s.named all va t.who.ctx p.1 p.2 | none => all)
    then .stall s
    else
    let s := ((s.fellows s.cur).foldl State.drainHart s).finishBursts s.myClusters (fun _ _ => true)
    .done (s.dropTlb (s.spaceOf s.myCluster).1 (fun t => s.named all va t.ctx t.page t.pageSize))

/-! ### Lane maps and the prefix -/

/-- The working lane groups in force on the hart whose turn it is (R101, R369). -/
def State.maskInForce (s : State) : BitVec 16 := (s.cluster s.myCluster).force.toList[s.cur % 16]?.getD 0xFFFF

/-- The value of `lmap` for a mask of working lane groups (R23). -/
def lmapOf (m : BitVec 16) : Word :=
  BitVec.ofNat 64 (m.toNat + 2 ^ 16 * (4 * ((List.range 16).filter (fun k => m.getLsbD k)).length))

/-- `lanemap` (R101): every vector register is undefined afterwards, a free value (log entry 9); results that are still
pending for scalar and mask registers stay pending (R30). -/
def execLanemap (w : BitVec 3) (a : Reg) (s : State) : Host.Outcome State Fault Refusal :=
  let h := s.me.settle s.me.now
  run { scalarInfo w none [.a a] 1 with
        on := .vector, priv := true, ill := h.getA a != s.maskInForce.setWidth 64 } s fun s =>
    let m := s.maskInForce
    let n := s.free
    let h := s.me
    .done ({ s with free := n + 32 }.setMe { h with
      lmap := lmapOf m
      pend := h.pend.filter (fun p => match p.dst with | .v _ => false | _ => true)
      hwm := Vector.replicate 32 0
      v := Vector.ofFn (fun i : Fin 32 => Config.freeVec (n + i.val))
      vl := 0
      live := 0
      vtype := h.vtype ||| 0x8000000000000000 })

/-- The hart whose turn it is lends state to its next word (R68). -/
def State.lend (s : State) (l : Lent) : State :=
  s.setMe { s.me with status := .running, pc := s.me.pc + 4, now := s.me.now + 1, lent := some l }

/-- `pfx` (R68): it lends its state to the instruction in the next word, y. Where y makes the pair ILLEGAL, the pair traps
at the prefix (R32); where y cannot be fetched the fault is y's own (log entry 12). -/
def execPfx (pred : MReg) (inv : BitVec 1) (creg : Reg) (cv : BitVec 1) (s : State) :
    Host.Outcome State Fault Refusal :=
  let l : Lent := { pred := pred, inv := inv.getLsbD 0, creg := creg, cv := cv.getLsbD 0, viaTret := false }
  run { scalarInfo 0 none [] 1 with lending := .no, flow := true } s fun s =>
    match s.codeAt (s.me.pc + 4) with
    | .stall t => .stall (s.rollback t)
    | .trap _ _ => .leave (s.lend l)
    | .ok y t => if pairWordBad l y then .trap t .illegal ((prefixWord l).setWidth 64) false else .leave (t.lend l)

end Sys2Proof.Machine
end

