-- ==== Sys2Proof/Machine/Engine.lean ====
section
/-! DEFINITION. Major ENG without the fabric: fork and rendezvous, copy channels, `pub`, barriers (R256-R277). -/

namespace Sys2Proof.Machine

/-- Issue of an ENG form (R67, R256, R351). -/
def engInfo (w : BitVec 3) (d : Option Dst) (srcs : List Dst) (ill : Bool) : Info :=
  { wt := w, on := .both, priv := false, lending := .no, pred := none, flow := false, vec := false, dest := d,
    srcs := srcs, lat := 0, ill := ill, illCsr := false, ecc := .elems }

/-- ILLEGAL with the word in hand, from within an instruction. -/
def illegalNow (s : State) : Res := .trap s .illegal (s.word.setWidth 64) false

/-! ### Fork and rendezvous (R257-R260) -/

/-- The harts that a set names, in rising order. -/
def harts8 (b : BitVec 8) : List Nat := (List.range 8).filter (fun k => b.getLsbD k)

/-- Read the entries of a list of harts in a fork table (R257, R258). -/
def State.forkEntries (s : State) (a : Word) : List Nat → Fetch (List (Nat × List Word))
  | [] => .ok [] s
  | k :: ks =>
    (s.loadWords (addrAt a k 64) 8).bind fun ws s =>
      (State.forkEntries s a ks).bind fun es s => .ok ((k, ws) :: es) s

/-- An entry that `fork` refuses (R258). -/
def forkBad (ws : List Word) : Bool :=
  let e := ws.headD 0
  e == 0 || e.toNat % 4 != 0 || (ws.drop 5).any (· != 0)

/-- A hart as `fork` starts it (R258); a pending pre-emption request of the control core reaches it too (log entry
14). -/
def Hart.forked (core h : Hart) (ws : List Word) : Hart :=
  let x := fun n => ws[n]?.getD 0
  let h := ((((h.finish.setA 1 (x 1) 1).setA 2 (x 2) 1).setA 3 (x 3) 1).setA 4 (x 4) 1).progress0
  { h with
    status := .running
    pc := x 0
    hctl := mkHctl false core.rm core.chk false
    vl := 0
    live := 0
    vtype := h.vtype ||| 0x8000000000000000
    bdone := 0
    lent := none
    preempt := core.preempt
    expired := false
    asleep := false
    woken := false
    stop := StopRec.clear
    bySave := false }

/-- Start harts from their entries (R258). -/
def State.startHarts (s : State) (core : Hart) (c : Nat) (es : List (Nat × List Word)) : State :=
  es.foldl (fun s e => s.setHart (16 * c + e.1) (core.forked (s.hart (16 * c + e.1)) e.2)) s

/-- `fork` (R258): after every earlier access of the control core (R193). -/
def execFork (w : BitVec 3) (a b : Reg) (s : State) : Host.Outcome State Fault Refusal :=
  let h := s.me.settle s.me.now
  run { engInfo w none [.a a, .a b]
      ((h.getA b).extractLsb' 8 56 != 0 || (h.getA b).extractLsb' 0 8 == 0) with on := .control } s fun s =>
    let va := s.me.getA a
    let set := (s.me.getA b).extractLsb' 0 8
    if va.toNat % 64 != 0 then .trap s .misalign va false
    else
      ((s.drainHart s.cur).forkEntries va (harts8 set)).plain s fun es t =>
        if es.any (fun e => forkBad e.2) || t.myFast.party &&& set != 0 then illegalNow t
        else
          let t := t.startHarts t.me t.myCluster es
          .done (t.setMyFast { t.myFast with party := t.myFast.party ||| set })

/-- What makes `rdv` ILLEGAL (R259). -/
def rdvBad (s : State) (a : Reg) : Bool :=
  if isControl s.cur then ((s.me.settle s.me.now).getA a).extractLsb' 1 63 != 0 else a != 0

/-- A hart whose run ends: it is idle, past its instruction. -/
def Hart.ended (h : Hart) (w : BitVec 3) : Hart :=
  { h with status := .idle, pc := h.pc + 4, now := h.now + 1 + w.toNat, lent := none, preempt := false,
           expired := false }

/-- The end of the iteration that runs on a cluster, if one does (R307). -/
def State.endIteration (s : State) (c : Nat) : State :=
  match (s.fast c).iter with
  | none => s
  | some i =>
    let s := s.setFast c { s.fast c with iter := none }
    match s.ctx i.part i.ctx with
    | none => s
    | some x =>
      s.setCtx i.part i.ctx
        { x with launches := x.launches.map (fun l => if l.num == i.launch then { l with ended := l.ended + 1 } else l) }

/-- `rdv` (R259): a vector hart's accesses perform first (R193); the control core waits for the open party, and with bit
0 of a ends the iteration (R307). -/
def execRdv (w : BitVec 3) (a : Reg) (s : State) : Host.Outcome State Fault Refusal :=
  run (engInfo w none (if isControl s.cur then [.a a] else []) (rdvBad s a)) s fun s =>
    let f := s.myFast
    if isControl s.cur then
      if f.party &&& ~~~f.arrived != 0 then .wait s
      else
        let s := if f.party == 0 then s else s.setMyFast { f with party := 0, arrived := 0 }
        if (s.me.getA a).getLsbD 0 then .leave ((s.endIteration s.myCluster).setMe (s.me.ended w)) else .done s
    else
      let s := s.drainHart s.cur
      let s := s.setMyFast { s.myFast with arrived := s.myFast.arrived ||| (1#8 <<< (s.cur % 16)) }
      .leave (s.setMe (s.me.ended w))

/-! ### Barriers (R274-R277) -/

/-- A barrier word (R274) with a reserved bit set. -/
def barBad (x : BitVec 128) : Bool := x.extractLsb' 105 23 != 0

/-- A barrier word from its fields (R274). -/
def mkBar (ovf : Bool) (excess phase expect pend : Nat) : BitVec 128 :=
  (0#23 ++ BitVec.ofBool ovf ++ BitVec.ofNat 16 excess ++ BitVec.ofNat 8 phase ++ BitVec.ofNat 40 expect
    ++ BitVec.ofNat 40 pend : BitVec 128)

/-- `pend` (R274). -/
def barPend (x : BitVec 128) : Nat := (x.extractLsb' 0 40).toNat
/-- `expect` (R274). -/
def barExpect (x : BitVec 128) : Nat := (x.extractLsb' 40 40).toNat
/-- `phase` (R274). -/
def barPhase (x : BitVec 128) : Nat := (x.extractLsb' 80 8).toNat
/-- `over` (R274). -/
def barOver (x : BitVec 128) : Nat := (x.extractLsb' 88 16).toNat
/-- `ovf` (R274). -/
def barOvf (x : BitVec 128) : Bool := x.getLsbD 104

/-- An arrival of n bytes (R276). -/
def barArrive (x : BitVec 128) (n : Nat) : BitVec 128 :=
  let pend := barPend x
  if n = 0 then x
  else if n < pend then mkBar (barOvf x) (barOver x) (barPhase x) (barExpect x) (pend - n)
  else
    mkBar (barOvf x || decide (pend < n)) (min (barOver x + (n - pend)) 65535) ((barPhase x + 1) % 256) (barExpect x)
      (barExpect x)

/-- The barrier word at a key. -/
def State.barAt (s : State) (key : Nat) : BitVec 128 := BitVec.ofNat 128 (s.mem.readLE key 16)

/-- Write a barrier word at its home, all 16 bytes at one point (R274). -/
def State.putBar (s : State) (key : Nat) (x : BitVec 128) : State := s.perform (cellsOf key 16 x.toNat)

/-- An engine's arrival at a barrier (R276). R277 gives a trap for reserved bits in the word to the forms of harts alone: an engine
arrives, and the word is written with them clear (DESIGN CHOICE, log entry 45). -/
def State.arrive (s : State) (key n : Nat) : State := s.putBar key (barArrive (s.barAt key) n)

/-- The translated place of a barrier word for the hart whose turn it is, its reserved bits checked (R277). A form that writes
it performs after every earlier access of its hart but posted parts (R190, R275), and meets the word that they leave. -/
def withBar (k : Kind) (va : Word) (s0 : State) (f : Nat → State → Res) : Res :=
  if va.toNat % 16 != 0 then .trap s0 .misalign va false
  else
    (s0.xlate (s0.who s0.cur) k .other va).res s0 va fun key s =>
      let s := if k.writes then s.drain s.cur (fun _ => true) else s
      if s.badAt key || s.badAt (key + 8) then .trap s .eccFatal va false
      else if barBad (s.barAt key) then illegalNow s
      else f key s

/-- A byte count that does not fit in 40 bits (R277). -/
def countBad (x : Word) : Bool := x.extractLsb' 40 24 != 0

/-- `bar.init` (R275). -/
def execBarInit (w : BitVec 3) (a b : Reg) (s : State) : Host.Outcome State Fault Refusal :=
  let h := s.me.settle s.me.now
  run (engInfo w none [.a a, .a b] (countBad (h.getA b) || h.getA b == 0)) s fun s =>
    withBar .atomic (s.me.getA a) s fun key s =>
      let n := (s.me.getA b).toNat
      .done (s.putBar key (mkBar false 0 0 n n))

/-- `bar.arr` (R276). -/
def execBarArr (w : BitVec 3) (a b : Reg) (s : State) : Host.Outcome State Fault Refusal :=
  let h := s.me.settle s.me.now
  run (engInfo w none [.a a, .a b] (countBad (h.getA b))) s fun s =>
    withBar .atomic (s.me.getA a) s fun key s =>
      .done (s.arrive key (s.me.getA b).toNat)

/-- What `bar.wait` gives (R277). -/
def barStatus (x : BitVec 128) : Word := BitVec.ofNat 64 (barPhase x + 2 ^ 8 * barOver x + 2 ^ 24 * (barOvf x).toNat)

/-- `bar.wait` (R277). -/
def execBarWait (w : BitVec 3) (d a b : Reg) (s : State) : Host.Outcome State Fault Refusal :=
  let h := s.me.settle s.me.now
  run (engInfo w (some (.a d)) [.a a, .a b] ((h.getA b).extractLsb' 8 56 != 0)) s fun s =>
    withBar .load (s.me.getA a) s fun key t =>
      let x := t.barAt key
      if barPhase x == (t.me.getA b).toNat then .wait s else .done (t.setA d (barStatus x) 0)

/-! ### Transfers and their elements (R261-R269) -/

/-- A dimension entry of a list element: extent and signed stride (R265). -/
def dimOf (w : Word) : Nat × Int := ((w.extractLsb' 40 24).toNat, (w.extractLsb' 0 40).toInt)

/-- The list element that 12 words at an address hold; none when check 1 of R269 fails. -/
def elementOf (addr : Word) : List Word → Option Element
  | [src, dst, c, next, padr, pexp, badr, r7, d0, d1, d2, d3] =>
    let ndim := (c.extractLsb' 24 3).toNat
    let len := (c.extractLsb' 0 24).toNat
    let ds := [d0, d1, d2, d3]
    let dims := (ds.take ndim).map dimOf
    if c.extractLsb' 30 34 ≠ 0 ∨ ndim = 0 ∨ 4 < ndim ∨ len = 0 ∨ next.toNat % 32 ≠ 0 ∨ padr.toNat % 8 ≠ 0
        ∨ badr.toNat % 16 ≠ 0 ∨ r7 ≠ 0 ∨ (ds.drop ndim).any (· != 0) ∨ dims.any (fun d => d.1 == 0)
        ∨ (c.getLsbD 28 = false ∧ (padr ≠ 0 ∨ pexp ≠ 0)) ∨ (c.getLsbD 29 = false ∧ badr ≠ 0) then none
    else
      some { addr := addr, src := src, dst := dst, arr := c.getLsbD 29, cskip := c.getLsbD 28, side := c.getLsbD 27,
             ndim := ndim, len := len, next := next, padr := padr, pexp := pexp, badr := badr,
             ext := dims.map (fun d => d.1), str := dims.map (fun d => d.2) }
  | _ => none

/-- The bounding range of the laid-out side around its base: lowest offset, and highest offset plus `len` (R269). -/
def layoutRange (e : Element) : Int × Int :=
  let each := (e.ext.zip e.str).map (fun d => ((d.1 : Int) - 1) * d.2)
  ((each.map (min 0)).foldl (· + ·) 0, (each.map (max 0)).foldl (· + ·) 0 + e.len)

/-- The bounding range of a side (R269). -/
def Element.range (e : Element) (base : Word) (laid : Bool) : Int × Int :=
  let r := if laid then layoutRange e else (0, (e.chunks * e.len : Nat))
  (base.toNat + r.1, base.toNat + r.2)

/-- Two ranges share a byte. -/
def meets (x y : Int × Int) : Bool := decide (x.1 < y.2 ∧ y.1 < x.2)

/-- The range of a region. -/
def Region.range (r : Region) : Int × Int := (r.lo, r.lo + r.size)

/-- Checks 2 and 3 of R269: the cause and address. -/
def Element.fault (e : Element) (rs : List Region) : Option (Cause × Word) :=
  let d := e.range e.dst e.side
  let t := e.range e.src (!e.side)
  if rs.any (fun r => meets d r.range && !decide (r.range.1 ≤ d.1 ∧ d.2 ≤ r.range.2)) then some (.perm, e.dst)
  else if !rs.any (fun r => meets d r.range) && meets d t then some (.overlap, e.src)
  else none

/-- The regions that an element writes. -/
def Element.dests (e : Element) (rs : List Region) : List Nat :=
  (rs.filter (fun r => meets (e.range e.dst e.side) r.range)).map (fun r => r.n)

/-- The regions that a fetch by a descriptor writes (R352). -/
def FabDesc.dests (f : FabDesc) (rs : List Region) : List Nat :=
  (rs.filter (fun r => meets (f.lva.toNat, f.lva.toNat + f.len) r.range)).map (fun r => r.n)

/-- The party of a transfer that the hart whose turn it is issues (R168, R397). -/
def State.issuer (s : State) : Who := { s.who s.cur with chan := true }

/-- A transfer as its issue leaves it (R261). -/
def State.newTransfer (s : State) (id : BitVec 32) (kind : XferKind) (elem : Option Element) (dests : List Nat)
    (desc : Option FabDesc) : Transfer :=
  { id := id, kind := kind, hart := s.cur, who := s.issuer,
    launch := s.myFast.iter.map (fun i => (i.part, i.ctx, i.launch)), started := false, elem := elem, running := false,
    skip := false, barKey := none, barPage := none, chunk := 0, next := 0, dests := dests, desc := desc, burst := none,
    old := [], came := [] }

/-- Issue a transfer on a channel (R261): it takes the counter's value as its id; 64 that are not complete fill the
channel. -/
def issueTransfer (ch : BitVec 3) (d : Reg) (kind : XferKind) (elem : Option Element) (desc : Option FabDesc)
    (s0 s : State) : Res :=
  let c := s.myCluster
  let k := s.chan c ch.toNat
  if 64 ≤ k.xfers.length then .wait s0
  else
    let dests := match elem, desc with
      | some e, _ => e.dests s.issuer.regions
      | none, some f => if kind == .fetch then f.dests s.issuer.regions else []
      | none, none => []
    let t := s.newTransfer k.next kind elem dests desc
    let k : Channel := { k with next := k.next + 1, xfers := k.xfers ++ [t], ends := k.ends.filter (fun e => e.id != t.id) }
    .done ((s.setChan c ch.toNat k).setA d (t.id.setWidth 64) 0)

/-- Go on with an element that passes checks 1 to 3, or trap at issue (R267, R268). -/
def withElement (e : Option Element) (s : State) (k : Element → Res) : Res :=
  match e with
  | none => illegalNow s
  | some e =>
    match e.fault s.issuer.regions with
    | some (c, va) => .trap s c va false
    | none => k e

/-- `dma.sg` (R267). -/
def execDmaSg (w : BitVec 3) (d a : Reg) (ch : BitVec 3) (s : State) : Host.Outcome State Fault Refusal :=
  run (engInfo w (some (.a d)) [.a a] false) s fun s =>
    let va := s.me.getA a
    if va.toNat % 32 != 0 then .trap s .misalign va false
    else
      (s.loadWords va 12).plain s fun ws t =>
        withElement (elementOf va ws) t fun e => issueTransfer ch d .list (some e) none s t

/-- The words of the element that `dma.lay` issues, from its registers and vector (R268). -/
def layWords (h : Hart) (a b : Reg) : List Word :=
  let n := h.live.toNat
  let dims := (List.range 4).map (fun k => if k < n then BitVec.ofNat 64 (h.elem b 64 k) else 0)
  [h.getA a, h.getA (a + 1), h.getA (a + 2) ||| (BitVec.ofNat 64 n <<< 24), 0, 0, 0, 0, 0] ++ dims

/-- What makes `dma.lay` ILLEGAL (R268), a length or extent that breaks R265 included. -/
def layBad (h : Hart) (a b : Reg) : Bool :=
  a == 0 || decide (29 < a.toNat) || h.vbad || h.fmt != 3 || h.live == 0 || decide (4 < h.live.toNat)
    || h.vl != h.live || ((h.getA (a + 2)) &&& ~~~0x8FFFFFF#64) != 0
    || (elementOf 0 (layWords h a b)).isNone

/-- `dma.lay` (R268): vector harts hold its layout. -/
def execDmaLay (w : BitVec 3) (d a b : Reg) (ch : BitVec 3) (s : State) : Host.Outcome State Fault Refusal :=
  let h := s.me.settle s.me.now
  run (engInfo w (some (.a d)) [.a a, .a (a + 1), .a (a + 2), .v b] (layBad h a b)) s fun s =>
    withElement (elementOf 0 (layWords s.me a b)) s fun e => issueTransfer ch d .list (some e) none s s

/-- A value that was never issued as an id on a channel (R264). -/
def idBad (s : State) (ch : BitVec 3) (x : Word) : Bool :=
  x.extractLsb' 32 32 != 0 || !precedes (x.setWidth 32) (s.chan s.myCluster ch.toNat).next

/-- `dma.wait` (R264). -/
def execDmaWait (w : BitVec 3) (a : Reg) (ch : BitVec 3) (s : State) : Host.Outcome State Fault Refusal :=
  let h := s.me.settle s.me.now
  run (engInfo w none [.a a] (idBad s ch (h.getA a))) s fun s =>
    if ((s.chan s.myCluster ch.toNat).find ((s.me.getA a).setWidth 32)).isSome then .wait s else .done s

/-- The done-id of a channel (R263). -/
def Channel.doneId (k : Channel) : BitVec 32 :=
  match k.xfers.head? with
  | some t => t.id
  | none => k.next

/-- `dma.st` (R263). -/
def execDmaSt (w : BitVec 3) (d a : Reg) (ch : BitVec 3) (s : State) : Host.Outcome State Fault Refusal :=
  let h := s.me.settle s.me.now
  run (engInfo w (some (.a d)) [.a a] (decide (3 < (h.getA a).toNat))) s fun s =>
    let k := s.chan s.myCluster ch.toNat
    match (s.me.getA a).toNat with
    | 0 => .done (s.setA d (k.doneId.setWidth 64) 0)
    | 1 => .done (s.setA d k.frec 0)
    | 2 => .done (s.setA d k.faddr 0)
    | _ => .done ((s.setChan s.myCluster ch.toNat { k with frec := 0, faddr := 0 }).setA d k.frec 0)

/-! ### `pub` (R271-R273) -/

/-- A transfer may still write region r: it does so in an element it has had, or its list may go on to one that does
(R273). -/
def Transfer.mayWrite (t : Transfer) (r : Nat) : Bool :=
  t.dests.contains r || (t.kind == .list && (match t.elem with | some e => e.next != 0 | none => true))

/-- A transfer of a hart on any channel of its cluster that `pub` waits for (R273). -/
def State.pubWaits (s : State) (r : Nat) : Bool :=
  s.myFast.chans.toList.any (fun k => k.xfers.any (fun t => t.hart == s.cur && t.mayWrite r))

/-- The regions of the partition of the hart whose turn it is. -/
def State.myRegions (s : State) : List Region :=
  match s.partOf s.myCluster with
  | some (_, p) => p.regions
  | none => []

/-- A running element that reads the visible backing of a region keeps what it holds: it may be written from now on. One that
writes into the region keeps what memory holds: its whole source counts as read before what is now shown was written (R272). -/
def Transfer.keepOld (t : Transfer) (m : Memory) (g : Region) : Transfer :=
  let writes := match t.elem with | some e => (e.dests t.who.regions).contains g.n | none => false
  let t := if t.running && writes && (tget t.old 16).isNone then { t with old := t.old ++ [(16, m)] } else t
  if t.running && t.who.regions.any (fun v => v.n == g.n && v.visible == g.visible) && (tget t.old g.n).isNone then
    { t with old := t.old ++ [(g.n, m.filter (fun e => decide (g.visible ≤ e.1 ∧ e.1 < g.visible + g.size)))] }
  else t

/-- The places in a class queue of the accesses to a region, and of every earlier access of their classes (R182, R191). -/
def regionTakes (g : Region) (q : List Issued) (i : Nat) : Bool :=
  let touches := fun k => decide ((g.visible ≤ k ∧ k < g.visible + g.size) ∨ (g.shadow ≤ k ∧ k < g.shadow + g.size))
  match q[i]? with
  | some x => (q.drop i).any (fun y => y.cls == x.cls && y.keys.any touches)
  | none => false

/-- The partition's region r with its backings swapped (R273): the accesses to it that are under way perform first. -/
def State.publish (s : State) (r : Nat) : State :=
  match s.partOf s.myCluster with
  | none => s
  | some (n, p) =>
    match p.regions.find? (fun g => g.n == r) with
    | none => s
    | some g =>
      let s := (hartsOf p.clusters).foldl (fun s id => s.drainAt id (regionTakes g)) s
      let s := s.finishBursts p.clusters (fun _ b => b.touches g.visible g.size || b.touches g.shadow g.size)
      let s := (s.transfersOn p.clusters).foldl (fun s e => s.putTransfer e.1 e.2.1 (e.2.2.keepOld s.mem g)) s
      s.setPart n { p with regions := p.regions.map (fun g =>
        if g.n == r then { g with visible := g.shadow, shadow := g.visible } else g) }

/-- `pub` (R273): its commit is the event S of R191. -/
def execPub (w : BitVec 3) (a : Reg) (s : State) : Host.Outcome State Fault Refusal :=
  let x := (s.me.settle s.me.now).getA a
  run (engInfo w none [.a a]
      (x.extractLsb' 4 60 != 0 || !s.myRegions.any (fun g => g.n == x.toNat))) s fun s =>
    let r := (s.me.getA a).toNat
    if s.pubWaits r then .wait s else .done (s.publish r)

/-! ### The channels at work (R262, R266, R269, R270) -/

/-- The channel starts no more transfers: its context is being switched out (R339). -/
def State.leaving (s : State) (c : Nat) : Bool :=
  match s.partOf c with
  | some (_, p) =>
    (match p.switch with
      | some g => g.under && g.left.contains c
      | none => false)
  | none => false

/-- `CHANNEL_TRANSFER_START`: a channel starts its earliest transfer that has not started, four at most at once
(R262). -/
def execChannelTransferStart (c ch : Nat) (s : State) : Host.Outcome State Fault Refusal :=
  let k := s.chan c ch
  match k.xfers.find? (fun t => !t.started) with
  | some t =>
    if s.leaving c || decide (4 ≤ (k.xfers.filter (fun t => t.started)).length) then .next s
    else .next (s.setChan c ch (k.put { t with started := true }))
  | none => .next s

/-- The 96 bytes of a list element: those that a burst has read, or all of them now (R189, R265). -/
def State.listBytes (s : State) (ch : Nat) (t : Transfer) : Fetch (List Byte) :=
  match t.burst with
  | some b => .ok ((List.range 96).map (fun i => (tget b.got i).getD 0)) s
  | none => s.chanRead ch t.who t.next 96

/-- A later element of a list is read word by word, while accesses perform apart (R181, R189, log entry 7): its words are still
to be read. -/
def State.reading (s : State) (t : Transfer) : Bool :=
  t.elem.isNone && (match t.burst with | some b => !b.over | none => s.queued)

/-- The next word of a list element is read. -/
def State.readOn (s : State) (c ch : Nat) (t : Transfer) : State :=
  match t.burst with
  | some b => s.burstStep c ch t b
  | none =>
    match (s.chanKeys ch t.who .load .other t.next 96).bind fun ks s => (s.keysGood t.next ks).bind fun _ s => .ok ks s with
    | .ok ks u => u.putTransfer c ch { t with burst := some (Burst.start t.next ks []) }
    | .fault k va u => u.failTransfer c ch t k.code va
    | .stall u => stalled s u
    | .leave u => stalled s u

/-- The element that a transfer starts next: the one read at issue, or the one at `next` (R266, R267). -/
def State.nextElement (s : State) (ch : Nat) (t : Transfer) : Fetch Element :=
  match t.elem with
  | some e => .ok e s
  | none =>
    (s.listBytes ch t).bind fun bs s =>
      let ws := (List.range 12).map (fun i => BitVec.ofNat 64 (leNat ((bs.drop (8 * i)).take 8)))
      match elementOf t.next ws with
      | none => .fault .illegal t.next s
      | some e =>
        match e.fault t.who.regions with
        | some (c, va) => .fault c va s
        | none => .ok e s

/-- Whether an element is skipped (R266). -/
def State.skips (s : State) (ch : Nat) (w : Who) (e : Element) : Fetch Bool :=
  if e.cskip then
    (s.chanRead ch w e.padr 8).bind fun bs s => .ok (BitVec.ofNat 64 (leNat bs) != e.pexp) s
  else .ok false s

/-- The barrier of an element, translated as an atomic (R269), and the page of that translation (R324). -/
def State.barrierOf (s : State) (ch : Nat) (w : Who) (e : Element) : Fetch (Option (Nat × Nat × Nat)) :=
  if e.arr then
    (s.chanKey ch w .atomic .other e.badr).bind fun k s => .ok (some (k, s.usedPage w e.badr.toNat)) s
  else .ok none s

/-- `LIST_ELEMENT_START`: the next element of a transfer is read and checked, its predicate decides whether it is
skipped, and its barrier is translated (R266, R269). Its reads keep to the backings that are visible now (R191, R272; log
entry 6). -/
def execListElementStart (c ch : Nat) (id : BitVec 32) (s : State) : Host.Outcome State Fault Refusal :=
  match (s.chan c ch).find id with
  | none => .next s
  | some t =>
    if !t.started || t.running || t.kind != .list then .next s
    else
      let t := if t.burst.isSome then t else { t with who := { t.who with regions := s.regionsOf t.who.part } }
      if s.reading t then .next (s.readOn c ch t) else
      let r := (s.nextElement ch t).bind fun e s =>
        (s.skips ch t.who e).bind fun sk s => (s.barrierOf ch t.who e).bind fun b s => .ok (e, sk, b) s
      match r with
      | .ok (e, sk, b) u =>
        let t := { t with elem := some e, running := true, skip := sk, barKey := b.map (fun x => x.1),
                          barPage := b.map (fun x => x.2), chunk := 0, burst := none, old := [],
                          dests := t.dests ++ e.dests t.who.regions }
        .next (u.setChan c ch ((u.chan c ch).put t))
      | .fault k va u => .next (u.failTransfer c ch t k.code va)
      | .stall u => .next (stalled s u)
      | .leave u => .next (stalled s u)

/-- The bytes of one packet of a fabric transfer (R348). -/
def packetSize : Nat := 4096

/-- Translate the `n` bytes of a chunk's source and destination, and check the source (R269, R367). -/
def State.chunkKeys (s : State) (ch : Nat) (t : Transfer) (src : Word) (dst : Option Word) (n : Nat) :
    Fetch (List Nat × List Nat) :=
  (s.chanKeys ch t.who .load .unit src n).bind fun ks s =>
    (s.keysGood src ks).bind fun _ s =>
      match dst with
      | some d => (s.chanKeys ch (s.writer t) .store .unit d n).bind fun ds s => .ok (ks, ds) s
      | none => .ok (ks, []) s

/-- A chunk or packet starts: its burst is in hand, and unless accesses wait in queues its words all perform at once. -/
def State.startBurst (s : State) (c ch : Nat) (t : Transfer) (src : Word) (dst : Option Word) (n : Nat) : State :=
  match s.chunkKeys ch t src dst n with
  | .ok (ks, ds) u =>
    let b := Burst.start src ks ds
    if u.queued then u.putTransfer c ch { t with burst := some b } else u.burstRest c ch t b
  | .fault k va u => u.failTransfer c ch t k.code va
  | .stall u => stalled s u
  | .leave u => stalled s u

/-- What follows the last word of a burst: the next chunk, or the packet leaves (R266, R353). -/
def State.endBurst (s : State) (c ch : Nat) (t : Transfer) (b : Burst) (off : Nat) : State :=
  let s : State := match t.desc with
    | some d =>
      let bs := (List.range b.src.length).map (fun i => (tget b.got i).getD 0)
      { s with sent := s.sent ++ [{ cluster := c, chan := ch, id := t.id, desc := d, off := off, bytes := bs }] }
    | none => s
  s.putTransfer c ch { t with burst := none, chunk := t.chunk + 1 }

/-- A chunk of `n` bytes goes on: it starts, one of its words is read or written, or it is over (R181, R189, R266). -/
def State.moveOn (s : State) (c ch : Nat) (t : Transfer) (src : Word) (dst : Option Word) (off n : Nat) : State :=
  let s := match t.burst with
    | none => s.startBurst c ch t src dst n
    | some b => if b.over then s else s.burstStep c ch t b
  match (s.chan c ch).find t.id with
  | some t =>
    match t.burst with
    | some b => if b.over then s.endBurst c ch t b off else s
    | none => s
  | none => s

/-- What a packet of a send or a mist transfer carries: the offset and length of the next one (R348, R356). A mist
block is not sent once the deadline has come, nor before the announce. -/
def Transfer.nextPacket (t : Transfer) (d : FabDesc) (now : Nat) : Option (Nat × Nat) :=
  match t.kind with
  | .list => none
  | .send =>
    if t.chunk * packetSize < d.len then some (t.chunk * packetSize, min packetSize (d.len - t.chunk * packetSize))
    else none
  | .mist =>
    if t.chunk = 0 then some (0, 0)
    else if (t.chunk - 1) * 256 < d.len ∧ now < d.dl then some ((t.chunk - 1) * 256, 256)
    else none
  | .fetch => if t.chunk = 0 then some (0, 0) else none

/-- `CHUNK_TRANSFER`: the chunk of a list element in hand moves on (R266), or the next packet of a fabric transfer is read
and sent (R353, R356). -/
def execChunkTransfer (c ch : Nat) (id : BitVec 32) (s : State) : Host.Outcome State Fault Refusal :=
  match (s.chan c ch).find id with
  | none => .next s
  | some t =>
    match t.desc, t.elem with
    | some d, _ =>
      match t.nextPacket d s.mtime with
      | some (off, n) => .next (if t.started then s.moveOn c ch t (addrAt d.lva off 1) none off n else s)
      | none => .next s
    | none, some e =>
      .next (if t.running && !t.skip && decide (t.chunk < e.chunks)
        then s.moveOn c ch t (e.srcAt t.chunk) (some (e.dstAt t.chunk)) 0 e.len else s)
    | none, none => .next s

/-- A barrier word of an engine's arrival carries an uncorrectable error (R368, R274). -/
def State.barWordBad (s : State) (key : Nat) : Bool := s.badAt key || s.badAt (key + 8)

/-- `LIST_ELEMENT_COMPLETE`: the writes of an element have performed, it arrives at its barrier, and the list goes on or
the transfer is complete (R262, R266). The arrival and the completion are one step, so that a `dma.st` after a `bar.wait` for
the last element finds the transfer complete, where the spec's example allows either value (DESIGN CHOICE, log entry 45). An arrival at a
word that carries an uncorrectable error is a channel fault (R270, R367). -/
def execListElementComplete (c ch : Nat) (id : BitVec 32) (s : State) : Host.Outcome State Fault Refusal :=
  match (s.chan c ch).find id with
  | none => .next s
  | some t =>
    match t.elem with
    | none => .next s
    | some e =>
      if t.running && (t.skip || decide (e.chunks ≤ t.chunk)) then
        if (t.barKey.map s.barWordBad).getD false then .next (s.failTransfer c ch t Cause.eccFatal.code e.badr) else
        let s := match t.barKey with
          | some k => s.arrive k (e.chunks * e.len)
          | none => s
        let k := s.chan c ch
        .next (s.setChan c ch
          (if e.next == 0 then k.finish id 0 0
           else k.put { t with elem := none, running := false, skip := false, barKey := none, barPage := none, next := e.next }))
      else .next s

end Sys2Proof.Machine
end

