-- ==== Sys2Proof/Machine/Fabric.lean ====
section
/-! DEFINITION. The fabric: `net.*`, `tick.wait`, what arrives from peers, mist, module time (R348-R361). -/

namespace Sys2Proof.Machine

/-! ### Issue (R351-R353) -/

/-- The descriptor that eight words hold; none when it breaks R352 for its form. -/
def fabDescOf (mist : Bool) : List Word → Option FabDesc
  | [lva, rva, c, dl, vmap, bar, r6, r7] =>
    let len := (c.extractLsb' 0 24).toNat
    let vsz := (c.extractLsb' 32 2).toNat
    let al := if mist then 64 else 8
    if c.extractLsb' 52 12 ≠ 0 ∨ c.extractLsb' 34 6 ≠ 0 ∨ c.extractLsb' 24 8 ≠ 0 ∨ r6 ≠ 0 ∨ r7 ≠ 0 ∨ len = 0
        ∨ bar.toNat % 16 ≠ 0 ∨ lva.toNat % al ≠ 0 ∨ rva.toNat % al ≠ 0 ∨ len % (if mist then 256 else 8) ≠ 0
        ∨ vmap.toNat % 8 ≠ 0 ∨ (mist = false ∧ (vsz ≠ 0 ∨ dl ≠ 0 ∨ vmap ≠ 0)) then none
    else
      some { lva := lva, rva := rva, route := (c.extractLsb' 40 12).toNat, vsz := vsz, len := len, dl := dl.toNat,
             vmap := vmap, bar := bar }
  | _ => none

/-- A route is defined for the partition of the hart whose turn it is (R353, R354). -/
def State.routed (s : State) (r : Nat) : Bool :=
  match s.partOf s.myCluster with
  | some (_, p) => (tget p.routes r).isSome
  | none => false

/-- Issue of a fabric transfer (R353). -/
def netForm (w : BitVec 3) (d a : Reg) (ch : BitVec 3) (kind : XferKind) (s : State) :
    Host.Outcome State Fault Refusal :=
  run (engInfo w (some (.a d)) [.a a] false) s fun s =>
    let va := s.me.getA a
    if va.toNat % 64 != 0 then .trap s .misalign va false
    else
      (s.loadWords va 8).plain s fun ws t =>
        match fabDescOf (kind == .mist) ws with
        | none => illegalNow t
        | some f => if t.routed f.route then issueTransfer ch d kind none (some f) s t else .trap t .perm va false

/-- `net.send` (R353). -/
def execNetSend (w : BitVec 3) (d a : Reg) (ch : BitVec 3) (s : State) : Host.Outcome State Fault Refusal :=
  netForm w d a ch .send s

/-- `net.mist` (R353, R356). -/
def execNetMist (w : BitVec 3) (d a : Reg) (ch : BitVec 3) (s : State) : Host.Outcome State Fault Refusal :=
  netForm w d a ch .mist s

/-- `net.fetch` (R353). -/
def execNetFetch (w : BitVec 3) (d a : Reg) (ch : BitVec 3) (s : State) : Host.Outcome State Fault Refusal :=
  netForm w d a ch .fetch s

/-- What `net.wait` gives for a complete transfer (R355). -/
def Channel.endStatus (k : Channel) (id : BitVec 32) : Word :=
  match k.ends.find? (fun e => e.id == id) with
  | some e => BitVec.ofNat 64 (e.cause + 2 ^ 16 * min e.missed 65535)
  | none => 0

/-- `net.wait` (R355). -/
def execNetWait (w : BitVec 3) (d a : Reg) (ch : BitVec 3) (s : State) : Host.Outcome State Fault Refusal :=
  let h := s.me.settle s.me.now
  run (engInfo w (some (.a d)) [.a a] (idBad s ch (h.getA a))) s fun s =>
    let id : BitVec 32 := (s.me.getA a).setWidth 32
    let k := s.chan s.myCluster ch.toNat
    if (k.find id).isSome then .wait s else .done (s.setA d (k.endStatus id) 0)

/-- `tick.wait` (R360). -/
def execTickWait (w : BitVec 3) (d a : Reg) (s : State) : Host.Outcome State Fault Refusal :=
  let h := s.me.settle s.me.now
  run (engInfo w (some (.a d)) [.a a] (decide (2 ^ 44 < (h.getA a).toNat))) s fun s =>
    if (s.me.getA a).toNat * 1000 ≤ s.mtime then .done (s.setA d (BitVec.ofNat 64 s.mtime) 0) else .wait s

/-! ### The sending side (R353, R355) -/

/-- A transfer has sent all it sends before an acknowledgement can come: every packet of a send, the announce of a
mist. -/
def Transfer.allSent (t : Transfer) (d : FabDesc) : Bool :=
  match t.kind with
  | .send => decide (d.len ≤ t.chunk * packetSize)
  | .mist => t.chunk != 0
  | _ => false

/-- Frames of a source reach the module (R383, R387): a trained link whose filter admits it. -/
def State.hears (s : State) (src : Nat) : Bool :=
  s.boot.stage == .service && s.boot.ports.any (fun p => p.trained && p.filter.contains src)

/-- What the peer of a fabric transfer sends back reaches the module (R387): the source filters admit the module that its route
names. -/
def State.answers (s : State) (t : Transfer) (d : FabDesc) : Bool :=
  match (tget s.parts t.who.part).bind (fun q => tget q.routes d.route) with
  | some (.peer m _ _) => s.hears m
  | _ => true

/-- `TRANSFER_ACK`: the acknowledgement of a send or a mist transfer reaches its sender (R353, R355, R356). -/
def execTransferAck (c ch : Nat) (id : BitVec 32) (missed : Nat) (s : State) : Host.Outcome State Fault Refusal :=
  match (s.chan c ch).find id with
  | none => .next s
  | some t =>
    match t.desc with
    | some d =>
      .next (if t.started && t.allSent d && s.answers t d then
        s.setChan c ch ((s.chan c ch).finish id 0 (if t.kind == .mist then missed else 0)) else s)
    | none => .next s

/-- `RETRY_LIMIT`: a fabric transfer ends with a fault: one that the destination reports, whose address the manual does
not give (log entry 9), or with `remote` = 0 the retry limit (R353). -/
def execRetryLimit (c ch : Nat) (id : BitVec 32) (remote : BitVec 8) (s : State) :
    Host.Outcome State Fault Refusal :=
  match (s.chan c ch).find id with
  | none => .next s
  | some t =>
    match t.desc with
    | some d =>
      if !t.started then .next s
      else if remote == 0 then .next (s.failTransfer c ch t Cause.fabric.code d.rva)
      else if !s.answers t d then .next s
      else .next (s.drawn.failTransfer c ch t remote (Config.freeWord s.free))
    | none => .next s

/-- The bytes of a response that a fetch takes next, with their places translated: on the first response the whole
destination and the barrier are checked (R353). -/
def State.fetchKeys (s : State) (ch : Nat) (t : Transfer) (d : FabDesc) : Fetch (List Nat × Option Nat) :=
  (s.chanKeys ch t.who .store .other d.lva d.len).bind fun ks s =>
    if d.bar == 0 then .ok (ks, none) s
    else (s.chanKey ch t.who .atomic .other d.bar).bind fun k s => .ok (ks, some k) s

/-- The words, by number, at which a response of `n` words to a fetch of `len` bytes can begin: none of its words has come. -/
def Transfer.gaps (t : Transfer) (len n : Nat) : List Nat :=
  (List.range (len / 8 + 1 - n)).filter (fun o => (List.range n).all (fun j => !t.came.contains (o + j)))

/-- The end of a fetch whose words have all come (R353): the arrival, and the transfer is complete. An arrival at a word that
carries an uncorrectable error is a channel fault (R270, R367). -/
def State.fetched (s : State) (c ch : Nat) (t : Transfer) (d : FabDesc) (b : Option Nat) : State :=
  if (b.map s.barWordBad).getD false then s.failTransfer c ch t Cause.eccFatal.code d.bar
  else
    let s := match b with
      | some k => s.arrive k d.len
      | none => s
    s.setChan c ch ((s.chan c ch).finish t.id 0 0)

/-- `RMA_READ_RESPONSE`: data for a fetch whose request has been sent, from words that have not come: its frames come in any
order (R192, R348), and which words it carries is a free choice among them (log entry 9). When all have come, the arrival is
made and the transfer is complete (R353). -/
def execRmaReadResponse (c ch : Nat) (id : BitVec 32) (data : List (BitVec 8)) (s : State) :
    Host.Outcome State Fault Refusal :=
  match (s.chan c ch).find id with
  | none => .next s
  | some t =>
    match t.desc with
    | none => .next s
    | some d =>
      let n := data.length / 8
      let gaps := t.gaps d.len n
      if t.kind != .fetch || t.chunk == 0 || !s.answers t d || n == 0 || data.length % 8 != 0 || gaps.isEmpty then .next s
      else
        let o := gaps[Config.pick s.free % gaps.length]?.getD 0
        let t := { t with who := s.writer t }
        match s.drawn.fetchKeys ch t d with
        | .ok (ks, b) u =>
          let u := u.chanWrite c ch id ((ks.drop (8 * o)).take data.length) data
          let t := { t with chunk := t.chunk + data.length, came := t.came ++ List.range' o n }
          .next (if t.came.length * 8 < d.len then u.setChan c ch ((u.chan c ch).put t) else u.fetched c ch t d b)
        | .fault k va u => .next (u.failTransfer c ch t k.code va)
        | .stall u => .next (stalled s u)
        | .leave u => .next (stalled s u)

/-! ### Images of contexts (R336) -/

/-- The harts of a cluster, 8 the control core. -/
def nine : List Nat := List.range 9

/-- A hart whose registers have their reset values: `lmap` from the repair map (R16). -/
def State.freshHart (s : State) (id : Nat) : Hart :=
  if isControl id then Hart.reset id
  else { Hart.reset id with lmap := lmapOf ((s.cluster (clusterOf id)).force.toList[id % 16]?.getD 0xFFFF) }

/-- The image of a context that has not run on a cluster. -/
def State.freshImage (s : State) (c : Nat) : Image :=
  { fast := Fast.reset, harts := nine.map (fun k => s.freshHart (16 * c + k)), scratch := [] }

/-- The image of context x of partition p on cluster c. -/
def State.imageOf (s : State) (p x c : Nat) : Image :=
  ((s.ctx p x).bind (fun k => tget k.images c)).getD (s.freshImage c)

/-- Replace the image of a context on a cluster. -/
def State.putImage (s : State) (p x c : Nat) (i : Image) : State :=
  match s.ctx p x with
  | some k => s.setCtx p x { k with images := tput k.images c i }
  | none => s

/-- A store performs for a context, running or suspended (R192, R354, R361). -/
def State.performIn (s : State) (p x : Nat) (cells : List (Nat × Byte × Byte)) : State :=
  let t := s.perform (cells.filter (fun e => (s.imageAt p x e.1).isNone))
  (cells.filter (fun e => (s.imageAt p x e.1).isSome)).foldl (fun t e =>
    match s.imageAt p x e.1 with
    | some c =>
      let i := t.imageOf p x c
      t.putImage p x c { i with scratch := i.scratch.putCells [(e.1 - scratchBase c, e.2.1, e.2.2)] }
    | none => t) t

/-! ### The receiving side (R192, R353, R356, R397) -/

/-- Translate an address for inbound traffic: in the route's context, in mode U, without the TLBs (R319, R397); a write
into a publishable region goes to its shadow (R271). -/
def State.inKey (s : State) (p x : Nat) (k : Kind) (va : Word) : Acc Nat :=
  let w : Who := { cluster := 256, win := none, priv := false, part := p, ctx := x, chan := true, regions := s.regionsOf p }
  if decide (2 ^ 56 ≤ va.toNat) then .trap k.page s
  else
    (s.stage1 w k va.toNat).bind fun l s =>
      if leafAllows false k l.r l.w l.x l.u then
        match regionAt w.regions va.toNat with
        | some g => .ok ((if k.writes then g.shadow else g.visible) + (va.toNat - g.lo)) s
        | none =>
          let ia := l.ia + va.toNat % l.size
          (s.stage2 256 p ia k).bind fun key s => .ok key.1 (s.touch p ia .other)
      else .trap .perm s

/-- Translate `n` 8-byte words at rising addresses. -/
def State.inKeys (s : State) (p x : Nat) (k : Kind) (va : Word) : Nat → Acc (List Nat)
  | 0 => .ok [] s
  | n + 1 =>
    (s.inKey p x k va).bind fun key s =>
      (State.inKeys s p x k (va + 8) n).bind fun ks s => .ok (key :: ks) s

/-- Validity bits of a block (R356). -/
def gBits (vsz : Nat) : Nat :=
  match vsz with
  | 0 => 1 | 1 => 128 | 2 => 64 | _ => 32

/-- What the first packet or the announce of an inbound transfer carries. -/
def inboundFrom (pk : Packet) (x : Nat) (mist : Bool) : Inbound :=
  { x := x, mist := mist, part := pk.part, ctx := pk.ctx, rva := pk.rva, len := pk.len, vsz := pk.vsz, dl := pk.dl,
    vmap := pk.vmap, bar := pk.bar, got := 0, settled := [], missed := 0,
    writing := none }

/-- Blocks of an inbound mist transfer. -/
def Inbound.blocks (i : Inbound) : Nat := i.len / 256

/-- The barrier of an inbound transfer. -/
def State.inBar (s : State) (i : Inbound) : Acc (Option Nat) :=
  if i.bar == 0 then .ok none s else (s.inKey i.part i.ctx .atomic i.bar).bind fun k s => .ok (some k) s

/-- The checks that the destination makes when the first packet or the announce arrives: the whole destination range,
the bitmap and the barrier (R353). -/
def State.admission (s : State) (i : Inbound) : Acc Unit :=
  (s.inKeys i.part i.ctx .store i.rva ((i.len + 7) / 8)).bind fun _ s =>
    (s.inKeys i.part i.ctx .store i.vmap (if i.mist then (i.blocks * gBits i.vsz + 63) / 64 else 0)).bind fun _ s =>
      (s.inBar i).bind fun _ s => .ok () s

/-- An inbound transfer in progress. -/
def State.inboundOf (s : State) (x : Nat) : Option Inbound := s.inbound.find? (fun i => i.x == x)

/-- Replace an inbound transfer, or enter it. -/
def State.putInbound (s : State) (i : Inbound) : State :=
  { s with inbound := s.inbound.filter (fun j => j.x != i.x) ++ [i] }

/-- A transfer ends at the destination: it is acknowledged, or refused with a cause (R353, R356). -/
def State.answer (s : State) (x cause missed : Nat) : State :=
  { s with
    inbound := s.inbound.filter (fun j => j.x != x)
    acks := s.acks ++ [{ x := x, cause := cause, missed := missed }] }

/-- An arrival of `len` bytes at an inbound transfer's barrier, translated as it is made (R192); one at a word that carries an
uncorrectable error refuses the transfer (R367). -/
def State.arriveIn (s : State) (i : Inbound) : Acc Unit :=
  (s.inBar i).bind fun b s =>
    match b with
    | some k =>
      if (s.imageAt i.part i.ctx k).isNone && s.barWordBad k then .trap .eccFatal s else
      let x := barArrive (BitVec.ofNat 128 (s.readIn i.part i.ctx k 16)) i.len
      .ok () (s.performIn i.part i.ctx (cellsOf k 16 x.toNat))
    | none => .ok () s

/-- Go on with the next state of an inbound access: a failed translation refuses the transfer (R353), a stall leaves the event
to be taken again. -/
def Acc.inboundEnd {α : Type} (a : Acc α) (s0 : State) (x : Nat) (f : α → State → State) : State :=
  match a with
  | .ok v s => f v s
  | .trap c s => s.answer x c.code.toNat 0
  | .stall s => stalled s0 s

/-- A transfer has been acknowledged or refused already, or a warm reset has cut it off (R391). -/
def State.answered (s : State) (x : Nat) : Bool := s.acks.any (fun a => a.x == x) || s.deaf.contains x

/-- Write bytes of an inbound transfer from an offset on, each word translated as it is written (R192, R271). -/
def State.writeIn (s : State) (i : Inbound) (off : Nat) (bs : List Byte) : Acc Unit :=
  (s.inKeys i.part i.ctx .store (addrAt i.rva (off / 8) 8) ((off % 8 + bs.length + 7) / 8)).bind fun ks s =>
    .ok () (s.performIn i.part i.ctx (bs.zipIdx.map (fun e =>
      (ks[(off % 8 + e.2) / 8]?.getD 0 + (off + e.2) % 8, e.1, 0xFF#8))))

/-- The bytes of a packet of a send are written, and the last one ends the transfer (R353). -/
def State.takePacket (s : State) (i : Inbound) (pk : Packet) : State :=
  let bs := pk.data.take (i.len - pk.off)
  let j := { i with got := i.got + bs.length }
  ((s.writeIn i pk.off bs).bind fun _ s =>
      if i.len ≤ j.got then s.arriveIn i else .ok () s).inboundEnd s i.x fun _ t =>
    if i.len ≤ j.got then t.answer i.x 0 0 else t.putInbound j

/-- `FABRIC_WRITE_PACKET`: a packet of a peer's send arrives (R353). -/
def execFabricWritePacket (x : Nat) (pk : Packet) (s : State) : Host.Outcome State Fault Refusal :=
  if !s.hears pk.src || s.answered x then .next s
  else
    match s.inboundOf x with
    | some i => .next (if i.mist then s else s.takePacket i pk)
    | none => .next ((s.admission (inboundFrom pk x false)).inboundEnd s x fun _ t => t.takePacket (inboundFrom pk x false) pk)

/-- `FABRIC_READ_REQUEST`: a peer's fetch reads `len` bytes at `rva` in the route's context (R353, R354). -/
def execFabricReadRequest (x : Nat) (pk : Packet) (s : State) : Host.Outcome State Fault Refusal :=
  if !s.hears pk.src || s.answered x then .next s
  else
    .next ((s.inKeys pk.part pk.ctx .load pk.rva ((pk.len + 7) / 8)).inboundEnd s x fun ks t =>
      if ks.any t.badAt then t.answer x Cause.eccFatal.code.toNat 0
      else
        let bs := ks.flatMap (fun k => leBytes 8 (t.readIn pk.part pk.ctx k 8))
        { t with reads := t.reads ++ [(x, bs.take pk.len)] })

/-- `MIST_ANNOUNCE`: the announce of a peer's mist transfer arrives (R356). -/
def execMistAnnounce (x : Nat) (pk : Packet) (s : State) : Host.Outcome State Fault Refusal :=
  if !s.hears pk.src || s.answered x || (s.inboundOf x).isSome then .next s
  else .next ((s.admission (inboundFrom pk x true)).inboundEnd s x fun _ t => t.putInbound (inboundFrom pk x true))

/-- The keys of the bitmap words that hold the bits of block b (R356). -/
def State.bitKeys (s : State) (i : Inbound) (b : Nat) : Acc (List Nat) :=
  let g := gBits i.vsz
  s.inKeys i.part i.ctx .store (addrAt i.vmap (b * g / 64) 8) ((b * g % 64 + g + 63) / 64)

/-- The cells of the validity bits of block b (R356). -/
def Inbound.bitCells (i : Inbound) (ks : List Nat) (b : Nat) (v : Bool) : List (Nat × Byte × Byte) :=
  let g := gBits i.vsz
  let lo := b * g / 64 * 64
  (List.range' (b * g) g).map (fun k =>
    (ks[(k - lo) / 64]?.getD 0 + k % 64 / 8, if v then 0xFF#8 else 0#8, 1#8 <<< (k % 8)))

/-- The payload of a log entry of a settled block (R378): transfer and block number, two validity words, the data. -/
def mistWords (x g b : Nat) (v : Bool) (data : BitVec 2048) : List Word :=
  let valid : BitVec 128 := if v then BitVec.ofNat 128 (2 ^ g - 1) else 0
  BitVec.ofNat 64 (x % 2 ^ 32 + 2 ^ 32 * b) :: valid.setWidth 64 :: (valid >>> 64).setWidth 64
    :: (List.range 32).map (fun k => (data >>> (64 * k)).setWidth 64)

/-- Write words of a block, each translated as it is written (R192, R271). -/
def State.writeWords (s : State) (i : Inbound) (blk : Nat) : List (Nat × Word) → Acc Unit
  | [] => .ok () s
  | w :: ws =>
    (s.inKey i.part i.ctx .store (addrAt i.rva (32 * blk + w.1) 8)).bind fun key s =>
      State.writeWords (s.performIn i.part i.ctx (cellsOf key 8 w.2.toNat)) i blk ws

/-- The words of a block that are written now: one of those left while accesses perform apart (log entry 7), else all. -/
def State.nextWords (s : State) (w : BlockWrite) : List (Nat × Word) :=
  if s.queued then (w.left[Config.pick s.free % w.left.length]?).toList else w.left

/-- The block in hand goes on; once its words are written its validity bits are (R181, R192, R356). -/
def State.writeOn (s : State) (i : Inbound) (w : BlockWrite) : Acc Inbound :=
  let now := s.nextWords w
  let left := w.left.filter (fun e => !now.contains e)
  (s.drawn.writeWords i w.blk now).bind fun _ s =>
    if left.isEmpty then
      (s.bitKeys i w.blk).bind fun ks s =>
        .ok { i with settled := i.settled ++ [w.blk], missed := if w.valid then i.missed else i.missed + 1, writing := none }
          (s.performIn i.part i.ctx (i.bitCells ks w.blk w.valid))
    else .ok { i with writing := some { w with left := left } } s

/-- Settle a block of an inbound mist transfer (R356); in a replay what the next entry of the transfer holds takes the place
of what came, and with none left nothing is settled (R381). -/
def State.settleBlock (s : State) (i : Inbound) (b : Nat) (v : Bool) (data : BitVec 2048) : Acc Inbound :=
  (s.bitKeys i b).bind fun bk s =>
    match s.mistInput i.part i.ctx (bk.headD 0) (mistWords i.x (gBits i.vsz) b v data) with
    | none => .ok i s
    | some (ws, s) =>
      s.writeOn i { blk := (ws.headD 0).toNat / 2 ^ 32, valid := (ws[1]?.getD 0) != 0
                    left := (ws.drop 3).zipIdx.map (fun e => (e.2, e.1)) }

/-- After blocks have been settled: a mist transfer whose blocks all are ends with its arrival (R356, R364). -/
def State.afterSettle (s0 : State) (x : Nat) (a : Acc Inbound) : State :=
  (a.bind fun i s =>
      if i.blocks ≤ i.settled.length then (s.arriveIn i).bind fun _ s => .ok i s else .ok i s).inboundEnd s0 x fun i t =>
    if i.blocks ≤ i.settled.length then t.answer i.x 0 i.missed else t.putInbound i

/-- The receiving context replays a log. -/
def State.replays (s : State) (p x : Nat) : Bool :=
  match s.ctx p x with
  | some c => c.mode == .replay
  | none => false

/-- `MIST_BLOCK`: a block of a mist transfer arrives (R356), or the block in hand of the transfer goes on. -/
def execMistBlock (x blk : Nat) (crcGood : Bool) (data : BitVec 2048) (s : State) :
    Host.Outcome State Fault Refusal :=
  match s.inboundOf x with
  | none => .next s
  | some i =>
    match i.writing with
    | some w => .next (s.afterSettle x (s.writeOn i w))
    | none =>
    if i.mist && (s.replays i.part i.ctx || (crcGood && decide (s.mtime < i.dl))) && decide (blk < i.blocks)
        && !i.settled.contains blk then .next (s.afterSettle x (s.settleBlock i blk true data))
    else .next s

/-- Settle a list of blocks as missed, or the first of them that is not settled while accesses perform apart. -/
def missBlocks : List Nat → Inbound → State → Acc Inbound
  | [], i, s => .ok i s
  | b :: bs, i, s =>
    if i.settled.contains b then missBlocks bs i s
    else if s.queued then s.settleBlock i b false 0
    else (s.settleBlock i b false 0).bind fun i s => missBlocks bs i s

/-- `MIST_DEADLINE`: the deadline has come at the receiver, and every unsettled block is missed (R356). -/
def execMistDeadline (x : Nat) (s : State) : Host.Outcome State Fault Refusal :=
  match s.inboundOf x with
  | none => .next s
  | some i =>
    match i.writing with
    | some w => .next (s.afterSettle x (s.writeOn i w))
    | none =>
    if i.mist && decide (i.dl ≤ s.mtime) then .next (s.afterSettle x (missBlocks (List.range i.blocks) i s))
    else .next s

/-! ### Module time (R358-R360) -/

/-- `SYNC_LOSS`: discipline of the module time is lost (R359). -/
def execSyncLoss (s : State) : Host.Outcome State Fault Refusal := .next { s with synced := false }

/-- `SYNC_REGAIN`: discipline is regained (R359). -/
def execSyncRegain (s : State) : Host.Outcome State Fault Refusal := .next { s with synced := true }

/-- The word is a `tick.wait` (R351). -/
def isTickWait (x : BitVec 32) : Bool := x &&& 0x1E007FFF#32 == 0x1C00000E#32

/-- `FRONT_TICK_REACHED`: hart `h`, which waits in `tick.wait`, reads the module time again, and its wait completes where
the tick has come (R360). -/
def execFrontTickReached (h : Nat) (s : State) : Host.Outcome State Fault Refusal :=
  if (s.hart h).status == .waiting then
    match ({ s with cur := h } : State).xlate (s.who h) .fetch .other (s.hart h).pc with
    | .ok key t =>
      let x := BitVec.ofNat 32 (t.mem.readLE key 4)
      if isTickWait x && !t.badAt key then
        match execTickWait (x.extractLsb' 29 3) (x.extractLsb' 20 5) (x.extractLsb' 15 5) { t with word := x } with
        | .next u => .next { u with cur := s.cur }
        | o => o
      else .next s
    | _ => .next s
  else .next s

end Sys2Proof.Machine
end

