-- ==== Sys2Proof/Machine/Launch.lean ====
section
/-! DEFINITION. Ramien requests, launches, the launch walker and task graphs (R300-R313, R349, R350, R372, R373,
R398). -/

namespace Sys2Proof.Machine

/-! ### Requests and replies (R349, R350, R390) -/

/-- Requests are accepted: verified firmware runs, and every link is trained and has loaded its limiter and filter (R383,
R390). -/
def State.accepting (s : State) : Bool :=
  s.boot.stage == .service && s.boot.ports.length == 12 && s.boot.ports.all (fun p => p.trained)

/-- The reply to a request: its header with a status, and a body (R349). -/
def replyTo (m : Msg) (status : Nat) (body : ReplyBody) : Reply :=
  { conn := m.conn, seq := m.seq, kind := m.kind, part := m.part, ctx := m.ctx, status := status, body := body }

/-- The bytes of a reply's body (R349, R350; that of a divergence log entry 27). -/
def ReplyBody.bytes : ReplyBody → List Byte
  | .none => []
  | .value w => leBytes 8 w.toNat
  | .report bs => bs
  | .diverged h k => leBytes 8 (h + 2 ^ 32 * k)

/-- The header and body of a reply as a message (R349). -/
def Reply.bytes (r : Reply) : List Byte :=
  leBytes 8 (r.kind % 2 ^ 8 + 2 ^ 8 * (r.part % 16) + 2 ^ 12 * (r.ctx % 16) + 2 ^ 24 * (r.status % 2 ^ 8) + 2 ^ 32 * r.seq)
    ++ leBytes 8 r.body.bytes.length ++ leBytes 16 0 ++ r.body.bytes

/-- Send a reply (R349): after those to the earlier requests of its connection. -/
def State.reply (s : State) (m : Msg) (status : Nat) (body : ReplyBody) : State :=
  if s.unsent.any (fun u => u.conn == m.conn) then
    { s with unsent := s.unsent ++ [{ conn := m.conn, seq := m.seq, reply := some (replyTo m status body) }] }
  else { s with replies := s.replies ++ [replyTo m status body] }

/-- A request is accepted whose reply comes later (R349). -/
def State.replyLater (s : State) (m : Msg) : State :=
  { s with unsent := s.unsent ++ [{ conn := m.conn, seq := m.seq, reply := none }] }

/-- The replies of a connection that may be sent now, and what stays: a reply that is not made yet holds the later ones of
its connection back (R349). -/
def sendable (conn : Nat) : List Unsent → List Reply × List Unsent
  | [] => ([], [])
  | u :: us =>
    if u.conn == conn then
      match u.reply with
      | some r => let q := sendable conn us; (r :: q.1, q.2)
      | none => ([], u :: us)
    else let q := sendable conn us; (q.1, u :: q.2)

/-- The reply to a request that waited for it (R349, R313). -/
def State.replyNow (s : State) (m : Msg) (status : Nat) (body : ReplyBody) : State :=
  let mine := fun u : Unsent => u.conn == m.conn && u.seq == m.seq && u.reply.isNone
  let us := match s.unsent.findIdx? mine with
    | some i => s.unsent.modify i (fun u => { u with reply := some (replyTo m status body) })
    | none => s.unsent
  let q := sendable m.conn us
  { s with replies := s.replies ++ q.1, unsent := q.2 }

/-- A message of a kind is well formed (R349, R350): its header, a context from 0 to 7, and its body, of at most 64 KiB and of a
length that can hold what it carries; `kind` 0 stands for a request that R350 does not number. -/
def msgGood (m : Msg) (kind : Nat) (len : Nat → Bool) : Bool :=
  m.wellFormed && (kind == 0 || m.kind == kind) && decide (m.ctx < 8) && decide (m.blen ≤ 65536) && len m.blen

/-- A request of a partition (R350): ill-formed is status 16, a sender that is not permitted, or a partition that does
not exist, status 17. A frame whose source no filter admits is dropped (R387). -/
def request (kind : Nat) (m : Msg) (s : State) (f : Part → State → State) (len : Nat → Bool := fun _ => true) :
    Host.Outcome State Fault Refusal :=
  .next
    (if !s.accepting || !s.hears m.src then s
     else if !msgGood m kind len then s.reply m 16 .none
     else
       match tget s.parts m.part with
       | some p => if m.permitted then f p s else s.reply m 17 .none
       | none => s.reply m 17 .none)

/-! ### Launch records (R300) -/

/-- The fields of a launch record (R300). -/
structure LRec where
  head : Word
  entry : Word
  params : Word
  done : Word
  ftab : Word
  tick : Nat
  dims : BitVec 128
  deriving DecidableEq, Repr

/-- The record that 64 bytes hold. -/
def lrecOf (r : BitVec 512) : LRec :=
  { head := r.extractLsb' 0 64, entry := r.extractLsb' 64 64, params := r.extractLsb' 128 64,
    done := r.extractLsb' 192 64, ftab := r.extractLsb' 256 64, tick := (r.extractLsb' 320 64).toNat,
    dims := r.extractLsb' 384 128 }

/-- `rm` (R300). -/
def LRec.rm (r : LRec) : BitVec 2 := r.head.extractLsb' 26 2
/-- `chk` (R300). -/
def LRec.chk (r : LRec) : Bool := r.head.getLsbD 25
/-- `gang` (R300). -/
def LRec.gang (r : LRec) : Bool := r.head.getLsbD 24
/-- Dimension k is serpentine (R300). -/
def LRec.serp (r : LRec) (k : Nat) : Bool := r.head.getLsbD (20 + k)
/-- The dimension of a level (R300). -/
def LRec.perm (r : LRec) (lev : Nat) : Nat := (r.head.extractLsb' (12 + 2 * lev) 2).toNat
/-- The code `grp` (R300). -/
def LRec.grp (r : LRec) : Nat := (r.head.extractLsb' 10 2).toNat
/-- The co-operating group size (R300). -/
def LRec.size (r : LRec) : Nat := 2 ^ r.grp
/-- `ndim`: the number of dimensions minus one (R300). -/
def LRec.ndim (r : LRec) : Nat := (r.head.extractLsb' 8 2).toNat
/-- `part` (R300). -/
def LRec.part (r : LRec) : Nat := (r.head.extractLsb' 4 4).toNat
/-- `prio` (R300). -/
def LRec.prio (r : LRec) : Nat := (r.head.extractLsb' 0 3).toNat
/-- `cntk` (R300). -/
def LRec.cnt (r : LRec) (k : Nat) : Nat := (r.dims.extractLsb' (32 * k) 16).toNat
/-- `stepk` (R300). -/
def LRec.step (r : LRec) (k : Nat) : Int := (r.dims.extractLsb' (32 * k + 16) 16).toInt
/-- The number of iterations T (R303). -/
def LRec.total (r : LRec) : Nat := (List.range (r.ndim + 1)).foldl (fun n k => n * (r.cnt k + 1)) 1

/-- A record that fails code 1 of R301. -/
def LRec.bad (r : LRec) : Bool :=
  let here := List.range (r.ndim + 1)
  let above := List.range' (r.ndim + 1) (3 - r.ndim)
  r.head.extractLsb' 28 36 != 0 || r.head.getLsbD 3 || r.entry.toNat % 4 != 0 || r.done.toNat % 16 != 0
    || r.ftab.toNat % 64 != 0 || (!r.gang && r.tick != 0)
    || !here.all (fun k => here.any (fun l => r.perm l == k))
    || above.any (fun l => r.perm l != 0 || r.serp l || r.cnt l != 0 || r.step l != 0)

/-- The indices of iteration n, by levels from the innermost (R304): dimension and index. -/
def indexLoop (r : LRec) : List Nat → Nat → List (Nat × Int)
  | [], _ => []
  | lev :: levs, x =>
    let k := r.perm lev
    let q := x / (r.cnt k + 1)
    let c := x % (r.cnt k + 1)
    let c := if r.serp k && q % 2 == 1 then r.cnt k - c else c
    (k, (c : Int) * r.step k) :: indexLoop r levs q

/-- idx[k] of iteration n (R304). -/
def LRec.index (r : LRec) (n k : Nat) : Word :=
  match (indexLoop r (List.range (r.ndim + 1)) n).find? (fun e => e.1 == k) with
  | some e => BitVec.ofInt 64 e.2
  | none => 0

/-! ### What Aczar reads of a context (R373, R398) -/

/-- The state in which every page is accessed where it lies: a miss that migration resolves counts as translating
(R398). -/
def State.inPlace (s : State) : State := { s with s2 := s.s2.map (fun e => { e with pinned := true }) }

/-- The running context owns an address (R398): it translates with the permission and `u`. -/
def State.owns (s : State) (p x : Nat) (k : Kind) (va : Word) : Bool :=
  match s.inPlace.inKey p x k va with
  | .ok _ _ => true
  | _ => false

/-- Bytes of a context as Aczar reads them. -/
def State.peekBytes (s : State) (p x : Nat) (k : Kind) (va : Word) : Nat → Option (List Byte)
  | 0 => some []
  | n + 1 =>
    match s.inPlace.inKey p x k va with
    | .ok key _ => (State.peekBytes s p x k (va + 1) n).map (fun bs => BitVec.ofNat 8 (s.readIn p x key 1) :: bs)
    | _ => none

/-- A little-endian number in the bytes of a context. -/
def State.peek (s : State) (p x : Nat) (k : Kind) (va : Word) (n : Nat) : Option Nat :=
  (s.peekBytes p x k va n).map leNat

/-- The context owns the addresses of a record (R398). -/
def State.ownsRecord (s : State) (p x : Nat) (r : LRec) : Bool :=
  s.owns p x .fetch r.entry && s.owns p x .load r.params && s.owns p x .load (r.params + 7)
    && s.owns p x .store r.done
    && (r.ftab == 0 || (s.owns p x .load r.ftab && s.owns p x .load (r.ftab + 511)))

/-- Record k of a variant directory (R372): its map, `any` and entry. -/
def State.variant (s : State) (p x : Nat) (va : Word) (k : Nat) : Option (BitVec 256 × Word × Word) :=
  match s.peek p x .fetch (addrAt va (64 + 48 * k) 1) 32, s.peek p x .fetch (addrAt va (96 + 48 * k) 1) 8,
    s.peek p x .fetch (addrAt va (104 + 48 * k) 1) 8 with
  | some m, some a, some e => some (BitVec.ofNat 256 m, BitVec.ofNat 64 a, BitVec.ofNat 64 e)
  | _, _, _ => none

/-- A record of a directory keeps R372. -/
def variantGood (v : BitVec 256 × Word × Word) : Bool :=
  v.2.1.toNat < 2 && (v.2.1 == 0 || v.1 == 0) && v.2.2.toNat % 4 == 0

/-- The entry that placement variants give a record (R373); none for code 4. -/
def State.variantEntry (s : State) (p x : Nat) (va : Word) : Option Word :=
  match s.peek p x .fetch va 4 with
  | none => none
  | some w =>
    if w != 0xFFFFFFFF then some va
    else
      match s.peek p x .fetch (va + 4) 4, s.peek p x .fetch (va + 8) 56 with
      | some n, some rest =>
        if n = 0 ∨ 16 < n ∨ rest ≠ 0 then none
        else
          let vs := (List.range n).map (s.variant p x va)
          if vs.any (fun v => match v with | some v => !variantGood v | none => true) then none
          else
            let vs := vs.filterMap id
            match vs.find? (fun v => v.2.1 == 0 && v.1 == s.defects) with
            | some v => some v.2.2
            | none => (vs.find? (fun v => v.2.1 == 1)).map (fun v => v.2.2)
      | _, _ => none

/-- The aligned set of clusters of size g that holds cluster c (R306). -/
def groupOf (c g : Nat) : List Nat := (List.range g).map (fun i => c / g * g + i)

/-- The partition holds an aligned set of a group size (R301). -/
def Part.holdsGroup (p : Part) (g : Nat) : Bool := p.clusters.any (fun c => (groupOf c g).all p.clusters.contains)

/-- The first check that a launch of partition n fails (R301), or the entry of its iterations. -/
def State.checkLaunch (s : State) (n : Nat) (p : Part) (rec : BitVec 512) : Nat ⊕ Word :=
  let r := lrecOf rec
  match p.running with
  | none => .inl (if r.bad then 1 else 2)
  | some x =>
    if r.bad then .inl 1
    else if r.part != n || !s.ownsRecord n x r then .inl 2
    else if r.grp == 3 || !p.holdsGroup r.size then .inl 3
    else
      match s.variantEntry n x r.entry with
      | none => .inl 4
      | some e =>
        if r.gang && decide (r.tick * 1000 ≤ s.mtime) then .inl 5
        else if r.gang && !s.synced then .inl 20
        else .inr e

/-- A launch queued in a context (R303, R308, R310). -/
def Ctx.queueLaunch (c : Ctx) (now : Nat) (rec : BitVec 512) (entry param : Word)
    (node : Option (Nat × Nat × Nat)) : Ctx :=
  let r := lrecOf rec
  let l : Launch :=
    { num := c.nextLaunch, record := rec, entry := entry, param := param, counter := 0, ended := 0, prio := r.prio,
      last := none, since := if r.gang then max now (r.tick * 1000) else now, node := node }
  { c with launches := c.launches ++ [l], nextLaunch := c.nextLaunch + 1 }

/-- `LAUNCH`: a launch request is checked, and queued for the running context or refused (R301). -/
def execLaunch (m : Msg) (rec : BitVec 512) (s : State) : Host.Outcome State Fault Refusal :=
  request 1 m s (len := fun n => n == 64) fun p s =>
    match s.checkLaunch m.part p rec with
    | .inl code => s.reply m code .none
    | .inr e =>
      match p.running.bind (fun x => (tget p.ctxs x).map (fun c => (x, c))) with
      | some (x, c) =>
        (s.setCtx m.part x (c.queueLaunch s.mtime rec e (lrecOf rec).params none)).reply m 0 .none
      | none => s.reply m 2 .none

/-! ### The walker (R303-R310) -/

/-- 2 ms (R308). -/
def agingPeriod : Nat := 2000000

/-- A launch with undispatched iterations that may be dispatched (R303, R310). -/
def Launch.open? (l : Launch) (now : Nat) : Bool :=
  let r := lrecOf l.record
  decide (l.counter < r.total) && (!r.gang || decide (r.tick * 1000 ≤ now))

/-- The effective priority (R308). -/
def Launch.effective (l : Launch) (now : Nat) : Nat := min 7 (l.prio + (now - l.since) / agingPeriod)

/-- l is to be dispatched before k, which was queued earlier (R308). -/
def Launch.before (now : Nat) (l k : Launch) : Bool :=
  if l.effective now == k.effective now then
    match l.last, k.last with
    | none, some _ => true
    | some a, some b => decide (a < b)
    | _, none => false
  else decide (k.effective now < l.effective now)

/-- The launch that the walker chooses from a list (R308). -/
def chooseLaunch (now : Nat) : List Launch → Option Launch → Option Launch
  | [], best => best
  | l :: ls, best =>
    chooseLaunch now ls (match best with
      | none => some l
      | some k => if l.before now k then some l else some k)

/-- A cluster is free (R307): its control core is idle and it runs no iteration. -/
def State.free? (s : State) (c : Nat) : Bool := (s.hart (16 * c + 8)).status == .idle && (s.fast c).iter.isNone

/-- A7 of an iteration (R305): rank and member mask. -/
def groupWord (c : Nat) (set : List Nat) : Word :=
  let mask := set.foldl (fun m k => m + 2 ^ (k % 4)) 0
  BitVec.ofNat 64 ((set.filter (fun k => decide (k < c))).length + 16 * mask)

/-- The control core as an iteration starts it (R305). -/
def Hart.atEntry (h : Hart) (l : Launch) (n : Nat) (set : List Nat) (c : Nat) : Hart :=
  let r := lrecOf l.record
  let put := fun (h : Hart) (k : Reg) (x : Word) => h.setA k x 1
  let h := h.finish
  let h := put (put (put (put h 1 (r.index n 0)) 2 (r.index n 1)) 3 (r.index n 2)) 4 (r.index n 3)
  let h := put (put (put (put h 5 l.param) 6 (BitVec.ofNat 64 n)) 7 (groupWord c set)) 8 r.ftab
  { h with status := .running, pc := l.entry, hctl := mkHctl false r.rm r.chk false, lent := none, preempt := false,
           expired := false, stop := StopRec.clear }

/-- Start one iteration on the clusters of a set (R305, R306). -/
def State.startIteration (s : State) (p x : Nat) (l : Launch) (n : Nat) (set : List Nat) : State :=
  set.foldl (fun s c =>
    let k := s.cluster c
    let s := s.setCluster c { k with
      reserved := none
      fast := { k.fast with iter := some { part := p, ctx := x, launch := l.num, n := n } } }
    s.setHart (16 * c + 8) ((s.hart (16 * c + 8)).atEntry l n set c)) s

/-- A dispatch of launch l (R303, R308): its counter moves on, its priority returns to `prio`. -/
def Ctx.dispatched (c : Ctx) (l : Launch) (now : Nat) : Ctx :=
  { c with
    dispatches := c.dispatches + 1
    launches := c.launches.map (fun k =>
      if k.num == l.num then
        { k with counter := k.counter + 1, last := some c.dispatches, prio := (lrecOf k.record).prio, since := now }
      else k) }

/-- Reserve the clusters of a set for a launch, or start them when all are free (R306): none while a member still runs the
outgoing context of a switch (R309, R337). -/
def State.serve (s : State) (p x : Nat) (k : Ctx) (l : Launch) (set : List Nat) : State :=
  let me := some (p, x, l.num)
  if set.any s.leaving then s
  else if set.any (fun c => (s.cluster c).reserved.isSome && (s.cluster c).reserved != me) then s
  else if set.all s.free? then
    (s.setCtx p x (k.dispatched l s.mtime)).startIteration p x l l.counter set
  else if set.length == 1 then s
  else set.foldl (fun s c => s.setCluster c { s.cluster c with reserved := me }) s

/-- End a reservation that no iteration is left for. -/
def State.unreserve (s : State) (r : Nat × Nat × Nat) (p : Part) : State :=
  p.clusters.foldl (fun s c =>
    if (s.cluster c).reserved == some r then s.setCluster c { s.cluster c with reserved := none } else s) s

/-- The launches that may use cluster c (R306): the aligned set that holds it lies in the partition. -/
def Part.serves (p : Part) (c : Nat) (l : Launch) : Bool := (groupOf c (lrecOf l.record).size).all p.clusters.contains

/-- The walker at cluster c of partition p, whose context x is k. -/
def State.walk (s : State) (c p x : Nat) (q : Part) (k : Ctx) : State :=
  match (s.cluster c).reserved with
  | some r =>
    match k.launches.find? (fun l => l.num == r.2.2 && l.open? s.mtime) with
    | some l => s.serve p x k l (groupOf c (lrecOf l.record).size)
    | none => s.unreserve r q
  | none =>
    match chooseLaunch s.mtime (k.launches.filter (fun l => l.open? s.mtime && q.serves c l)) none with
    | some l => s.serve p x k l (groupOf c (lrecOf l.record).size)
    | none => s

/-- `WALKER_DISPATCH`: the walker serves cluster c, where it is free (R303, R306, R308): not while its context is being
switched out (R337), nor in a halted partition (R93). -/
def execWalkerDispatch (c : Nat) (s : State) : Host.Outcome State Fault Refusal :=
  match s.partOf c with
  | none => .next s
  | some (p, q) =>
    if q.halted || s.leaving c || !s.free? c then .next s
    else
      match q.running.bind (fun x => (tget q.ctxs x).map (fun k => (x, k))) with
      | some (x, k) => .next (s.walk c p x q k)
      | none => .next s

/-- The launches of a context when it stops or starts being served (R308): the full periods so far are counted, and the
next one starts now. -/
def Ctx.refold (c : Ctx) (now : Nat) (served : Bool) : Ctx :=
  { c with launches := c.launches.map (fun l =>
      if served && l.open? now then { l with prio := l.effective now, since := now } else { l with since := max l.since now }) }

/-- The context that the walkers of a partition serve (R308). -/
def State.serves (s : State) (p x : Nat) : Bool := ((tget s.parts p).bind (fun q => q.running)) == some x

/-- `PRIORITY_AGING`: full periods of 2 ms without a dispatch are added to the effective priority of a launch of the running
context (R308). -/
def execPriorityAging (part ctx l : Nat) (s : State) : Host.Outcome State Fault Refusal :=
  match (s.ctx part ctx).filter (fun _ => s.serves part ctx) with
  | none => .next s
  | some c =>
    .next (s.setCtx part ctx { c with launches := c.launches.map (fun k =>
      if k.num == l && k.open? s.mtime then
        { k with prio := k.effective s.mtime, since := k.since + (s.mtime - k.since) / agingPeriod * agingPeriod }
      else k) })

/-- `GANG_LAUNCH_TICK`: the tick of a gang launch has come, and its periods count from it (R310). -/
def execGangLaunchTick (part ctx l : Nat) (s : State) : Host.Outcome State Fault Refusal :=
  match s.ctx part ctx with
  | none => .next s
  | some c =>
    .next (s.setCtx part ctx { c with launches := c.launches.map (fun k =>
      let t := (lrecOf k.record).tick * 1000
      if k.num == l && (lrecOf k.record).gang && decide (t ≤ s.mtime) && k.last.isNone && decide (k.since < t) then
        { k with since := t }
      else k) })

/-! ### Completion records (R307) and task graphs (R311-R313) -/

/-- Write a completion record, all 16 bytes at once (R307). Aczar writes it where its page lies, which gives the page no other
contents than to migrate it first (R329, R398); where the context no longer maps it, nothing is written. -/
def State.putRecord (s : State) (p x : Nat) (va : Word) (status cause : Nat) : State :=
  match s.inPlace.inKey p x .store va with
  | .ok key _ => s.performIn p x (cellsOf key 16 (status + 256 * cause + 2 ^ 64 * (s.mtime % 2 ^ 64)))
  | _ => s

/-- The parameter block of node j of a replay (R313): the version current at its generation, or that of its record. -/
def Graph.param (g : Graph) (r : Replay) (j : Nat) (n : GraphNode) : Word :=
  match (g.versions.filter (fun v => v.1 == j && decide (v.2.1 ≤ r.gen))).getLast? with
  | some v => v.2.2.1
  | none => (lrecOf n.record).params

/-- Every node that names j in its `succ` has completed (R312). -/
def Replay.ready (r : Replay) (j : Nat) : Bool :=
  r.nodes.zipIdx.all (fun e => !e.1.succ.getLsbD j || r.done.contains e.2)

/-- Queue the nodes of a replay that are ready (R312). -/
def queueReady (now : Nat) (g : Graph) : List (GraphNode × Nat) → Replay → Ctx → Replay × Ctx
  | [], r, c => (r, c)
  | (n, j) :: ns, r, c =>
    if r.ready j && !r.queued.contains j then
      queueReady now g ns { r with queued := r.queued ++ [j] }
        (c.queueLaunch now n.record n.entry (g.param r j n) (some (g.addr, r.num, j)))
    else queueReady now g ns r c

/-- Put a graph back into its context. -/
def Ctx.putGraph (c : Ctx) (g : Graph) : Ctx := { c with graphs := c.graphs.filter (fun k => k.addr != g.addr) ++ [g] }

/-- The graph at an address; its generation starts at 0 (R313). -/
def Ctx.graph (c : Ctx) (a : Nat) : Graph :=
  (c.graphs.find? (fun g => g.addr == a)).getD
    { addr := a, gen := 0, versions := [], queue := [], running := none, nextReplay := 0 }

/-- The versions that a graph keeps (R313): the latest of each node, and those that the running replay may read. -/
def Graph.kept (g : Graph) : List (Nat × Nat × Word × Nat) :=
  g.versions.filter (fun v =>
    let later := fun lim => g.versions.any (fun u => u.1 == v.1 && decide (v.2.1 < u.2.1) && decide (u.2.1 ≤ lim))
    !later g.gen || (match g.running with | some r => decide (v.2.1 ≤ r.gen) && !later r.gen | none => false))

/-- Write a patch's contents in the context's memory, where its pages lie. -/
def State.writeBytes (s : State) (p x : Nat) (va : Word) : List Byte → Option State
  | [] => some s
  | b :: bs =>
    match s.inPlace.inKey p x .store va with
    | .ok key _ => State.writeBytes (s.performIn p x [(key, b, 0xFF#8)]) p x (va + 1) bs
    | _ => none

/-- The parameter blocks that a new version must leave alone (R313): the kept versions, and those that the records of the
replays queued or running name, of at most 4 KiB each. -/
def Graph.blocks (g : Graph) : List (Word × Nat) :=
  let rs := g.running.toList ++ g.queue.filterMap (fun i => match i with | .replay r => some r | _ => none)
  g.kept.map (fun v => (v.2.2.1, v.2.2.2))
    ++ rs.flatMap (fun r => r.nodes.map (fun n => ((lrecOf n.record).params, 4096)))

/-- The parameter blocks that the launch records of a task graph in memory name, where it can be read (R311, R313). -/
def State.tableBlocks (s : State) (p x a : Nat) : List (Word × Nat) :=
  (List.range 64).filterMap (fun j =>
    match s.peek p x .load (BitVec.ofNat 64 a) 8 with
    | some nn =>
      if j < nn then
        match s.peek p x .load (BitVec.ofNat 64 (a + 16 + 16 * j)) 8 with
        | some r => (s.peek p x .load (BitVec.ofNat 64 (r + 16)) 8).map (fun w => (BitVec.ofNat 64 w, 4096))
        | none => none
      else none
    | none => none)

/-- Go through a graph's queue (R313): patches are written and acknowledged, and a replay starts when none runs. A patch
whose version cannot be written, or would write over one that a replay may still read, is refused with status 18 (log entry
45). -/
def pumpGraph (p x a : Nat) : Nat → State → State
  | 0, s => s
  | n + 1, s =>
    match s.ctx p x with
    | none => s
    | some c =>
      let g := c.graph a
      match g.queue with
      | [] => s
      | .patch m node dst data :: rest =>
        let s1 := s.setCtx p x (c.putGraph { g with queue := rest })
        let busy := (g.blocks ++ s.tableBlocks p x a).any (fun b =>
          decide (b.1.toNat < dst.toNat + data.length ∧ dst.toNat < b.1.toNat + b.2))
        match (if busy then none else s1.writeBytes p x dst data) with
        | none => pumpGraph p x a n (s1.replyNow m 18 .none)
        | some s2 =>
          let g := { g with queue := rest, gen := g.gen + 1, versions := g.kept ++ [(node, g.gen + 1, dst, data.length)] }
          let s3 := match s2.ctx p x with
            | some c => s2.setCtx p x (c.putGraph g)
            | none => s2
          pumpGraph p x a n (s3.replyNow m 0 .none)
      | .replay r :: rest =>
        if g.running.isSome then s
        else
          let r := { r with gen := g.gen }
          let q := queueReady s.mtime g r.nodes.zipIdx r c
          pumpGraph p x a n (s.setCtx p x (q.2.putGraph { g with queue := rest, running := some q.1 }))

/-- Go through a graph's queue as far as it goes. -/
def State.pump (s : State) (p x a : Nat) : State :=
  match s.ctx p x with
  | some c => pumpGraph p x a (c.graph a).queue.length s
  | none => s

/-- Node j of a task graph of nn nodes, its entry in the table and its record checked (R311, R398), or a code of R301. -/
def State.graphNode (s : State) (n x : Nat) (p : Part) (a : Word) (nn j : Nat) : Nat ⊕ GraphNode :=
  match s.peek n x .load (addrAt a (16 + 16 * j) 1) 8, s.peek n x .load (addrAt a (24 + 16 * j) 1) 8 with
  | some rec, some succ =>
    let sc := BitVec.ofNat 64 succ
    if (List.range 64).any (fun k => sc.getLsbD k && !decide (j < k ∧ k < nn)) || rec % 64 != 0 then .inl 1
    else
      match s.peek n x .load (BitVec.ofNat 64 rec) 64 with
      | none => .inl 2
      | some bytes =>
        match s.checkLaunch n p (BitVec.ofNat 512 bytes) with
        | .inl code => .inl code
        | .inr e => .inr { record := BitVec.ofNat 512 bytes, entry := e, succ := sc }
  | _, _ => .inl 2

/-- The nodes of a task graph (R311), or the first code of R301 that one of its entries or records gives: of two nodes that
fail, the one with the earlier code in R301's table (DESIGN CHOICE, log entry 45). -/
def State.graphNodes (s : State) (n x : Nat) (p : Part) (a : Word) (nn : Nat) : Nat ⊕ List GraphNode :=
  let l := (List.range nn).map (s.graphNode n x p a nn)
  match (l.filterMap Sum.getLeft?).min? with
  | some code => .inl code
  | none => .inr (l.filterMap Sum.getRight?)

/-- The replay of a task graph at an address, or a code of R301 (R311): the address is checked before anything is read. -/
def State.readGraph (s : State) (n x : Nat) (p : Part) (a : Word) (num : Nat) : Nat ⊕ Replay :=
  if a.toNat % 64 ≠ 0 then .inl 1
  else
    match s.peek n x .load a 8, s.peek n x .load (a + 8) 8 with
    | some w, some gdone =>
      if w = 0 ∨ 64 < w ∨ gdone % 16 ≠ 0 then .inl 1
      else
        match s.graphNodes n x p a w with
        | .inl code => .inl code
        | .inr ns => .inr { num := num, gen := 0, gdone := BitVec.ofNat 64 gdone, nodes := ns, queued := [], done := [] }
    | _, _ => .inl 2

/-- `GRAPH_REPLAY`: a replay is checked and takes its place in the graph's queue (R311-R313). -/
def execGraphReplay (m : Msg) (graph : Nat) (s : State) : Host.Outcome State Fault Refusal :=
  request 2 m s (len := fun n => decide (8 ≤ n)) fun p s =>
    match p.running.bind (fun x => (tget p.ctxs x).map (fun c => (x, c))) with
    | none => s.reply m (if graph % 64 = 0 then 2 else 1) .none
    | some (x, c) =>
      let g := c.graph graph
      match s.readGraph m.part x p (BitVec.ofNat 64 graph) g.nextReplay with
      | .inl code => s.reply m code .none
      | .inr r =>
        let g := { g with queue := g.queue ++ [.replay r], nextReplay := g.nextReplay + 1 }
        ((s.setCtx m.part x (c.putGraph g)).pump m.part x graph).reply m 0 (.value (BitVec.ofNat 64 r.num))

/-- `PATCH`: new contents of at most 4 KiB for a node's parameter block, in the version at `dst` that Aczar has chosen (R313,
R350). It is answered once they are written. -/
def execPatch (m : Msg) (graph node dst : Nat) (data : List (BitVec 8)) (s : State) :
    Host.Outcome State Fault Refusal :=
  request 3 m s (len := fun n => decide (data.length ≤ n)) fun p s =>
    match p.running.bind (fun x => (tget p.ctxs x).map (fun c => (x, c))) with
    | none => s.reply m 2 .none
    | some (x, c) =>
      if 64 ≤ node ∨ 4096 < data.length then s.reply m 16 .none
      else
        let g := c.graph graph
        let g := { g with queue := g.queue ++ [.patch m node (BitVec.ofNat 64 dst) data] }
        ((s.replyLater m).setCtx m.part x (c.putGraph g)).pump m.part x graph

/-- The channels of a cluster for a context: live where it runs there, else in a shadow bank on its way out, else in the
image. -/
def State.chansOf (s : State) (x : Nat) (q : Part) (k : Ctx) (c : Nat) : List Channel :=
  if q.ctxOn c == some x then (s.fast c).chans.toList
  else
    match (s.cluster c).shadow.filter (fun b => b.ctx == x && b.outgoing), tget k.images c with
    | some b, _ => b.fast.chans.toList
    | none, some i => i.fast.chans.toList
    | none, none => []

/-- A transfer issued under a launch is not complete (R307). -/
def State.busyLaunch (s : State) (p x l : Nat) (q : Part) (k : Ctx) : Bool :=
  q.clusters.any (fun c => (s.chansOf x q k c).any (fun ch => ch.xfers.any (fun t => t.launch == some (p, x, l))))

/-- A node of the running replay has completed (R312): its ready successors are queued, and with the last node `gdone` is
written and the graph's queue goes on. -/
def State.nodeDone (s : State) (p x : Nat) (node : Nat × Nat × Nat) : State :=
  match s.ctx p x with
  | none => s
  | some c =>
    let g := c.graph node.1
    match g.running with
    | none => s
    | some r =>
      if r.num != node.2.1 then s
      else
        let r := { r with done := r.done ++ [node.2.2] }
        if r.nodes.length ≤ r.done.length then
          let s := s.setCtx p x (c.putGraph { g with running := none })
          (s.putRecord p x r.gdone 0 0).pump p x node.1
        else
          let q := queueReady s.mtime g r.nodes.zipIdx r c
          s.setCtx p x (q.2.putGraph { g with running := some q.1 })

/-- `LAUNCH_COMPLETION`: every iteration of a launch has ended and every transfer issued under it is complete: its
completion record is written (R307, R192), and a graph goes on (R312). -/
def execLaunchCompletion (part ctx l : Nat) (s : State) : Host.Outcome State Fault Refusal :=
  match tget s.parts part, s.ctx part ctx with
  | some q, some c =>
    match c.launches.find? (fun k => k.num == l) with
    | none => .next s
    | some k =>
      let r := lrecOf k.record
      if k.counter < r.total ∨ k.ended < r.total * r.size ∨ s.busyLaunch part ctx l q c then .next s
      else
        let t := s.putRecord part ctx r.done 0 0
        let t := match t.ctx part ctx with
          | some c => t.setCtx part ctx { c with launches := c.launches.filter (fun k => k.num != l) }
          | none => t
        .next (match k.node with | some n => t.nodeDone part ctx n | none => t)
  | _, _ => .next s

end Sys2Proof.Machine
end

