-- ==== Sys2Proof/Machine/Loom.lean ====
section
/-! DEFINITION. Major MX: the loom, its operand slots and accumulator tiles (R224-R246). -/

namespace Sys2Proof.Machine

/-! ### Configuration (R229, R230) -/

/-- A configuration of `mx.cfg` (R229). -/
structure MxCfg where
  m : Nat
  n : Nat
  k : Nat
  af : BitVec 4
  bf : BitVec 4
  qb : Nat
  deriving DecidableEq, Repr

/-- The fields of a configuration word (R229). -/
def mxCfgOf (w : Word) : MxCfg :=
  { m := (w.extractLsb' 0 8).toNat, n := (w.extractLsb' 8 9).toNat, k := (w.extractLsb' 20 10).toNat,
    af := w.extractLsb' 30 4, bf := w.extractLsb' 34 4, qb := (w.extractLsb' 38 3).toNat }

/-- The integer group: w8 and I4 (R230). -/
def intGroup (f : BitVec 4) : Bool := f == 0 || f == 11

/-- The floating group: the floating-point formats and Q4X (R230). -/
def floatGroup (f : BitVec 4) : Bool := isFloat f || f == 10

/-- A configuration word that breaks R229 or R230. A K above the row capacity of `bfmt`, which no product form may use, is
accepted here and traps at `mx.mm` and `mx.mms` (DESIGN CHOICE, log entry 45). -/
def mxCfgBad (w : Word) : Bool :=
  let c := mxCfgOf w
  let q := c.af == 10 || c.bf == 10
  w.extractLsb' 41 23 != 0 || w.extractLsb' 17 3 != 0 || c.m == 0 || decide (128 < c.m) || c.n == 0
    || decide (256 < c.n) || c.k == 0 || decide (512 < c.k)
    || !((intGroup c.af && intGroup c.bf) || (floatGroup c.af && floatGroup c.bf))
    || (if q then c.qb == 0 || decide (4 < c.qb) else c.qb != 0)

/-- The operation mode is integer (R230). -/
def MxCfg.int (c : MxCfg) : Bool := intGroup c.af

/-- Row capacity of a format (R230). -/
def rowCap (f : BitVec 4) : Nat := if f == 10 then 384 else 2048 / fmtWidth f

/-- The step depth Kc (R230). -/
def MxCfg.kc (c : MxCfg) : Nat := max 1 (32 / max (fmtWidth c.af) (fmtWidth c.bf))

/-- The tiles that a result of N columns takes (R234). -/
def MxCfg.tiles (c : MxCfg) : Nat := (c.n + 63) / 64

/-! ### Slots, busy slots, the queue (R226-R228) -/

/-- The leader of the membership of cluster c: its lowest-numbered member (R244). -/
def State.leader (s : State) (c : Nat) : Nat :=
  4 * (c / 4) + ((List.range 4).find? (fun p => (s.fast c).coop.getLsbD p)).getD 0

/-- An operation still reads the slot `o` of its own cluster, or slot `o` of its leader `c`. -/
def LoomOp.readsOwn (o : Nat) (p : LoomOp) : Bool := p.reading.getLsbD o

/-- An operation still reads slot `o` of cluster `c` as that of its leader (R245). -/
def LoomOp.readsLeader (c o : Nat) (p : LoomOp) : Bool :=
  p.readingA && (match p.what with
    | .mm _ a _ _ _ _ l _ => l == some c && a.toNat == o
    | _ => false)

/-- Slot `o` of cluster c is busy (R228, R245). -/
def State.slotBusy (s : State) (c o : Nat) : Bool :=
  (s.cluster c).queue.any (LoomOp.readsOwn o)
    || (List.range 4).any (fun p => (s.cluster (4 * (c / 4) + p)).queue.any (LoomOp.readsLeader c o))

/-- The loom queue holds 8 operations (R224). -/
def State.queueFull (s : State) : Bool := decide (8 ≤ (s.cluster s.myCluster).queue.length)

/-- Issue of an MX form of the control core (R67, R225). -/
def mxInfo (w : BitVec 3) (d : Option Dst) (srcs : List Dst) (ill : Bool) : Info :=
  { wt := w, on := .control, priv := false, lending := .no, pred := none, flow := false, vec := false, dest := d,
    srcs := srcs, lat := 0, ill := ill, illCsr := false, ecc := .elems }

/-- A form that finds the queue full waits to issue (R226). -/
def roomFor (s : State) (k : State → Res) : Res := if s.queueFull then .stall s else k s

/-- An operation that reads no slot. -/
def plainOp (w : LoomWhat) : LoomOp :=
  { what := w, started := false, reading := 0, readingA := false, snapA := 0, snapB := 0, snapB1 := 0 }

/-- Enter an operation in the queue of the cluster. -/
def State.enqueue (s : State) (o : LoomOp) : State :=
  let k := s.cluster s.myCluster
  s.setCluster s.myCluster { k with queue := k.queue ++ [o], looms := k.looms + 1 }

/-- The slots that are claimed as the operations performed so far leave them: a release still in the queue has not taken
effect (R226). -/
def Cluster.claimed (k : Cluster) : BitVec 16 :=
  k.queue.foldl (fun m o => match o.what with | .rel x => m ||| x | _ => m) k.fast.claimed

/-- The unclaimed slots in rising order. -/
def unclaimed (claimed : BitVec 16) : List Nat := (List.range 16).filter (fun o => !claimed.getLsbD o)

/-- The set of slots of a list. -/
def slotSet (os : List Nat) : BitVec 16 := os.foldl (fun m o => m ||| (1#16 <<< o)) 0

/-- `mx.claim` (R227). -/
def execMxClaim (w : BitVec 3) (d a : Reg) (s : State) : Host.Outcome State Fault Refusal :=
  let h := s.me.settle s.me.now
  let n := (h.getA a).toNat
  run (mxInfo w (some (.a d)) [.a a]
      (n == 0 || decide (16 < n) || decide ((unclaimed s.myFast.claimed).length < n))) s fun s =>
    let os := (unclaimed s.myFast.claimed).take n
    if os.any (s.slotBusy s.myCluster) then .wait s
    else
      let m := slotSet os
      let t := s.setMyFast { s.myFast with claimed := s.myFast.claimed ||| m }
      .done (t.setA d (m.setWidth 64) 0)

/-- `mx.rel` (R228): the control core's own checks see the slots released at once, other harts when the loom has come to
it (R226). -/
def execMxRel (w : BitVec 3) (a : Reg) (s : State) : Host.Outcome State Fault Refusal :=
  let h := s.me.settle s.me.now
  run (mxInfo w none [.a a] ((h.getA a).extractLsb' 16 48 != 0)) s fun s => roomFor s fun s =>
    let m : BitVec 16 := (s.me.getA a).setWidth 16
    let f := s.myFast
    .done ((s.setMyFast { f with claimed := f.claimed &&& ~~~m }).enqueue (plainOp (.rel (f.claimed &&& m))))

/-- The tile modes with each tile of a mask set to one (R240-R242). -/
def setModes (ts : BitVec 4) (m : TileMode) (f : Fast) : Fast :=
  { f with tmode := Vector.ofFn (fun i : Fin 4 => if ts.getLsbD i.val then m else f.tmode[i]) }

/-- `mx.zero` (R241). -/
def execMxZero (w : BitVec 3) (a : Reg) (s : State) : Host.Outcome State Fault Refusal :=
  let h := s.me.settle s.me.now
  run (mxInfo w none [.a a] ((h.getA a).extractLsb' 4 60 != 0)) s fun s => roomFor s fun s =>
    let ts : BitVec 4 := (s.me.getA a).setWidth 4
    .done ((s.setMyFast (setModes ts .empty s.myFast)).enqueue (plainOp (.zero ts)))

/-- `mx.cfg` (R229, R230). -/
def execMxCfg (w : BitVec 3) (a : Reg) (s : State) : Host.Outcome State Fault Refusal :=
  let h := s.me.settle s.me.now
  run (mxInfo w none [.a a] (mxCfgBad (h.getA a))) s fun s => roomFor s fun s =>
    .done ((s.setMyFast { s.myFast with cfg := some (s.me.getA a) }).enqueue (plainOp .cfg))

/-- A membership that R244 refuses, for the cluster at position p of its slice group. -/
def coopBad (a : Word) (p : Nat) : Bool :=
  let m : BitVec 4 := a.setWidth 4
  let n := ((List.range 4).filter (fun i => m.getLsbD i)).length
  a.extractLsb' 4 60 != 0
    || (a != 0 && (!m.getLsbD p || n == 3 || (n == 2 && m != 0b0011#4 && m != 0b1100#4)))

/-- `mx.coop` (R244): it completes at issue like the others and waits in the queue for the operations before it (R226,
R239); the core's later forms see the membership it leaves. -/
def execMxCoop (w : BitVec 3) (a : Reg) (s : State) : Host.Outcome State Fault Refusal :=
  let h := s.me.settle s.me.now
  run (mxInfo w none [.a a] (coopBad (h.getA a) (s.myCluster % 4))) s fun s =>
    roomFor s fun s =>
      .done ((s.setMyFast { s.myFast with coop := (s.me.getA a).setWidth 4, seqn := 0, coopAt := false,
                                             coopGo := false }).enqueue
        (plainOp .coop))

/-- `mx.wait` (R239). -/
def execMxWait (w : BitVec 3) (s : State) : Host.Outcome State Fault Refusal :=
  run (mxInfo w none [] false) s fun s =>
    if (s.cluster s.myCluster).queue.isEmpty then .done s else .stall s

/-! ### Multiplying (R234-R237, R245) -/

/-- The tile may take an operation of this mode (R237). -/
def TileMode.takes (m : TileMode) (int : Bool) : Bool :=
  match m with
  | .empty => true
  | .floating => !int
  | .integer => int
  | .converted _ => false

/-- The positions of the set bits of a mask below n, in rising order (R236). -/
def setBits (m : BitVec 4096) (n : Nat) : List Nat := (List.range n).filter (fun k => m.getLsbD k)

/-- What makes `mx.mm`, or `mx.mms` with a mask, ILLEGAL (R230, R236, R237). -/
def mmBad (f : Fast) (d : ZReg) (a b : OReg) (kmask : Option (BitVec 4096)) : Bool :=
  match f.cfg with
  | none => true
  | some cw =>
    let c := mxCfgOf cw
    (match kmask with
      | none => decide (rowCap c.af < c.k)
      | some m => decide (rowCap c.af < (setBits m c.k).length))
      || decide (rowCap c.bf < c.k)
      || !f.claimed.getLsbD b.toNat
      || (decide (128 < c.n) && (b == 15 || !f.claimed.getLsbD (b.toNat + 1)))
      || (f.coop == 0 && !f.claimed.getLsbD a.toNat)
      || decide (4 < d.toNat + c.tiles)
      || (List.range' d.toNat c.tiles).any (fun t => !((f.tmode.toList[t]?.getD .empty).takes c.int))

/-- The queued operation of `mx.mm` or `mx.mms`; with no position set it reads no slot (R236). -/
def mmOp (d : ZReg) (a b : OReg) (cw : Word) (kmask : Option (BitVec 4096)) (leader : Option Nat)
    (team : BitVec 4) : LoomOp :=
  let c := mxCfgOf cw
  let reads := match kmask with | some m => !(setBits m c.k).isEmpty | none => true
  let bs := if 128 < c.n then [b.toNat, b.toNat + 1] else [b.toNat]
  { plainOp (.mm d a b cw kmask c.int leader team) with
    reading := if reads then slotSet (if leader.isSome then bs else a.toNat :: bs) else 0
    readingA := reads && leader.isSome }

/-- The tiles of a range as a mask. -/
def tileSet (d n : Nat) : BitVec 4 := (List.range' d n).foldl (fun m t => m ||| (1#4 <<< t)) 0

/-- Set an operation on its way: its empty tiles take its mode, and it enters the queue (R226, R237). -/
def State.issueMm (s : State) (d : ZReg) (a b : OReg) (cw : Word) (kmask : Option (BitVec 4096))
    (leader : Option Nat) : State :=
  let c := mxCfgOf cw
  let m := if c.int then TileMode.integer else .floating
  (s.setMyFast (setModes (tileSet d.toNat c.tiles) m s.myFast)).enqueue (mmOp d a b cw kmask leader s.myFast.coop)

/-- The members that stand at the cooperative operation which this cluster issues may issue theirs (R245). -/
def State.callTeam (s : State) (c : Nat) : State :=
  let f := s.fast c
  (List.range 4).foldl (fun s p =>
    let m := 4 * (c / 4) + p
    let g := s.fast m
    if m != c && f.coop.getLsbD p && g.coopAt && g.seqn == f.seqn then s.setFast m { g with coopGo := true } else s) s

/-- `mx.mm` and `mx.mms`: in cooperative mode the issue waits until every member is at the same operation (R245). -/
def mmForm (i : Info) (d : ZReg) (a b : OReg) (mask : Hart → Option (BitVec 4096)) (s : State) :
    Host.Outcome State Fault Refusal :=
  run i s fun s => roomFor s fun s =>
    match s.myFast.cfg with
    | none => .trap s .illegal (s.word.setWidth 64) false
    | some cw =>
      let km := mask s.me
      if s.myFast.coop == 0 then .done (s.issueMm d a b cw km none)
      else
        let t := s.setMyFast { s.myFast with coopAt := true }
        if t.coopReady t.myCluster then
          let t := t.callTeam t.myCluster
          let f := t.myFast
          .done ((t.setMyFast { f with coopAt := false, coopGo := false, seqn := f.seqn + 1 }).issueMm d a b cw km
            (some (t.leader t.myCluster)))
        else .wait t

/-- `mx.mm` (R234, R237, R245). -/
def execMxMm (w : BitVec 3) (d : ZReg) (a b : OReg) (s : State) : Host.Outcome State Fault Refusal :=
  mmForm (mxInfo w none [] (mmBad s.myFast d a b none)) d a b (fun _ => none) s

/-- `mx.mms` (R236, R237, R245). -/
def execMxMms (w : BitVec 3) (d : ZReg) (a b : OReg) (k : BitVec 3) (s : State) :
    Host.Outcome State Fault Refusal :=
  let h := s.me.settle s.me.now
  let r : MReg := 0#1 ++ k
  mmForm (mxInfo w none [.m r] (mmBad s.myFast d a b (some (h.getM r)))) d a b (fun h => some (h.getM r)) s

/-- Bits of a slot (R231). -/
def slotBits (x : BitVec 262144) (pos w : Nat) : Nat := (x.toNat >>> pos) % 2 ^ w

/-- Element k of a row in a format other than Q4X (R231). -/
def slotElem (f : BitVec 4) (x : BitVec 262144) (row k : Nat) : Nat :=
  slotBits x (2048 * row + fmtWidth f * k) (fmtWidth f)

/-- Block j of a Q4X row (R231). -/
def slotBlock (B : Nat) (x : BitVec 262144) (row j : Nat) : Block :=
  { header := BitVec.ofNat 16 (slotBits x (2048 * row + 8 * (192 + 2 * j)) 16)
    codes := (List.range B).map (fun k => slotBits x (2048 * row + 4 * (j * B + k)) 4) }

/-- The elements of a row at positions `ks`, exactly, with the flags of the blocks read (R43, R231, R235). -/
def rowFps (f : BitVec 4) (B : Nat) (x : BitVec 262144) (row : Nat) (ks : List Nat) : List Fp × BitVec 8 :=
  if f == 10 then
    let r := ks.map (fun k => (k, (slotBlock B x row (k / B)).decode))
    (r.map (fun e => e.2.1[e.1 % B]?.getD (.fin false 0 0)), r.foldl (fun m e => m ||| e.2.2) 0)
  else (ks.map (fun k => (Fmt.ofCode f).read (slotElem f x row k)), 0)

/-- The elements of a row at positions `ks` as signed integers. -/
def rowInts (f : BitVec 4) (x : BitVec 262144) (row : Nat) (ks : List Nat) : List Int :=
  ks.map (fun k => sInt (fmtWidth f) (slotElem f x row k))

/-- A list in pieces of n. -/
def pieces {α : Type} (n : Nat) (l : List α) : List (List α) :=
  (List.range ((l.length + n - 1) / n)).map (fun g => (l.drop (g * n)).take n)

/-- The exact sum of one step's products with its flags (R234, R235). Where a step holds a quiet NaN operand beside
infinities of opposite sign, the sum goes from left to right, so that `NV` is set only where both infinities come before the
NaN (DESIGN CHOICE, log entry 45). -/
def stepSum : List (Fp × BitVec 8) → Fp × BitVec 8
  | [] => (.fin false 0 0, 0)
  | p :: ps => ps.foldl (fun a q => let t := Fp.add 0 a.1 q.1; (t.1, a.2 ||| q.2 ||| t.2)) p

/-- Add one step to an entry (R45, R234). -/
def addStep (z : Nat × BitVec 8) (ps : List (Fp × BitVec 8)) : Nat × BitVec 8 :=
  let q := stepSum ps
  let t := Fp.add 0 (Fmt.f80.read z.1) q.1
  let r := Fmt.f80.round 0 t.1
  (r.1, z.2 ||| q.2 ||| t.2 ||| r.2)

/-- A floating entry after every step (R234, R235). -/
def floatEntry (kc : Nat) (a b : List Fp) (z : BitVec 80) : BitVec 80 × BitVec 8 :=
  let r := (pieces kc ((a.zip b).map (fun p => Fp.mul p.1 p.2))).foldl addStep (z.toNat, 0)
  (BitVec.ofNat 80 r.1, r.2 &&& (flNV ||| flOF))

/-- An integer entry after every step (R234). -/
def intEntry (a b : List Int) (z : BitVec 80) : BitVec 80 :=
  z + BitVec.ofInt 80 (((a.zip b).map (fun p => p.1 * p.2)).foldl (· + ·) 0)

/-- Change one entry of a tile with a function that also gives flags. -/
def putEntry (t : Vector (Vector (BitVec 80) 8192) 4) (tile e : Nat) (f : BitVec 80 → BitVec 80 × BitVec 8) :
    Vector (Vector (BitVec 80) 8192) 4 × BitVec 8 :=
  match t[tile]? with
  | some x =>
    match x[e]? with
    | some z => (t.setIfInBounds tile (x.setIfInBounds e (f z).1), (f z).2)
    | none => (t, 0)
  | none => (t, 0)

/-- The tiles after a product: rows of A and columns of B as lists, column j in tile d + ⌊j/64⌋ (R234). -/
def product {α : Type} (d : Nat) (rows cols : List α) (f : α → α → BitVec 80 → BitVec 80 × BitVec 8)
    (t : Vector (Vector (BitVec 80) 8192) 4) : Vector (Vector (BitVec 80) 8192) 4 × BitVec 8 :=
  (rows.zipIdx).foldl (fun acc r =>
    (cols.zipIdx).foldl (fun acc c =>
      let q := putEntry acc.1 (d + c.2 / 64) (64 * r.2 + c.2 % 64) (f r.1 c.1)
      (q.1, acc.2 ||| q.2)) acc) (t, 0)

/-- The effect of a product on the tiles, with its flags (R231, R234-R236). -/
def mmEffect (o : LoomOp) (d : ZReg) (cw : Word) (kmask : Option (BitVec 4096))
    (t : Vector (Vector (BitVec 80) 8192) 4) : Vector (Vector (BitVec 80) 8192) 4 × BitVec 8 :=
  let c := mxCfgOf cw
  let ks := match kmask with | some m => setBits m c.k | none => List.range c.k
  let rs := List.range ks.length
  let col := fun j => (if j < 128 then o.snapB else o.snapB1, j % 128)
  if ks.isEmpty then (t, 0)
  else if c.int then
    product d.toNat ((List.range c.m).map (fun i => rowInts c.af o.snapA i rs))
      ((List.range c.n).map (fun j => rowInts c.bf (col j).1 (col j).2 ks)) (fun a b z => (intEntry a b z, 0)) t
  else
    let B := blockLen c.qb
    let rows := (List.range c.m).map (fun i => rowFps c.af B o.snapA i rs)
    let cols := (List.range c.n).map (fun j => rowFps c.bf B (col j).1 (col j).2 ks)
    let r := product d.toNat (rows.map (fun x => x.1)) (cols.map (fun x => x.1)) (floatEntry c.kc) t
    (r.1, r.2 ||| rows.foldl (fun m x => m ||| x.2) 0 ||| cols.foldl (fun m x => m ||| x.2) 0)

/-! ### Conversion and the tiles (R240-R243) -/

/-- What makes `mx.cvt` ILLEGAL (R242). -/
def cvtIll (f : Fast) (a : Word) : Bool :=
  a.extractLsb' 8 56 != 0 || decide (9 < (a.extractLsb' 4 4).toNat)
    || (List.range 4).any (fun t => a.getLsbD t && (match f.tmode.toList[t]?.getD .empty with
        | .converted _ => true
        | _ => false))

/-- `mx.cvt` (R242): the rounding mode is that of its issue. -/
def execMxCvt (w : BitVec 3) (a : Reg) (s : State) : Host.Outcome State Fault Refusal :=
  let h := s.me.settle s.me.now
  run (mxInfo w none [.a a] (cvtIll s.myFast (h.getA a))) s fun s => roomFor s fun s =>
    let x := s.me.getA a
    let ts : BitVec 4 := x.setWidth 4
    let f := x.extractLsb' 4 4
    .done ((s.setMyFast (setModes ts (.converted f) s.myFast)).enqueue
      (plainOp (.cvt ts f s.me.rm s.myFast.tmode.toList)))

/-- One entry converted to format f (R242). -/
def cvtEntry (m : TileMode) (rm : BitVec 2) (f : BitVec 4) (x : BitVec 80) : BitVec 80 × BitVec 8 :=
  let w := fmtWidth f
  let r : Nat × BitVec 8 := match m with
    | .integer =>
      if isFloat f then (Fmt.ofCode f).round rm (Fp.ofInt (sInt 80 x.toNat)) else saturate w (sInt 80 x.toNat)
    | .converted _ => (x.toNat, 0)
    | _ =>
      if isFloat f then (Fmt.ofCode f).round rm (Fmt.f80.read x.toNat) else toIntBits rm w (Fmt.f80.read x.toNat)
  (BitVec.ofNat 80 r.1, r.2)

/-- A tile converted (R242), with its flags. -/
def cvtTile (m : TileMode) (rm : BitVec 2) (f : BitVec 4) (t : Vector (BitVec 80) 8192) :
    Vector (BitVec 80) 8192 × BitVec 8 :=
  (t.map (fun x => (cvtEntry m rm f x).1), t.foldl (fun fl x => fl ||| (cvtEntry m rm f x).2) 0)

/-- The tiles of a mask converted, with their flags. -/
def cvtTiles (ts : BitVec 4) (modes : List TileMode) (rm : BitVec 2) (f : BitVec 4)
    (t : Vector (Vector (BitVec 80) 8192) 4) : Vector (Vector (BitVec 80) 8192) 4 × BitVec 8 :=
  let r := Vector.ofFn (fun i : Fin 4 =>
    if ts.getLsbD i.val then cvtTile (modes[i.val]?.getD .empty) rm f t[i] else (t[i], 0))
  (r.map (fun x => x.1), r.foldl (fun fl x => fl ||| x.2) 0)

/-- What a completed operation does to the tiles, with its flags (R234, R241, R242). -/
def LoomOp.effect (o : LoomOp) (t : Vector (Vector (BitVec 80) 8192) 4) :
    Vector (Vector (BitVec 80) 8192) 4 × BitVec 8 :=
  match o.what with
  | .mm d _ _ cw km _ _ _ => mmEffect o d cw km t
  | .zero ts => (Vector.ofFn (fun i : Fin 4 => if ts.getLsbD i.val then Vector.replicate 8192 0 else t[i]), 0)
  | .cvt ts f rm modes => cvtTiles ts modes rm f t
  | _ => (t, 0)

/-! ### The loom at work (R228, R233, R238, R245) -/

/-- An operation has read all it reads. -/
def LoomOp.read (o : LoomOp) : Bool := o.started && o.reading == 0 && !o.readingA

/-- The place of the next operation to start: every earlier one has read its operands (R238). -/
def nextStart (q : List LoomOp) : Option Nat :=
  match q.findIdx? (fun o => !o.started) with
  | some i => if (q.take i).all LoomOp.read then some i else none
  | none => none

/-- An operation of cluster c reads a slot row, or a tile entry, that carries an uncorrectable error (R367). -/
def State.opBadSram (s : State) (c : Nat) (o : LoomOp) : Bool :=
  let tile := fun t => (List.range 8192).any (fun e => s.sharedBad c 1 (8192 * t + e))
  !s.badSram.isEmpty && match o.what with
    | .mm d a b cw _ _ l _ =>
      let k := mxCfgOf cw
      (List.range k.m).any (fun i => s.sharedBad (l.getD c) 0 (128 * a.toNat + i))
        || (List.range k.n).any (fun j => s.sharedBad c 0 (128 * b.toNat + j))
        || (List.range' d.toNat k.tiles).any tile
    | .cvt ts _ _ _ => (List.range 4).any (fun t => ts.getLsbD t && tile t)
    | _ => false

/-- An operation that meets an uncorrectable error: ECC-FATAL becomes pending on the control core (R367, log entry
18). -/
def State.reportOp (s : State) (c : Nat) (o : LoomOp) : State :=
  if s.opBadSram c o then s.pendCause (16 * c + 8) .eccFatal 0 else s

/-- The operation at place i with its operands read at this moment (R233): A from the leader's slot in cooperative
mode (R245). -/
def State.startOp (s : State) (c i : Nat) : State :=
  let k := s.cluster c
  match k.queue[i]? with
  | none => s
  | some o =>
    let o' := match o.what with
      | .mm _ a b _ _ _ l _ =>
        { o with
          started := true
          snapA := (s.fast (l.getD c)).slots[a.toNat]'(a.isLt)
          snapB := k.fast.slots[b.toNat]'(b.isLt)
          snapB1 := k.fast.slots.toList[b.toNat + 1]?.getD 0 }
      | _ => { o with started := true }
    (s.setCluster c { k with queue := k.queue.set i o' }).reportOp c o

/-- A cooperative operation (R245). -/
def LoomOp.coop (o : LoomOp) : Bool :=
  match o.what with
  | .mm _ _ _ _ _ _ l _ => l.isSome
  | _ => false

/-- The clusters that perform an operation of cluster c together (R245). -/
def LoomOp.team (c : Nat) (o : LoomOp) : List Nat :=
  match o.what with
  | .mm _ _ _ _ _ _ _ t => ((List.range 4).filter (fun p => t.getLsbD p)).map (fun p => 4 * (c / 4) + p)
  | _ => [c]

/-- An operation that starts only when every earlier one has completed: a change of membership (R244). -/
def LoomOp.last (o : LoomOp) : Bool :=
  match o.what with
  | .coop => true
  | _ => false

/-- The head of a cluster's queue is a cooperative operation that has not started. -/
def State.coopHead (s : State) (c : Nat) : Bool :=
  match (s.cluster c).queue.head? with
  | some o => !o.started && o.coop
  | none => false

/-- The members with which the head of a cluster's queue starts (R245). -/
def State.members (s : State) (c : Nat) : List Nat :=
  match (s.cluster c).queue.head? with
  | some o => o.team c
  | none => []

/-- `LOOM_OP_START`: the next queued operation of cluster c starts (R238); a cooperative one starts on every member
together, once each has completed its earlier operations (R245). -/
def execLoomOpStart (c : Nat) (s : State) : Host.Outcome State Fault Refusal :=
  if s.coopHead c then
    .next (if (s.members c).all s.coopHead then (s.members c).foldl (fun s m => s.startOp m 0) s else s)
  else
    match nextStart (s.cluster c).queue with
    | some i =>
      match (s.cluster c).queue[i]? with
      | some o => .next (if o.coop || (o.last && i != 0) then s else s.startOp c i)
      | none => .next s
    | none => .next s

/-- `SLOT_BUSY_END`: the operations that have started have read slot `o` of cluster c (R228, R245). -/
def execSlotBusyEnd (c : Nat) (o : OReg) (s : State) : Host.Outcome State Fault Refusal :=
  let own := fun (p : LoomOp) => if p.started then { p with reading := p.reading &&& ~~~(1#16 <<< o.toNat) } else p
  let led := fun (p : LoomOp) => if p.started && p.readsLeader c o.toNat then { p with readingA := false } else p
  let k := s.cluster c
  let s := if k.queue.isEmpty then s else s.setCluster c { k with queue := k.queue.map own }
  .next ((List.range 4).foldl (fun s p =>
    let m := 4 * (c / 4) + p
    let k := s.cluster m
    if k.queue.isEmpty then s else s.setCluster m { k with queue := k.queue.map led }) s)

/-- `LOOM_OP_COMPLETE`: the entries of the oldest operation of cluster c are final, and its flags are set in the
control core's `fstat` (R235, R238, R242). -/
def execLoomOpComplete (c : Nat) (s : State) : Host.Outcome State Fault Refusal :=
  let k := s.cluster c
  match k.queue with
  | [] => .next s
  | o :: os =>
    if !o.started then .next s
    else
      let r := o.effect k.fast.tiles
      let s := s.setCluster c { k with queue := os, fast := { k.fast with tiles := r.1 } }
      let s := match o.what with
        | .zero ts => s.healShared c 1 (fun n => ts.getLsbD (n / 8192))
        | _ => s
      .next (s.setHart (16 * c + 8) ((s.hart (16 * c + 8)).flag r.2))

/-! ### `vto` and `vfrom` (R232, R243) -/

/-- Put the low w bits of a value at a place in a slot. -/
def slotPut (x : BitVec 262144) (pos w v : Nat) : BitVec 262144 :=
  putBits x (BitVec.ofNat 262144 (2 ^ w - 1) <<< pos) (BitVec.ofNat 262144 (v % 2 ^ w) <<< pos)

/-- What makes `vto` ILLEGAL (R232). -/
def vtoBad (claimed : BitVec 16) (h : Hart) (d : OReg) (a b : Reg) (p : BitVec 3) : Bool :=
  let ρ := (h.getA b).toNat
  !claimed.getLsbD d.toNat || decide (128 ≤ ρ)
    || (if h.isQ4x then
          p != 0 || (match h.lent with | some l => l.pred != 0 | none => false) || a == 31
            || decide (384 < h.vl.toNat)
        else decide (32768 < 256 * ρ + (h.vl.toNat * h.width + 7) / 8))

/-- The slot after `vto` (R232). -/
def vtoSlot (h : Hart) (act : BitVec 4096) (a b : Reg) (x : BitVec 262144) : BitVec 262144 :=
  let base := 2048 * (h.getA b).toNat
  let n := h.vl.toNat
  if h.isQ4x then
    let x := (List.range n).foldl (fun x i => slotPut x (base + 4 * i) 4 (h.elem a 4 i)) x
    (List.range (n / blockLen h.blen)).foldl
      (fun x j => slotPut x (base + 8 * (192 + 2 * j)) 16 (h.elem (a + 1) 16 j)) x
  else
    (List.range n).foldl
      (fun x i => if act.getLsbD i then slotPut x (base + i * h.width) h.width (h.elem a h.width i) else x) x

/-- The slot while a `vto` writes it (R233): each aligned 8-byte granule holds what it held or what it comes to hold, by
a free value. -/
def mixSlot (n : Nat) (old new : BitVec 262144) : BitVec 262144 :=
  (List.range 4096).foldl (fun x g =>
    if Config.lands n g then putBits x (BitVec.ofNat 262144 (2 ^ 64 - 1) <<< (64 * g)) new else x) old

/-- `vto` (R232): it checks, then waits until the slot is not busy, then writes; a slot that is released while it waits is
written. While accesses perform apart (log entry 7) it takes two turns, so that an operation which the control core issues
between them reads some granules old and some new (R233). -/
def execVto (w : BitVec 3) (d : OReg) (a b : Reg) (p : BitVec 3) (s : State) : Host.Outcome State Fault Refusal :=
  let h := s.me.settle s.me.now
  let vs := if h.isQ4x then [Dst.v a, .v (a + 1)] else [.v a]
  let half := h.engaged == some .writing
  let i : Info := { mxInfo w none (whenAny h vs ++ [.a b])
      (!half && h.engaged != some .taking && vtoBad (s.cluster s.myCluster).claimed h d a b p) with
    on := .vector, vec := true, pred := some p, lending := .bits }
  run i s fun s =>
    if !half && s.slotBusy s.myCluster d.toNat then .stall (s.setMe { s.me with engaged := some .taking })
    else
      let f := s.myFast
      let old := f.slots[d.toNat]'(d.isLt)
      let x := vtoSlot s.me (activeMask i s.me) a b old
      if s.queued && !half then
        .stall ((s.drawn.setMyFast { f with slots := f.slots.set d.toNat (mixSlot s.free old x) d.isLt }).setMe
          { s.me with engaged := some .writing })
      else
        .done ((s.setMyFast { f with slots := f.slots.set d.toNat x d.isLt }).setMe { s.me with engaged := none })

/-- An operation changes tile t. -/
def LoomOp.onTile (t : Nat) (o : LoomOp) : Bool :=
  match o.what with
  | .mm d _ _ cw _ _ _ _ => decide (d.toNat ≤ t ∧ t < d.toNat + (mxCfgOf cw).tiles)
  | .zero ts => ts.getLsbD t
  | .cvt ts _ _ _ => ts.getLsbD t
  | _ => false

/-- An operation on tile t that is one of the first `n` to have entered the queue of a cluster is still in it (R243). -/
def Cluster.onTile (k : Cluster) (t n : Nat) : Bool :=
  (k.queue.take (n + k.queue.length - k.looms)).any (LoomOp.onTile t)

/-- The tiles after each of the operations of a list that have started, one after the other. -/
def tilesAfter : List LoomOp → Vector (Vector (BitVec 80) 8192) 4 → List (Vector (Vector (BitVec 80) 8192) 4)
  | [], _ => []
  | o :: os, t => if o.started then (o.effect t).1 :: tilesAfter os (o.effect t).1 else []

/-- Entry e of a tile as a `vfrom` reads it while operations queued after its issue are under way: as it was, or as one of
them leaves it, by free values from number `n` on (R243). -/
def entryOf (t e : Nat) : Nat → List (Vector (Vector (BitVec 80) 8192) 4) → BitVec 80 → BitVec 80
  | _, [], x => x
  | n, v :: vs, x =>
    if Config.lands n e then entryOf t e (n + 1) vs (((v.toList[t]?).bind (fun u => u.toList[e]?)).getD 0) else x

/-- A tile as a `vfrom` reads it (R243). -/
def State.tileSeen (s : State) (t : ZReg) : Vector (BitVec 80) 8192 × State :=
  let k := s.cluster s.myCluster
  let x := k.fast.tiles[t.toNat]'(t.isLt)
  if k.queue.any (fun o => o.started && o.onTile t.toNat) then
    let vs := tilesAfter k.queue k.fast.tiles
    (Vector.ofFn (fun e : Fin 8192 => entryOf t.toNat e.val s.free vs x[e]), { s with free := s.free + vs.length })
  else (x, s)

/-- What makes `vfrom` ILLEGAL (R243). -/
def vfromBad (m : TileMode) (h : Hart) (b : Reg) : Bool :=
  let ρ := (h.getA b).toNat
  m != .converted h.fmt || decide (128 ≤ ρ) || decide (8192 < 64 * ρ + h.vl.toNat)

/-- The elements of `vfrom` (R243). -/
def fromLoop (act : BitVec 4096) (h : Hart) (t : Vector (BitVec 80) 8192) (base : Nat) : List Nat → Out → Out
  | [], o => o
  | i :: is, o =>
    fromLoop act h t base is
      (if act.getLsbD i then o.elem h h.width i (t.toList[base + i]?.getD 0).toNat else o)

/-- What a `vfrom` of tile t waits for, as of its issue: how many operations have entered the queue, and the mode that they
leave the tile in (R243). -/
def State.readMark (s : State) (h : Hart) (a : ZReg) : Nat × TileMode :=
  match h.engaged with
  | some (.reading n m) => (n, m)
  | _ => ((s.cluster s.myCluster).looms, s.myFast.tmode[a.toNat]'(a.isLt))

/-- `vfrom` (R243): it waits until no operation that was queued when it issued changes the tile, and is checked then; an
entry that carries an uncorrectable error raises ECC-FATAL (R367). -/
def execVfrom (w : BitVec 3) (d : Reg) (a : ZReg) (b : Reg) (p : BitVec 3) (s : State) :
    Host.Outcome State Fault Refusal :=
  let h := s.me.settle s.me.now
  let r := s.readMark h a
  let busy := (s.cluster s.myCluster).onTile a.toNat r.1
  let i : Info := { mxInfo w (some (.v d)) [.a b] (!busy && vfromBad r.2 h b) with
    on := .vector, vec := true, pred := some p, lending := .bits }
  run i s fun s =>
    if busy then .stall (s.setMe { s.me with engaged := some (.reading r.1 r.2) })
    else
      let h := s.me
      let row := (h.getA b).toNat
      let bad := (List.range h.vl.toNat).any (fun k =>
        (activeMask i h).getLsbD k && s.sharedBad s.myCluster 1 (8192 * a.toNat + 64 * row + k))
      if bad then .trap s .eccFatal 0 false else
      let q := s.tileSeen a
      let o := fromLoop (activeMask i h) h q.1 (64 * (h.getA b).toNat) (List.range h.vl.toNat) Out.empty
      .done (q.2.setMe { h.putLanes d o.d 0 with engaged := none })

end Sys2Proof.Machine
end

