-- ==== Sys2Proof/Machine/Context.lean ====
section
/-! DEFINITION. Resuming a hart from its stop record (R335, R344), and the guest's own switches, `ctx.save` and
`ctx.load` (R99, R340-R343). -/

namespace Sys2Proof.Machine

/-! ### Resuming (R24, R215, R335, R344) -/

/-- A vector hart whose state has been moved or saved (R24, R335, R336): elements at or above a mark are free values
from number `n` on (log entry 9); with `full` = 0 the marks of `v8`-`v31` are 0. What the spindles had fetched, and the
copies of bank sets, are gone (R176, R215). -/
def Hart.moved (h : Hart) (full : Bool) (n : Nat) : Hart :=
  let h := h.finish
  let hwm : Vector (BitVec 13) 32 := Vector.ofFn (fun i => if full || decide (i.val < 8) then h.hwm[i] else 0)
  { h with
    hwm := hwm
    v := Vector.ofFn (fun i : Fin 32 =>
      putBits (Config.freeVec (n + i.val)) (h.elemBits h.width (min (hwm[i]).toNat (h.vlmax h.width))) h.v[i])
    st := h.st.map (fun t => Stream.at t.core)
    banks := [] }

/-- A hart that resumes from its stop record (R335). -/
def Hart.resumed (h : Hart) : Hart :=
  { h with
    status := .running
    pc := h.stop.spc
    lent := lentOf h.stop.spfx
    live := h.stop.live
    preempt := false
    expired := false
    bySave := false
    byLog := false
    banks := []
    stop := StopRec.clear }

/-- A hart of a cluster comes back after a switch: it holds no copy of a bank set (R176), a vector hart's registers are as
they were moved (R335, R336), and one that was stopped, but not by a guest's save (R343), resumes. -/
def State.comeBack (s : State) (id : Nat) : State :=
  let h := s.hart id
  let s := if isControl id then s.setHart id { h with banks := [] }
    else { s with free := s.free + 32 }.setHart id (h.moved (h.stop.stopped && h.stop.full) s.free)
  if (s.hart id).status == .stopped && !(s.hart id).bySave then s.setHart id (s.hart id).resumed else s

/-- The working lane groups that `lmap` shows (R23). -/
def Hart.laneMask (h : Hart) : BitVec 16 := h.lmap.extractLsb' 0 16

/-- The lane group by which a working mask differs from the one before (R344): one that is retired in the new mask, or
else in the old one. -/
def retiredGroup (old new : BitVec 16) : Word :=
  match (List.range 16).find? (fun k => old.getLsbD k && !new.getLsbD k) with
  | some k => BitVec.ofNat 64 k
  | none => BitVec.ofNat 64 (((List.range 16).find? (fun k => !old.getLsbD k)).getD 0)

/-- A vector hart whose working mask differs from the one of its save or stop has LANE-RETIRE pending (R344); one that was
pending already gives way to it. -/
def State.pendRetire (s : State) (id : Nat) (old : BitVec 16) : State :=
  let new := (s.cluster (clusterOf id)).force.toList[id % 16]?.getD 0xFFFF
  if isControl id || old == new then s
  else
    let h := s.hart id
    (s.setHart id { h with async := h.async.filter (fun a => a.cause != .laneRetire) }).pendCause id .laneRetire
      (retiredGroup old new)

/-- A context boundary of a cluster (R369): the repair map as marked comes into force. -/
def State.boundary (s : State) (c : Nat) : State :=
  s.setCluster c { s.cluster c with force := (s.cluster c).marked }

/-! ### The save area (R340, R341) -/

/-- The header word at offset 0 (R341). -/
def saveHead (busy done : Bool) (clid lmask sect : Nat) (lret load : Bool) : Word :=
  (BitVec.ofBool busy ++ BitVec.ofBool done ++ 0#38 ++ BitVec.ofNat 8 clid ++ BitVec.ofNat 4 lmask ++ BitVec.ofNat 4 sect
    ++ BitVec.ofBool lret ++ 0#6 ++ BitVec.ofBool load : BitVec 64)

/-- `busy` (R341). -/
def headBusy (h : Word) : Bool := h.getLsbD 63
/-- `done` (R341). -/
def headDone (h : Word) : Bool := h.getLsbD 62
/-- `clid` (R341). -/
def headClid (h : Word) : Nat := (h.extractLsb' 16 8).toNat
/-- `lmask` (R341). -/
def headLmask (h : Word) : Nat := (h.extractLsb' 12 4).toNat
/-- `sect` (R341). -/
def headSect (h : Word) : Nat := (h.extractLsb' 8 4).toNat
/-- `lret` (R341). -/
def headLret (h : Word) : Bool := h.getLsbD 7
/-- `kind` (R341): a load. -/
def headLoad (h : Word) : Bool := h.getLsbD 0
/-- The header with another section. -/
def headAt (h : Word) (sect : Nat) : Word :=
  saveHead (headBusy h) (headDone h) (headClid h) (headLmask h) sect (headLret h) (headLoad h)

/-- The code of a tile mode in the header (log entry 15). -/
def TileMode.code : TileMode → BitVec 5
  | .empty => 0
  | .floating => 1
  | .integer => 2
  | .converted f => 1#1 ++ f

/-- The tile mode of a code. -/
def tileModeOf (c : BitVec 5) : TileMode :=
  if c.getLsbD 4 then .converted (c.setWidth 4) else if c = 1 then .floating else if c = 2 then .integer else .empty

/-- The header words at 8, 16 and 24 (R341; the places of their fields log entry 15). -/
def headWords (f : Fast) : List Word :=
  [ (0#6 ++ BitVec.ofNat 17 f.skein.length ++ BitVec.ofBool f.gram.isSome ++ f.skfmt ++ f.coop ++ f.claimed ++ f.arrived
      ++ f.party : BitVec 64)
  , (match f.cfg with | some w => w ||| 0x8000000000000000 | none => 0)
  , (0#12 ++ f.tmode[3].code ++ f.tmode[2].code ++ f.tmode[1].code ++ f.tmode[0].code ++ BitVec.ofNat 32 f.seqn
      : BitVec 64) ]

/-- A reserved bit of a header is set (R341). -/
def headReserved (ws : List Word) : Bool :=
  let h := wordAt ws 0
  h.extractLsb' 24 38 != 0 || h.extractLsb' 1 6 != 0 || (wordAt ws 1).extractLsb' 58 6 != 0
    || (wordAt ws 2).extractLsb' 41 22 != 0 || (wordAt ws 3).extractLsb' 52 12 != 0

/-- The fast state with what the header words hold, but for the party. -/
def Fast.fromHead (f : Fast) (ws : List Word) : Fast :=
  let w := wordAt ws 0
  let c := wordAt ws 1
  let t := wordAt ws 2
  { f with
    claimed := w.extractLsb' 16 16
    coop := w.extractLsb' 32 4
    skfmt := w.extractLsb' 36 4
    cfg := if c.getLsbD 63 then some (c &&& 0x7FFFFFFFFFFFFFFF) else none
    seqn := (t.extractLsb' 0 32).toNat
    coopAt := false
    tmode := Vector.ofFn (fun i : Fin 4 => tileModeOf (t.extractLsb' (32 + 5 * i.val) 5)) }

/-- The stop record as words (R335). -/
def StopRec.words (r : StopRec) : List Word :=
  [ (0#48 ++ (if r.stopped then 0x11#8 else 0#8) ++ 0#2 ++ BitVec.ofBool r.mid ++ BitVec.ofBool r.full ++ r.why
      : BitVec 64), r.spc, r.spfx, r.live.setWidth 64, 0, 0, 0, 0 ]

/-- The stop record that words hold (R335); a resume address is a multiple of 4 (R55, log entry 15). -/
def stopOf (ws : List Word) : StopRec :=
  let w := wordAt ws 0
  { stopped := w.extractLsb' 8 8 == 0x11, mid := w.getLsbD 5, full := w.getLsbD 4, why := w.extractLsb' 0 4,
    spc := wordAt ws 1 &&& ~~~3, spfx := wordAt ws 2, live := (wordAt ws 3).setWidth 13 }

/-- The control registers of an image in the order of R16: those of R336, with `smiss` apart; those that the control
core does not hold are 0 (log entry 15). -/
def Hart.ctlWords (h : Hart) (core : Bool) : List Word :=
  let v := fun (x : Word) => if core then 0 else x
  [h.hctl, v (h.vl.setWidth 64), v h.vtype, v (h.estart.setWidth 64)]
    ++ h.lgp.toList.map (fun x => v (x.setWidth 64))
    ++ [h.tcause, h.tval, h.tpc, h.tpfx, h.tstat, h.fstat.setWidth 64, v h.rng0, v h.rng1, h.bdone]
    ++ h.hwm.toList.map (fun x => v (x.setWidth 64)) ++ [h.tvec, h.bstp, h.scpwin]

/-- A vector hart with the scalar and control registers of an image (R16, R340). -/
def Hart.fromWords (h : Hart) (ws : List Word) : Hart :=
  let x := fun n => wordAt ws (31 + n)
  let h := h.finish
  { h with
    a := Vector.ofFn (fun i : Fin 32 => if i.val = 0 then 0 else wordAt ws (i.val - 1))
    hctl := x 0 &&& 0x1F
    vl := (x 1).setWidth 13
    vtype := if vtypeBad (x 2) then 0x8000000000000000 else x 2
    estart := (x 3).setWidth 13
    lgp := Vector.ofFn (fun i : Fin 16 => (x (4 + i.val)).setWidth 13)
    tcause := x 20 &&& 0xFF
    tval := x 21
    tpc := x 22
    tpfx := x 23 &&& 0x8000000001FFC000
    tstat := x 24 &&& 0x3
    fstat := (x 25).setWidth 8
    rng0 := x 26
    rng1 := x 27
    bdone := x 28
    hwm := Vector.ofFn (fun i : Fin 32 => (x (29 + i.val)).setWidth 13)
    tvec := x 61 &&& ~~~3
    bstp := x 62 &&& ~~~0xFFF
    scpwin := x 63 &&& ~~~0x7FFFFF
    banks := [] }

/-- The first `k` 64-bit words of a bit string, lowest first. -/
def wordsOf {n : Nat} (k : Nat) (x : BitVec n) : List Word := (List.range k).map (fun i => x.extractLsb' (64 * i) 64)

/-- The bit string that words hold, lowest first. -/
def bitsOf (n : Nat) : List Word → BitVec n
  | [] => 0
  | w :: ws => (bitsOf n ws <<< 64) ||| w.setWidth n

/-- A vector register by element index in the hart's format, elements from the mark on zero (R340). -/
def Hart.packed (h : Hart) (full : Bool) (r : Reg) : BitVec 16384 :=
  let n := if full || decide (r.toNat < 8) then (h.hwm[r.toNat]'(r.isLt)).toNat else 0
  (List.range (min n (h.vlmax h.width))).foldl
    (fun x i => x ||| (BitVec.ofNat 16384 (h.elem r h.width i) <<< (h.width * i))) 0

/-- A vector register from its image: the elements below its mark; the rest are a free value (R24, log entry 9). -/
def Hart.unpacked (h : Hart) (full : Bool) (x free : BitVec 16384) (r : Reg) : BitVec 16384 :=
  let n := if full || decide (r.toNat < 8) then (h.hwm[r.toNat]'(r.isLt)).toNat else 0
  (List.range (min n (h.vlmax h.width))).foldl
    (fun y i => putBits y (lowMask h.width <<< h.bitPos h.width i)
      (((x >>> (h.width * i)) &&& lowMask h.width) <<< h.bitPos h.width i)) free

/-- The entries of a tile, 10 bytes each (R340). -/
def tileWords (t : Vector (BitVec 80) 8192) : List Word :=
  wordsOf 10240 (t.toList.foldr (fun e x => (x <<< 80) ||| e.setWidth 655360) (0 : BitVec 655360))

/-- The tile that 10,240 words hold. -/
def tileOf (ws : List Word) : Vector (BitVec 80) 8192 :=
  let x := bitsOf 655360 ws
  Vector.ofFn (fun i : Fin 8192 => x.extractLsb' (80 * i.val) 80)

/-- The binding of the grammar engine in the form of its descriptor (R247; log entry 15). -/
def Grammar.words (g : Grammar) : List Word :=
  [ (BitVec.ofNat 20 g.ncol ++ BitVec.ofNat 12 g.ndict ++ 0#3 ++ BitVec.ofNat 13 g.nrow ++ 0#3 ++ BitVec.ofNat 13 g.nrules
      : BitVec 64), g.rtab, g.stab, g.dtab, g.omap, 0, 0, 0 ]

/-- Row map entries as words, two in each (R340). -/
def rowWords : List Nat → List Word
  | [] => []
  | [x] => [BitVec.ofNat 64 (x % 2 ^ 32)]
  | x :: y :: t => BitVec.ofNat 64 (x % 2 ^ 32 + 2 ^ 32 * y) :: rowWords t

/-- The row map entries that words hold. -/
def rowsOf (ws : List Word) : List Nat :=
  ws.flatMap (fun w => [(w.extractLsb' 0 32).toNat, (w.extractLsb' 32 32).toNat])

/-- Skein entries as words, the table of 65,536 places filled with zero (R340). -/
def skeinWords (t : List (Nat × Word)) : List Word :=
  t.flatMap (fun e => [BitVec.ofNat 64 (e.1 % 2 ^ 32 + 2 ^ 32), e.2]) ++ List.replicate (2 * (65536 - t.length)) 0

/-- The skein entries that words hold. -/
def skeinOf : List Word → List (Nat × Word)
  | a :: b :: t => if a.getLsbD 32 then tput (skeinOf t) (a.extractLsb' 0 32).toNat b else skeinOf t
  | _ => []

/-! ### Sections (R340, R342) -/

/-- The offset of hart k in sections 1 and 2. -/
def area1 (k : Nat) : Nat := 0x1000 + 0x4000 * k
/-- The offset of the vector registers of hart k. -/
def area2 (k : Nat) : Nat := 0x28000 + 0x10000 * k

/-- The records of the stream registers of hart `id` (R213, R215). -/
def streamRecords (id : Nat) : List Stream → State → Fetch (List Word)
  | [], s => .ok [] s
  | t :: ts, s =>
    (recordOf id t.core s).bind fun ws s => (streamRecords id ts s).bind fun rs s => .ok (ws ++ rs) s

/-- What section 1 holds of the harts of a list (R340; the working lane groups at +`0x2F8` and the copy of `smiss` at
+`0x600`, log entry 15). -/
def hartRuns (c : Nat) : List Nat → State → Fetch (List (Nat × List Word))
  | [], s => .ok [] s
  | k :: ks, s =>
    let h := (s.hart (16 * c + k)).finish
    (streamRecords (16 * c + k) h.st.toList s).bind fun rs s =>
      (hartRuns c ks s).bind fun rest s =>
        .ok ([ (area1 k, (List.range 31).map (fun i => h.getA (BitVec.ofNat 5 (i + 1))) ++ h.ctlWords (k == 8))
             , (area1 k + 0x2F8, [h.laneMask.setWidth 64]), (area1 k + 0x400, wordsOf 64 h.smiss)
             , (area1 k + 0x600, wordsOf 64 h.smissCopy)
             , (area1 k + 0x800, h.m.toList.flatMap (wordsOf 64)), (area1 k + 0x2800, rs) ] ++ rest) s

/-- What a section holds: runs of words at their offsets (R340). -/
def sectionRuns (c sect : Nat) (s : State) : Fetch (List (Nat × List Word)) :=
  let f := s.fast c
  match sect with
  | 0 => .ok [(8, headWords f), (0x100, nine.flatMap (fun k => (s.hart (16 * c + k)).stop.words))] s
  | 1 => hartRuns c nine s
  | 2 =>
    .ok ((List.range 8).map (fun k =>
      let h := (s.hart (16 * c + k)).finish
      let full := h.stop.stopped && h.stop.full
      (area2 k, (List.range 32).flatMap (fun r => wordsOf 256 (h.packed full (BitVec.ofNat 5 r)))))) s
  | 3 => .ok [(0xA8000, f.slots.toList.flatMap (wordsOf 4096))] s
  | 4 => .ok [(0x128000, f.tiles.toList.flatMap tileWords)] s
  | 5 => .ok [(0x178000, f.rvf.toList.flatMap (wordsOf 8))] s
  | 6 =>
    .ok (match f.gram with
      | some g => [(0x1B8000, g.words), (0x1B8040, wordsOf 64 f.rvalid), (0x1B9000, rowWords g.rows)]
      | none => [(0x1B8000, List.replicate 8 0), (0x1B8040, wordsOf 64 f.rvalid)]) s
  | _ => .ok [(0x1C0000, skeinWords f.skein)] s

/-- Class-0 stores of words at rising addresses. -/
def State.storeRun (s : State) (va : Word) : List Word → Fetch Unit
  | [] => .ok () s
  | w :: ws =>
    ((s.storeAt 0 .other va 8 w.toNat).at va).bind fun _ s => State.storeRun s (va + 8) ws

/-- Store runs of words at their offsets from a base. -/
def State.storeRuns (s : State) (base : Word) : List (Nat × List Word) → Fetch Unit
  | [] => .ok () s
  | r :: rs => (s.storeRun (addrAt base r.1 1) r.2).bind fun _ s => State.storeRuns s base rs

/-- SRAM that section `sect` reads carries an uncorrectable error (R367). -/
def State.sectionBad (s : State) (c sect : Nat) : Bool :=
  s.badSram.any (fun l => match l with
    | .scalar h _ => sect == 1 && clusterOf h == c
    | .mask h _ _ => sect == 1 && clusterOf h == c
    | .control h _ => sect == 1 && clusterOf h == c
    | .lane h _ _ => sect == 2 && clusterOf h == c
    | .shared k unit _ => k == c && (unit == 0 && sect == 3 || unit == 1 && sect == 4 || unit == 2 && sect == 5
        || unit == 3 && sect == 7)
    | .scratch _ _ => false
    | .buffer _ _ => false
    | .tlb _ _ => false
    | .l2 _ => false)

/-- Write a section of the image. -/
def State.saveSection (s : State) (base : Word) (sect : Nat) : Fetch Unit :=
  let c := s.myCluster
  if s.sectionBad c sect then .fault .eccFatal 0 s
  else (sectionRuns c sect s).bind fun rs s => s.storeRuns base rs

/-- What reading a section comes to. -/
inductive Loaded where
  | ok (s : State)
  | bad (s : State)
  | fault (c : Cause) (va : Word) (s : State)
  | stall (s : State)

/-- Go on with words that have been read. -/
def Fetch.loaded (f : Fetch (List Word)) (k : List Word → State → Loaded) : Loaded :=
  match f with
  | .ok ws s => k ws s
  | .fault c va s => .fault c va s
  | .stall s => .stall s
  | .leave s => .stall s

/-- Restore the stream registers of vector hart `id` from their records, in the mode of the hart (R214, R397). -/
def loadStreams (id : Nat) : List Nat → List Word → State → Loaded
  | [], _, s => .ok s
  | r :: rs, ws, s =>
    match restoreStream (s.reader id) (ws.take 8) s with
    | .ok k s => loadStreams id rs (ws.drop 8) (s.setHart id ((s.hart id).setS (BitVec.ofNat 4 r) (Stream.at k)))
    | .bad s => .bad s
    | .fault c va s => .fault c va s
    | .stall s => .stall s

/-- Read section 1 for harts of a list; what it holds of the control core is not restored (R342). -/
def loadHarts (c : Nat) (base : Word) : List Nat → State → Loaded
  | [], s => .ok s
  | k :: ks, s =>
    let at_ := fun o => addrAt base (area1 k + o) 1
    (s.loadWords (at_ 0) 95).loaded fun ws s => (s.loadWords (at_ 0x400) 64).loaded fun sm s =>
      (s.loadWords (at_ 0x600) 64).loaded fun cp s => (s.loadWords (at_ 0x800) 1024).loaded fun ms s =>
        (s.loadWords (at_ 0x2800) 128).loaded fun rs s =>
          if k == 8 then loadHarts c base ks (s.setHart (16 * c + 8) { s.hart (16 * c + 8) with banks := [] })
          else
            let id := 16 * c + k
            let h := (s.hart id).fromWords ws
            let s := s.setHart id { h with
              smiss := bitsOf 4096 sm
              smissCopy := bitsOf 4096 cp
              m := Vector.ofFn (fun i : Fin 16 => bitsOf 4096 ((ms.drop (64 * i.val)).take 64)) }
            match loadStreams id (List.range 16) rs s with
            | .ok s => loadHarts c base ks s
            | e => e

/-- Read section 2 for vector harts of a list; a mark is at most VLMAX of the hart's lanes (R15). -/
def loadVectors (c : Nat) (base : Word) : List Nat → State → Loaded
  | [], s => .ok s
  | k :: ks, s =>
    (s.loadWords (addrAt base (area2 k) 1) 8192).loaded fun ws s =>
      let id := 16 * c + k
      let h := s.hart id
      let full := h.stop.stopped && h.stop.full
      let n := s.free
      let top := h.vlmax h.width
      let v := Vector.ofFn (fun i : Fin 32 =>
        h.unpacked full (bitsOf 16384 ((ws.drop (256 * i.val)).take 256)) (Config.freeVec (n + i.val)) (BitVec.ofNat 5 i.val))
      let hwm : Vector (BitVec 13) 32 := Vector.ofFn (fun i =>
        if full || decide (i.val < 8) then BitVec.ofNat 13 (min (h.hwm[i]).toNat top) else 0)
      loadVectors c base ks ({ s with free := n + 32 }.setHart id { h with v := v, hwm := hwm })

/-- Read a section and restore what it holds (R342); a record that R214 or R229 refuses is ILLEGAL. -/
def State.loadSection (s : State) (base : Word) (sect : Nat) : Loaded :=
  let c := s.myCluster
  let at_ := fun o => addrAt base o 1
  let put := fun (g : Fast → Fast) (s : State) => Loaded.ok (s.setFast c (g (s.fast c)))
  match sect with
  | 0 =>
    (s.loadWords (at_ 8) 3).loaded fun ws s => (s.loadWords (at_ 0x100) 72).loaded fun rs s =>
      let f := (s.fast c).fromHead ws
      if (match f.cfg with | some w => mxCfgBad w | none => false) then .bad s
      else
        .ok ((List.range 8).foldl (fun s k =>
          let id := 16 * c + k
          s.setHart id { s.hart id with stop := stopOf ((rs.drop (8 * k)).take 8) }) (s.setFast c f))
  | 1 => loadHarts c base nine s
  | 2 => loadVectors c base (List.range 8) s
  | 3 =>
    (s.loadWords (at_ 0xA8000) 65536).loaded fun ws s =>
      put (fun f => { f with slots := Vector.ofFn (fun i : Fin 16 => bitsOf 262144 ((ws.drop (4096 * i.val)).take 4096)) }) s
  | 4 =>
    (s.loadWords (at_ 0x128000) 40960).loaded fun ws s =>
      put (fun f => { f with tiles := Vector.ofFn (fun i : Fin 4 => tileOf ((ws.drop (10240 * i.val)).take 10240)) }) s
  | 5 =>
    (s.loadWords (at_ 0x178000) 32768).loaded fun ws s =>
      put (fun f => { f with rvf := Vector.ofFn (fun i : Fin 4096 => bitsOf 512 ((ws.drop (8 * i.val)).take 8)) }) s
  | 6 =>
    (s.loadWords (at_ 8) 1).loaded fun hs s => (s.loadWords (at_ 0x1B8000) 72).loaded fun ws s =>
      let valid := bitsOf 4096 (ws.drop 8)
      if (wordAt hs 0).getLsbD 40 then
        match grammarOf (ws.take 8) with
        | none => .bad s
        | some (g, n) =>
          (s.loadWords (at_ 0x1B9000) ((n + 1) / 2)).loaded fun rs s =>
            put (fun f => { f with gram := some { g with rows := (rowsOf rs).take n }, rvalid := valid }) s
      else put (fun f => { f with gram := none, rvalid := valid }) s
  | _ =>
    (s.loadWords (at_ 0x1C0000) 131072).loaded fun ws s => put (fun f => { f with skein := skeinOf ws }) s

/-! ### The two forms (R342, R343) -/

/-- The vector harts of the cluster of the hart whose turn it is. -/
def State.eight (s : State) : List Nat := (List.range 8).map (fun k => 16 * s.myCluster + k)

/-- A vector hart that `ctx.load` takes as idle: it runs nothing, and a save that has stopped it has left it outside the
open party (R342). -/
def Hart.quiet (h : Hart) : Bool := h.status == .idle || (h.status == .stopped && h.bySave)

/-- Post the save's requests to the open party (R342). -/
def State.postParty (s : State) : State :=
  (s.eight.filter (fun id => s.myFast.party.getLsbD (id % 16))).foldl (fun s id =>
    let s := if (s.hart id).live? then s.setHart id { s.hart id with bySave := true } else s
    s.post id) s

/-- The save may go on: the open party has stopped and the loom queue has drained (R342); `grm.*` are whole steps. -/
def State.saveReady (s : State) : Bool :=
  s.eight.all (fun id => !(s.hart id).live?) && (s.cluster s.myCluster).queue.isEmpty

/-- The lane group that a header names: that of the first vector hart with one retired (R341). -/
def State.savedGap (s : State) : Option Nat := s.eight.findSome? (fun id => (s.hart id).gap)

/-- The header with which a save or load begins (R342). -/
def State.firstHead (s : State) (load : Bool) (h : Word) : Word :=
  if load then saveHead true (headDone h) s.myCluster (headLmask h) 0 (headLret h) true
  else saveHead true false s.myCluster (s.savedGap.getD 0) 0 s.savedGap.isSome false

/-- A header is of this cluster's own save or load in progress (R342). -/
def State.ownHead (s : State) (load : Bool) (h : Word) : Bool :=
  headBusy h && headClid h == s.myCluster && headLoad h == load

/-- The end of a save: the party is emptied (R342). -/
def State.saved (s : State) : State := s.setMyFast { s.myFast with party := 0, arrived := 0 }

/-- The end of a load (R342, R344, R369): a context boundary; the open party is restored and its harts resume. `masks` are the
working lane groups that the vector harts had when they were saved. A hart outside the party keeps the live length it has,
for the spec gives an image no place for it but in a stop record (DESIGN CHOICE, log entry 45). -/
def State.loadedAll (s : State) (masks : List Word) (w : Word) : State :=
  let s := s.boundary s.myCluster
  let party : BitVec 8 := w.extractLsb' 0 8
  let s := s.setMyFast { s.myFast with party := party, arrived := w.extractLsb' 8 8 }
  s.eight.foldl (fun s id =>
    let h := s.hart id
    let s := s.setHart id { h with status := .idle, bySave := false }
    let s := if party.getLsbD (id % 16) && h.stop.stopped then s.setHart id (s.hart id).resumed
      else s.setHart id { s.hart id with stop := StopRec.clear }
    s.pendRetire id ((wordAt masks (id % 16)).setWidth 16)) s

/-- The working lane groups of the vector harts of a list in the image at `base`. -/
def State.savedMasks (s : State) (base : Word) : List Nat → Fetch (List Word)
  | [] => .ok [] s
  | k :: ks =>
    (s.loadWords (addrAt base (area1 k + 0x2F8) 1) 1).bind fun ws s =>
      (State.savedMasks s base ks).bind fun ms s => .ok (ws ++ ms) s

/-- What a section rolls back to when an access of it stalls: no stop comes before that access completes (R327, R333). -/
def State.awaited (s : State) : State := s.setMe { s.me with floor := 1 }

/-- After the last section: the last header, and what the form does then. -/
def State.ctxFinish (s : State) (s0 : State) (load : Bool) (base head : Word) : Res :=
  let last := saveHead false (!load || headDone head) (headClid head) (headLmask head) 8 (headLret head) load
  (s.loadWords (base + 8) 1).plain s0.awaited fun ws s =>
    (s.savedMasks base (if load then List.range 8 else [])).plain s0.awaited fun ms s =>
      (s.storeRun base [last]).plain s0.awaited fun _ s => .done (if load then s.loadedAll ms (wordAt ws 0) else s.saved)

/-- One section, and the header that says so (R342): a stop point follows it (R333). -/
def State.ctxSection (s : State) (load : Bool) (base head : Word) : Res :=
  let n := headSect head
  let next := fun (t : State) =>
    (t.storeRun base [headAt head (n + 1)]).plain s.awaited fun _ t =>
      if 7 ≤ n then t.ctxFinish s load base (headAt head (n + 1)) else .stall (t.setMe { t.me with floor := 0 })
  if load then
    match s.loadSection base n with
    | .ok t => next t
    | .bad t => illegal t
    | .fault c va t => .trap t c va false
    | .stall t => .stall (s.awaited.rollback t)
  else (s.saveSection base n).plain s.awaited fun _ t => next t

/-- `ctx.save` and `ctx.load` once their header is their own (R342): a save posts its requests and waits; then a section
is done in each turn. -/
def State.ctxGo (s : State) (load : Bool) (base head : Word) : Res :=
  let s := if load then s else s.postParty
  if !load && !s.saveReady then .stall s
  else if load && !(s.cluster s.myCluster).queue.isEmpty then .stall s
  else if 7 < headSect head then s.ctxFinish s load base head
  else s.ctxSection load base head

/-- `ctx.save` and `ctx.load` (R99, R342, R343): a stop comes at a section boundary, not while a section waits for a page
(R327). -/
def ctxForm (load : Bool) (w : BitVec 3) (a : Reg) (s : State) : Host.Outcome State Fault Refusal :=
  run { scalarInfo w none [.a a] 1 with on := .control, priv := true } s fun s =>
    let va := s.me.getA a
    if va.toNat % 4096 != 0 then .trap s .misalign va false
    else
      (s.loadWords va 4).plain s fun ws t =>
        let h := wordAt ws 0
        if t.ownHead load h then
          if t.me.floor = 0 ∧ t.stopsAtWait then .leave (t.takeStop t.cur 2) else t.ctxGo load va h
        else if load && (!headDone h || headReserved ws) then illegal t
        else if load && (t.myFast.party != 0 || !t.eight.all (fun id => (t.hart id).quiet)) then illegal t
        else (t.storeRun va [t.firstHead load h]).plain s fun _ t => t.ctxGo load va (t.firstHead load h)

/-- `ctx.save` (R99, R342, R343). -/
def execCtxSave (w : BitVec 3) (a : Reg) (s : State) : Host.Outcome State Fault Refusal := ctxForm false w a s

/-- `ctx.load` (R99, R342, R343). -/
def execCtxLoad (w : BitVec 3) (a : Reg) (s : State) : Host.Outcome State Fault Refusal := ctxForm true w a s

end Sys2Proof.Machine
end

