-- ==== Sys2Proof/Machine/Service.lean ====
section
/-! DEFINITION. Aczar's requests beside launches: mappings, contexts, gang switches and their flips, queries,
attestation, and partition reset (R271, R325-R329, R332, R337-R339, R344-R346, R349, R350, R354, R380, R386). -/

namespace Sys2Proof.Machine

/-! ### Mappings (R271, R325, R346, R354, R380) -/

/-- The size of a page (R318). -/
def isPageSize (n : Nat) : Bool := (List.range 12).any (fun k => pageSize k == n)

/-- A physical range that Aczar may map (R376): within HBM4, or within one scratchpad. -/
def mappable (pa size : Nat) : Bool :=
  decide (pa + size ≤ 2 ^ 40)
    || (List.range 256).any (fun c => decide (scratchBase c ≤ pa ∧ pa + size ≤ scratchBase c + scratchSize))

/-- A page that Aczar may enter at stage 2 (R318, R325, R376). -/
def pageGood (ia size : Nat) (res : Residency) : Bool :=
  isPageSize size && ia % size == 0 && decide (ia + size ≤ 2 ^ 52)
    && (match res with | .hbm pa => pa % size == 0 && mappable pa size | _ => true)

/-- Two ranges of addresses share a byte. -/
def overlaps (a n b m : Nat) : Bool := decide (a < b + m ∧ b < a + n)

/-- Every access of a partition that is already translated performs (R324): those of its harts, and the words of chunks that
have started. -/
def State.drainPart (s : State) (p : Nat) : State :=
  match tget s.parts p with
  | some q => ((hartsOf q.clusters).foldl State.drainHart s).finishBursts q.clusters (fun _ _ => true)
  | none => s

/-- A running element of a partition holds a translation of its barrier to a place that a test names (R269, R324). -/
def State.heldIn (s : State) (p : Nat) (which : Nat → Bool) : Bool :=
  match tget s.parts p with
  | some q => s.barHeld q.clusters (fun _ k => which k)
  | none => false

/-- A running element holds a translation of its barrier into a range of intermediate addresses (R269, R324). -/
def State.heldAt (s : State) (p ia size : Nat) : Bool :=
  s.heldIn p (fun k => s.s2.any (fun e => e.part == p && overlaps e.ia e.size ia size
    && (match e.place with | some b => decide (b ≤ k ∧ k < b + e.size) | none => false)))

/-- Take a range of intermediate addresses out of the stage-2 pages and TLBs of a partition, with the effect of R324. -/
def State.dropPages (s : State) (p ia size : Nat) : State :=
  let s := (s.drainPart p).dropTlb p (fun t => overlaps t.ia t.size ia size)
  { s with s2 := s.s2.filter (fun e => !(e.part == p && overlaps e.ia e.size ia size)) }

/-- A stage-2 page as a map request gives it (R326). -/
def newPage (p ia size : Nat) (r w x : Bool) (res : Residency) (pinned : Bool) : S2Page :=
  { part := p, ia := ia, size := size, r := r, w := w, x := x
    hbm := match res with | .hbm pa => some pa | _ => none
    holder := match res with | .hbm _ => none | r => some r
    pinned := pinned, use := .ordinary, fill := 0, born := 0 }

/-- Enter a stage-2 page: misses in its range are resolved (R325). -/
def State.addPage (s : State) (e : S2Page) : State :=
  let s := if s.s2.any (fun d => d.part == e.part && overlaps d.ia d.size e.ia e.size) then s.dropPages e.part e.ia e.size
    else s
  { s with
    s2 := s.s2 ++ [{ e with born := s.fills + 1 }]
    fills := s.fills + 1
    s2miss := s.s2miss.filter (fun m => !(m.part == e.part && overlaps m.ia 4096 e.ia e.size)) }

/-- A region that a partition may have (R271). -/
def regionGood (p : Part) (r : Region) : Bool :=
  decide (r.n < 16) && r.lo % 65536 == 0 && r.size % 65536 == 0 && decide (0 < r.size ∧ r.size ≤ 2 ^ 32)
    && r.visible % 4096 == 0 && r.shadow % 4096 == 0 && mappable r.visible r.size && mappable r.shadow r.size
    && !overlaps r.visible r.size r.shadow r.size
    && !p.regions.any (fun q => q.n != r.n && overlaps q.lo q.size r.lo r.size)

/-- A hart that a full log region stops, or is to stop, goes on when the region has room again (R380): a stopped one resumes,
unless its partition is halted (R93, R331), and the request to one that has not stopped is withdrawn (log entry 45). -/
def State.unlog (s : State) (halted : Bool) (id : Nat) : State :=
  let h := s.hart id
  if !h.byLog then s
  else if h.status == .stopped then (if halted then s else s.comeBack id)
  else if h.preempt then s.setHart id { h with preempt := false, expired := false, byLog := false }
  else s

/-- Every stopped hart of a partition that no guest's save holds resumes from its stop record (R335). -/
def State.resumeAll (s : State) (cs : List Nat) : State :=
  (hartsOf cs).foldl (fun s id => if (s.hart id).status == .stopped then s.comeBack id else s) s

/-- The residency of the page n pages after another. -/
def pageRes (r : Residency) (n : Nat) : Residency :=
  match r with
  | .hbm pa => .hbm (pa + n)
  | .peer a => .peer (a + n)
  | .host a => .host (a + n)

/-- A log region that Aczar may give a context (R378): aligned words of HBM4. -/
def logGood (base words : Nat) : Bool := base % 8 == 0 && decide (base + 8 * words ≤ 2 ^ 40)

/-- The log of a context in a region, all its streams written out again (R378, R380). -/
def State.writeLogs (s : State) (c : Ctx) : State :=
  c.log.foldl (fun s e => s.writeLog c.region e.1 0 (logWords e.2 ++ [0])) s

/-- `MAP` (R350): a range of pages, a publishable region, the reset area, a route, or more words for the log region of a
context, whose harts then go on (R380). A body out of its bounds is status 16. A range that an element under way still uses is
refused with status 18 (log entry 45). -/
def execMap (m : Msg) (r : MapReq) (s : State) : Host.Outcome State Fault Refusal :=
  request 4 m s (len := fun n => decide (0 < n)) fun p s =>
    match r with
    | .range ia size count r w x res pinned =>
      if count = 0 ∨ !(List.range count).all (fun k => pageGood (ia + k * size) size (pageRes res (k * size))) then
        s.reply m 16 .none
      else if s.heldAt m.part ia (count * size) then s.reply m 18 .none
      else
        ((List.range count).foldl (fun s k =>
          s.addPage (newPage m.part (ia + k * size) size r w x (pageRes res (k * size)) pinned)) s).reply m 0 .none
    | .region n lo size visible shadow =>
      let g : Region := { n := n, lo := lo, size := size, visible := visible, shadow := shadow }
      if regionGood p g then
        let s := (s.drainPart m.part).dropTlb m.part (fun t => overlaps t.va t.size lo size)
        let q := (tget s.parts m.part).getD p
        (s.setPart m.part { q with regions := q.regions.filter (fun x => x.n != n) ++ [g] }).reply m 0 .none
      else s.reply m 16 .none
    | .resetArea a =>
      if a % 64 == 0 && mappable a (64 * 4096) then
        (s.setPart m.part { p with resetArea := some a }).reply m 0 .none
      else s.reply m 16 .none
    | .route n d =>
      if n < 4096 then (s.setPart m.part { p with routes := tput p.routes n d }).reply m 0 .none
      else s.reply m 16 .none
    | .logRegion base words =>
      match tget p.ctxs m.ctx with
      | none => s.reply m 16 .none
      | some c =>
        if !logGood base words then s.reply m 16 .none else
        let c := { c with region := c.region ++ [(base, words)] }
        let s := (s.setCtx m.part m.ctx c).writeLogs c
        ((hartsOf (p.clusters.filter (fun c => p.ctxOn c == some m.ctx))).foldl (fun s id => s.unlog p.halted id) s).reply
          m 0 .none

/-- `UNMAP` (R350); a range that an element under way still uses is refused with status 18. -/
def execUnmap (m : Msg) (r : UnmapReq) (s : State) : Host.Outcome State Fault Refusal :=
  request 5 m s (len := fun n => decide (0 < n)) fun p s =>
    match r with
    | .range ia size =>
      if s.heldAt m.part ia size then s.reply m 18 .none else (s.dropPages m.part ia size).reply m 0 .none
    | .region n =>
      let s := s.drainPart m.part
      let q := (tget s.parts m.part).getD p
      (s.setPart m.part { q with regions := q.regions.filter (fun x => x.n != n) }).reply m 0 .none
    | .resetArea => (s.setPart m.part { p with resetArea := none }).reply m 0 .none
    | .route n => (s.setPart m.part { p with routes := tdel p.routes n }).reply m 0 .none

/-! ### Contexts on clusters (R315, R336-R339, R344, R369) -/

/-- The nine harts of a cluster. -/
def State.hartsAt (s : State) (c : Nat) : List Hart := nine.map (fun k => s.hart (16 * c + k))

/-- Put nine harts into a cluster. -/
def State.putHarts (s : State) (c : Nat) (hs : List Hart) : State :=
  nine.foldl (fun s k => s.setHart (16 * c + k) (hs[k]?.getD (s.freshHart (16 * c + k)))) s

/-- The bytes of a range of memory, keyed from 0. -/
def Memory.slice (m : Memory) (lo n : Nat) : Memory :=
  (m.filter (fun e => decide (lo ≤ e.1 ∧ e.1 < lo + n))).map (fun e => (e.1 - lo, e.2))

/-- Memory whose range from `lo` holds the bytes of a slice and no others. -/
def Memory.splice (m : Memory) (lo n : Nat) (x : Memory) : Memory :=
  (x.filter (fun e => decide (e.1 < n))).foldl (fun m e => m.write (lo + e.1) e.2)
    (m.filter (fun e => !decide (lo ≤ e.1 ∧ e.1 < lo + n)))

/-- The harts of a cluster come back after a switch to a context (R335, R344): the repair map as marked has come into
force (R369), and a vector hart whose lanes differ from those of its stop has LANE-RETIRE pending. In a halted partition they
stay as they stopped (R93, R331). -/
def State.arriveAt (s : State) (c : Nat) (halted : Bool) : State :=
  let s := s.boundary c
  nine.foldl (fun s k =>
    (if halted then s else s.comeBack (16 * c + k)).pendRetire (16 * c + k) (s.hart (16 * c + k)).laneMask) s

/-- The launches of a context when it stops or starts being served (R308): the full periods so far are counted, and the
next one starts now. -/
def State.refoldCtx (s : State) (p x : Nat) (served : Bool) : State :=
  match s.ctx p x with
  | some c => s.setCtx p x (c.refold s.mtime served)
  | none => s

/-- Put a context on a cluster outright, as a context load does (R315): what stands there goes to the image of the
context that ran, if one did. -/
def State.placeCtx (s : State) (p : Nat) (out : Option Nat) (inc c : Nat) : State :=
  let s := match out with
    | some o => s.putImage p o c
        { fast := s.fast c, harts := s.hartsAt c, scratch := s.mem.slice (scratchBase c) scratchSize }
    | none => s
  let i := s.imageOf p inc c
  let s := { s with mem := s.mem.splice (scratchBase c) scratchSize i.scratch }
  let s := s.setCluster c { s.cluster c with fast := i.fast, queue := [], reserved := none, shadow := none, exch := [] }
  (s.putHarts c i.harts).arriveAt c false

/-- A halted hart that a context load restarts (R93): it takes its reset values and is idle (log entry 16); a FABRIC that
waits for its next run still does (R270). -/
def State.restart (s : State) (cs : List Nat) : State :=
  (hartsOf cs).foldl (fun s id =>
    if (s.hart id).status == .halted then
      s.setHart id { s.freshHart id with async := (s.hart id).async.filter (fun a => a.cause == .fabric) }
    else s) s

/-- A context that has just been loaded (R315). -/
def newCtx (root : Nat) : Ctx :=
  { root := root, images := [], launches := [], nextLaunch := 0, dispatches := 0, graphs := [], mode := .plain
    region := [], log := [], used := [], diverged := none }

/-- The mode and log region that a context load names (R378): a replay starts at the entries that the region holds, a record
with none. -/
def Ctx.inMode (c : Ctx) (s : State) (log : LogSetup) : Ctx :=
  let region := [(log.base, log.words)]
  { c with
    mode := log.mode
    region := if log.mode == .plain then [] else region
    log := if log.mode == .replay then (List.range logStreams).map (fun t => (t, readLog s region t (logRoom region) 0)) else []
    used := []
    diverged := none }

/-- A context load that starts a record empties every stream of its log region (R378). -/
def State.clearLog (s : State) (c : Ctx) : State :=
  if c.mode == .record then (List.range logStreams).foldl (fun s t => s.writeLog c.region t 0 [0]) s else s

/-- Every vector hart of a partition whose lanes are not those in force has LANE-RETIRE pending (R369). -/
def State.newLanes (s : State) (cs : List Nat) : State :=
  (hartsOf cs).foldl (fun s id => s.pendRetire id (s.hart id).laneMask) (cs.foldl State.boundary s)

/-- A context load of context x into a partition (R315, R93, R331): it becomes the running one when none runs or when
the partition is halted, once every access of the partition has performed; when it is the running one, its stopped harts resume
and its halted ones restart. It is a context boundary of every hart of the partition (R369). -/
def State.loadCtx (s : State) (p x : Nat) (q : Part) (k : Ctx) : State :=
  let go := q.running.isNone || (q.halted && q.running != some x)
  let q' := { q with ctxs := tput q.ctxs x k, halted := false, doubleTrap := false,
                     haltedBy := if go || q.running == some x then none else q.haltedBy,
                     running := if go then some x else q.running }
  let s := (s.setPart p q').clearLog k
  if go then
    let s := match q.running with
      | some o => s.refoldCtx p o true
      | none => s
    (q.clusters.foldl (fun s c => s.placeCtx p q.running x c) (s.refoldCtx p x false)).restart q.clusters
  else
    let s := s.newLanes q.clusters
    if q.running == some x then (s.restart q.clusters).resumeAll q.clusters else s

/-- `CONTEXT_LOAD` (R315, R350, R369, R378). -/
def execContextLoad (m : Msg) (root : Nat) (log : LogSetup) (s : State) : Host.Outcome State Fault Refusal :=
  request 6 m s (len := fun n => decide (8 ≤ n)) fun p s =>
    if 8 ≤ m.ctx ∨ root % 4096 ≠ 0 ∨ 2 ^ 52 ≤ root ∨ (log.mode ≠ .plain ∧ logGood log.base log.words = false) then
      s.reply m 16 .none
    else if p.switch.isSome then s.reply m 18 .none
    else
      match tget p.ctxs m.ctx with
      | none => (s.loadCtx m.part m.ctx p ((newCtx root).inMode s log)).reply m 0 .none
      | some k =>
        if k.root == root then (s.loadCtx m.part m.ctx p (k.inMode s log)).reply m 0 .none
        else s.reply m 16 .none

/-- `CONTEXT_SAVE` (R332): a request is posted to every hart of the partition; a context that does not run is saved
already. -/
def execContextSave (m : Msg) (s : State) : Host.Outcome State Fault Refusal :=
  request 7 m s (len := fun n => decide (0 < n)) fun p s =>
    if (tget p.ctxs m.ctx).isNone then s.reply m 16 .none
    else if p.running == some m.ctx then (s.postAll (hartsOf p.clusters)).reply m 0 .none
    else s.reply m 0 .none

/-! ### Gang switches (R337-R339) -/

/-- A shadow bank of the partition still holds what a switch has put there (R337). -/
def State.writingBack (s : State) (p : Part) : Bool :=
  p.clusters.any (fun c => match (s.cluster c).shadow with | some b => b.outgoing | none => false)

/-- `GANG_SWITCH`: a switch is accepted, or refused with status 16, 19 or 20 (R337, R350, R359). -/
def execGangSwitch (m : Msg) (out inc tick : Nat) (s : State) : Host.Outcome State Fault Refusal :=
  request 8 m s (len := fun n => decide (0 < n)) fun p s =>
    if p.running ≠ some out ∨ out = inc ∨ (tget p.ctxs inc).isNone then s.reply m 16 .none
    else if !s.synced then s.reply m 20 .none
    else if tick * 1000 < s.mtime + 50000 || p.switch.isSome || s.writingBack p then s.reply m 19 .none
    else
      let g : GangSwitch := { out := out, inc := inc, tick := tick, under := false, left := [] }
      (s.setPart m.part { p with switch := some g }).reply m 0 .none

/-- `SHADOW_PRELOAD`: the fast state of the incoming context is put into the shadow bank of a cluster that has not
flipped, once no earlier write-back is left (R337). -/
def execShadowPreload (c : Nat) (s : State) : Host.Outcome State Fault Refusal :=
  match s.partOf c with
  | none => .next s
  | some (p, q) =>
    match q.switch with
    | none => .next s
    | some g =>
      if (s.cluster c).shadow.isSome || (g.under && !g.left.contains c) then .next s
      else
        let i := s.imageOf p g.inc c
        let b : Shadow := { ctx := g.inc, outgoing := false, fast := i.fast, harts := i.harts }
        .next (s.setCluster c { s.cluster c with shadow := some b })

/-- `GANG_SWITCH_TICK`: at the tick the walkers stop dispatching for the outgoing context, and a pre-emption request goes
to every hart of the partition (R337, R332). -/
def execGangSwitchTick (part : Nat) (s : State) : Host.Outcome State Fault Refusal :=
  match tget s.parts part with
  | none => .next s
  | some p =>
    match p.switch with
    | none => .next s
    | some g =>
      if g.under || decide (s.mtime < g.tick * 1000) then .next s
      else
        let s := s.setPart part { p with running := some g.inc, switch := some { g with under := true, left := p.clusters } }
        .next (((s.refoldCtx part g.out true).refoldCtx part g.inc false).postAll (hartsOf p.clusters))

/-- Every hart of a cluster has stopped or runs nothing, its loom queue is empty and no started transfer is left (R337,
R339, R246). -/
def State.quiesced (s : State) (c : Nat) : Bool :=
  (s.hartsAt c).all (fun h => !h.live?) && (s.cluster c).queue.isEmpty
    && (s.fast c).chans.toList.all (fun k => k.xfers.all (fun t => !t.started))

/-- `CLUSTER_FLIP`: the cluster swaps its live state and its shadow bank, the incoming harts resume, and the scratchpad
and skein are still to be exchanged (R337, R338, R344, R369). What the partition has issued performs first, at the places to
which it was translated (R324, R329). A reservation that the walker holds on the cluster for the outgoing context ends here
(R306 is silent; DESIGN CHOICE, log entry 35). -/
def execClusterFlip (c : Nat) (s : State) : Host.Outcome State Fault Refusal :=
  match s.partOf c with
  | none => .next s
  | some (p, q) =>
    match q.switch, (s.cluster c).shadow with
    | some g, some b =>
      if !g.under || !g.left.contains c || b.outgoing || !s.quiesced c || !(s.cluster c).exch.isEmpty then .next s
      else
        let s := s.drainPart p
        let q := (tget s.parts p).getD q
        let old : Shadow := { ctx := g.out, outgoing := true, fast := s.fast c, harts := s.hartsAt c }
        let s := s.setPart p { q with switch := some { g with left := g.left.erase c } }
        let s := s.setCluster c { s.cluster c with
          fast := b.fast, shadow := some old, reserved := none, exchIn := g.inc, exchOut := g.out, exch := List.range 112 }
        .next ((s.putHarts c b.harts).arriveAt c q.halted)
    | _, _ => .next s

/-- The scratchpad of an image with one granule taken from memory. -/
def Image.takeGranule (i : Image) (m : Memory) (c g : Nat) : Image :=
  { i with scratch := i.scratch.splice (65536 * g) 65536 (m.slice (scratchBase c + 65536 * g) 65536) }

/-- `GRANULE_EXCHANGE`: granule g of a scratchpad is written back to the outgoing image and its incoming contents are
loaded (R338); from 96 on g is a part of the skein, which moves with the flip and is held back until its exchange. -/
def execGranuleExchange (c g : Nat) (s : State) : Host.Outcome State Fault Refusal :=
  let k := s.cluster c
  if !k.exch.contains g then .next s
  else
    let t := s.setCluster c { k with exch := k.exch.erase g }
    if 96 ≤ g then .next t
    else
      match s.partOf c with
      | none => .next t
      | some (p, _) =>
        let t := t.putImage p k.exchOut c ((t.imageOf p k.exchOut c).takeGranule t.mem c g)
        let x := (t.imageOf p k.exchIn c).scratch.slice (65536 * g) 65536
        .next { t with mem := t.mem.splice (scratchBase c + 65536 * g) 65536 x }

/-- `SHADOW_WRITEBACK_COMPLETE`: the outgoing fast state is in its image, and the shadow bank is free (R337); with the
last one the switch is over. -/
def execShadowWritebackComplete (c : Nat) (s : State) : Host.Outcome State Fault Refusal :=
  match s.partOf c, (s.cluster c).shadow with
  | some (p, _), some b =>
    if !b.outgoing then .next s
    else
      let s := s.putImage p b.ctx c { s.imageOf p b.ctx c with fast := b.fast, harts := b.harts }
      let s := s.setCluster c { s.cluster c with shadow := none }
      match tget s.parts p with
      | some q =>
        match q.switch with
        | some g =>
          .next (if g.under && g.left.isEmpty && !s.writingBack q then s.setPart p { q with switch := none } else s)
        | none => .next s
      | none => .next s
  | _, _ => .next s

/-! ### Queries, attestation, partitions -/

/-- `QUERY`: the value of an item, which the manual does not list (log entry 9), or the divergence of a replay (R381). -/
def execQuery (m : Msg) (item : Nat) (s : State) : Host.Outcome State Fault Refusal :=
  request 9 m s (len := fun n => decide (0 < n)) fun p s =>
    match (tget p.ctxs m.ctx).bind (fun c => c.diverged) with
    | some d => s.reply m 0 (.diverged d.1 d.2)
    | none => s.drawn.reply m 0 (.value (Config.queryValue item s.free))

/-- `cfg`: the digest of the port rate limits, source filters and current ceilings now in force (R386). -/
def Boot.cfg (b : Boot) : BitVec 512 :=
  Config.sha512 (Config.configBytes (b.ports.map (fun p => p.rate)) (b.ports.map (fun p => p.filter)) b.fcap b.fwcap)

/-- The signed part of a report: bytes 0 to 207 (R386). -/
def State.report (s : State) (nonce : BitVec 256) : List Byte :=
  let b := s.boot
  leBytes 32 nonce.toNat ++ leBytes 64 b.dig.toNat ++ leBytes 8 (b.rollback.toNat + 2 ^ 32 * b.ver.toNat)
    ++ leBytes 32 s.defects.toNat ++ leBytes 64 b.cfg.toNat
    ++ leBytes 8 (b.fcap % 2 ^ 16 + 2 ^ 16 * (b.fwcap % 2 ^ 16) + 2 ^ 32 * Bool.toNat b.debug)

/-- `ATTESTATION`: the report signed with both identity keys (R386). -/
def execAttestation (m : Msg) (nonce : BitVec 256) (s : State) : Host.Outcome State Fault Refusal :=
  request 10 m s (len := fun n => decide (32 ≤ n)) fun _ s =>
    let r := s.report nonce
    s.reply m 0 (.report (r ++ leBytes 64 (Config.signE r).toNat ++ leBytes 3309 (Config.signM r).toNat))

/-- `PARTITION_CREATE` (R332): clusters that belong to no partition and are not retired (R370). -/
def execPartitionCreate (part : Nat) (cl : List Nat) (grace : Nat) (journal : Bool) (s : State) :
    Host.Outcome State Fault Refusal :=
  if s.boot.stage != .service || decide (16 ≤ part) || (tget s.parts part).isSome || !decide (10 ≤ grace ∧ grace ≤ 10000)
      || cl.any (fun c => decide (256 ≤ c) || s.defects.getLsbD c || (s.partOf c).isSome) then .next s
  else
    .next (s.setPart part
      { clusters := cl, grace := grace, journal := journal, halted := false, running := none, ctxs := [], regions := []
        resetArea := none, routes := [], switch := none, doubleTrap := false, haltedBy := none })

/-! ### Partition reset (R345, R346) -/

/-- The state code of a reset record (R346). -/
def Hart.stateCode (h : Hart) : Nat :=
  match h.status with
  | .idle => 0
  | .halted => 3
  | .stopped => 4
  | _ => if h.tb then 2 else 1

/-- The reset record of a hart as a number of 64 bytes (R346). -/
def Hart.resetRecord (h : Hart) : Nat :=
  let lgp := h.lgp.toList.zipIdx.foldl (fun x e => x + e.1.toNat * 2 ^ (16 * e.2)) 0
  h.stateCode + 2 ^ 8 * (h.tcause.toNat % 2 ^ 8) + 2 ^ 64 * h.pc.toNat + 2 ^ 128 * h.estart.toNat + 2 ^ 192 * lgp
    + 2 ^ 448 * h.bdone.toNat

/-- Posted parts in flight each perform or not (R345, log entry 9). -/
def State.cutPosted (s : State) (id : Nat) : State :=
  let n := s.free
  let s := { s with free := n + 1 }.drainPosted id (fun p => Config.lands n p.key)
  s.setHart id { s.hart id with posted := [] }

/-- Every store that a hart has issued performs, and its posted parts perform or not (R345). -/
def State.cutHart (s : State) (id : Nat) : State := (s.drain id (fun _ => true)).cutPosted id

/-- Write the reset records of harts at the partition's reset area (R346). -/
def State.resetRecords (s : State) (area : Option Nat) (ids : List Nat) : State :=
  match area with
  | some a => ids.foldl (fun s id => s.perform (cellsOf (a + 64 * id) 64 (s.hart id).resetRecord)) s
  | none => s

/-- The status and cause that a reset gives the launches of a partition: 1 with the `tcause` of the hart that halted, wherever
its context is held now, or 2 (R307). -/
def Part.resetStatus (q : Part) : Nat × Nat :=
  match q.haltedBy with
  | some c => (1, c)
  | none => (2, 0)

/-- The completion records that a reset writes for a context (R307): those of its launches, and `gdone` of a replay that
runs. -/
def State.endRecords (s : State) (p x : Nat) (k : Ctx) (st : Nat × Nat) : State :=
  let w := fun (s : State) (va : Word) => s.putRecord p x va st.1 st.2
  let s := k.launches.foldl (fun s l => w s (lrecOf l.record).done) s
  (k.graphs.filterMap (fun g => g.running)).foldl (fun s r => w s r.gdone) s

/-- A cluster as a partition reset leaves it: at its reset values, with its repair map (R345, R369). -/
def Cluster.wiped (k : Cluster) (p : Nat) : Cluster :=
  { k with
    fast := Fast.reset, queue := [], tlb := k.tlb.filter (fun t => t.part != p), reserved := none, shadow := none
    exch := [], exchIn := 0, exchOut := 0 }

/-- Wipe a cluster with its harts and its scratchpad (R345). -/
def State.wipe (s : State) (p c : Nat) : State :=
  let s := s.setCluster c ((s.cluster c).wiped p)
  let s := s.putHarts c []
  { s with
    mem := s.mem.splice (scratchBase c) scratchSize []
    badSram := s.badSram.filter (fun l => match l with
      | .lane h _ _ => clusterOf h != c
      | .scalar h _ => clusterOf h != c
      | .mask h _ _ => clusterOf h != c
      | .control h _ => clusterOf h != c
      | .buffer h _ => clusterOf h != c
      | .tlb k _ => k != c
      | .l2 _ => true
      | .scratch k _ => k != c
      | .shared k _ _ => k != c) }

/-- The requests that wait in the queues of a partition's task graphs. -/
def Part.waiting (q : Part) : List Msg :=
  q.ctxs.flatMap (fun e => e.2.graphs.flatMap (fun g => g.queue.filterMap (fun i =>
    match i with | .patch m _ _ _ => some m | _ => none)))

/-- A word of a burst that a reset cuts off is written or not (R345, R391, log entry 9): each aligned word as a whole. -/
def State.cutBurst (s : State) (c ch : Nat) (t : Transfer) : State :=
  match t.burst with
  | none => s
  | some b =>
    let b := b.unread.foldl (s.burstRead t) b
    (b.unwritten.filter (Config.lands s.free)).foldl (fun s w => s.burstWrite c ch t b w) s.drawn

/-- The chunks in progress on a list of clusters as a reset leaves them (R345, R391). -/
def State.cutBursts (s : State) (cs : List Nat) : State :=
  (s.transfersOn cs).foldl (fun s e => s.cutBurst e.1 e.2.1 e.2.2) s

/-- `PARTITION_RESET` (R345): a hart that is within an instruction has stopped at an element boundary, with its progress (log
entry 24). A patch that still waited is refused with status 18 (log entry 45). -/
def execPartitionReset (m : Msg) (s : State) : Host.Outcome State Fault Refusal :=
  request 0 m s fun p s =>
    let ids := hartsOf p.clusters
    let s := (ids.foldl State.cutHart s).cutBursts p.clusters
    let st := p.resetStatus
    let s := s.resetRecords p.resetArea ids
    let s := p.ctxs.foldl (fun s e => s.endRecords m.part e.1 ((s.ctx m.part e.1).getD e.2) st) s
    let s := p.waiting.foldl (fun s w => s.replyNow w 18 .none) s
    let s := p.clusters.foldl (fun s c => s.wipe m.part c) s
    let q := (tget s.parts m.part).getD p
    let s := s.setPart m.part { q with
      ctxs := [], running := none, switch := none, halted := false, doubleTrap := false, haltedBy := none }
    ({ s with
      dieTlb := s.dieTlb.map (fun e => (e.1, e.2.filter (fun t => t.part != m.part)))
      s2miss := s.s2miss.filter (fun x => x.part != m.part)
      inbound := s.inbound.filter (fun i => i.part != m.part) } : State).reply m 0 .none

end Sys2Proof.Machine
end

