-- ==== Sys2Proof/Machine/Paging.lean ====
section
/-! DEFINITION. Aczar's answers to stage-2 misses, migration and eviction (R325-R329). -/

namespace Sys2Proof.Machine

/-- `STAGE2_FAULT`: Aczar resolves a miss or permission failure by mapping a page, or refuses it (R325). A range that an
element under way still uses stays as it is until it ends (R324). -/
def execStage2Fault (part ia : Nat) (ans : S2Answer) (s : State) : Host.Outcome State Fault Refusal :=
  let b := ia / 4096 * 4096
  if s.s2miss.any (fun m => m.part == part && m.ia == b) then
    match ans with
    | .refuse =>
      .next { s with s2miss := s.s2miss.map (fun m => if m.part == part && m.ia == b then { m with refused := true } else m) }
    | .mapTo size r w x res pinned =>
      let base := ia / size * size
      if s.heldAt part base size then .next s
      else if pageGood base size res then .next (s.addPage (newPage part base size r w x res pinned)) else .next s
  else .next s

/-- Copy `n` bytes of memory. -/
def Memory.copy (m : Memory) (src dst n : Nat) : Memory := m.splice dst n (m.slice src n)

/-- Replace a page of stage 2. -/
def State.putPage (s : State) (e : S2Page) : State :=
  { s with s2 := s.s2.map (fun d => if d.part == e.part && d.ia == e.ia then e else d) }

/-- Room in HBM4 for a page (R326, R376): no page, and no backing of a region, lies there. -/
def State.roomAt (s : State) (pa size : Nat) : Bool :=
  pa % size == 0 && decide (pa + size ≤ 2 ^ 40)
    && !s.s2.any (fun e => match e.hbm with | some b => overlaps b e.size pa size | none => false)
    && !s.parts.any (fun p => p.2.regions.any (fun r => overlaps r.visible r.size pa size || overlaps r.shadow r.size pa size))

/-- An access that waits for a page comes from a cluster of the stack that holds `pa` (R326); inbound fabric traffic comes
from none, and the place is Aczar's choice (log entry 31). -/
def State.wantedAt (s : State) (e : S2Page) (pa : Nat) : Bool :=
  s.s2miss.any (fun m => m.part == e.part && overlaps m.ia 4096 e.ia e.size
    && (decide (256 ≤ m.cluster) || pa / 2 ^ 36 == m.cluster / 16))

/-- The lines of a range of HBM4 are written anew: none is poisoned (R368). -/
def State.freshLines (s : State) (pa size : Nat) : State :=
  { s with
    poisoned := s.poisoned.filter (fun l => !decide (pa ≤ 64 * l ∧ 64 * l < pa + size))
    rewritten := s.rewritten.filter (fun k => !decide (pa ≤ k ∧ k < pa + size)) }

/-- `PAGE_MIGRATION`: a migratable page of at most 1 MiB that an access waits for is copied into HBM4 at `pa`, in the stack of
the accessing cluster, and its stage-2 entry written (R326); no value changes. -/
def execPageMigration (part ia pa : Nat) (s : State) : Host.Outcome State Fault Refusal :=
  match s.s2page part ia with
  | none => .next s
  | some e =>
    match e.hbm, e.holder with
    | none, some r =>
      if e.pinned || decide (2 ^ 20 < e.size) || !s.roomAt pa e.size || !s.wantedAt e pa then .next s
      else
        let s := (s.putPage { e with hbm := some pa, use := .ordinary, fill := 0, born := s.fills + 1 }).freshLines pa e.size
        .next { s with
          mem := s.mem.copy (resKey r) pa e.size
          fills := s.fills + 1
          s2miss := s.s2miss.filter (fun m => !(m.part == part && overlaps m.ia 4096 e.ia e.size)) }
    | _, _ => .next s

/-- The order in which use states are evicted (R328). -/
def UseState.rank : UseState → Nat
  | .useOnce => 0
  | .ordinary => 1
  | .retained => 2

/-- A page that Aczar may evict: resident, migratable, with a holder, and with no poisoned line, which no copy could read
(R328, R329, R368; log entry 25). -/
def State.evictable (s : State) (part : Nat) (e : S2Page) : Bool :=
  e.part == part && !e.pinned && e.holder.isSome
    && (match e.hbm with
      | some pa => !s.poisoned.any (fun l => decide (pa ≤ 64 * l ∧ 64 * l < pa + e.size))
      | none => false)

/-- What a page's age is counted from: use-once pages from the time they became resident, others from their last fill
(R328). -/
def S2Page.age (e : S2Page) : Nat := if e.use == .useOnce then e.born else e.fill

/-- d is evicted before e (R328). -/
def S2Page.sooner (d e : S2Page) : Bool :=
  decide (d.use.rank < e.use.rank) || (d.use.rank == e.use.rank && decide (d.age < e.age))

/-- The page that is evicted first (R328). -/
def firstEvicted : List S2Page → Option S2Page
  | [] => none
  | e :: es =>
    match firstEvicted es with
    | none => some e
    | some d => if d.sooner e then some d else some e

/-- `PAGE_EVICTION`: the accesses already translated to the page perform, it is copied to its holder, and its HBM4 is free
(R328, R329). It waits for an element under way whose barrier lies in the page (R269, R324). -/
def execPageEviction (part : Nat) (s : State) : Host.Outcome State Fault Refusal :=
  match firstEvicted (s.s2.filter (s.evictable part)) with
  | none => .next s
  | some e =>
    match e.hbm, e.holder with
    | some pa, some r =>
      if s.heldIn part (fun k => decide (pa ≤ k ∧ k < pa + e.size)) then .next s else
      let s := (s.drainPart part).dropTlb part (fun t => overlaps t.ia t.size e.ia e.size)
      let s := s.putPage { e with hbm := none, fill := 0 }
      .next { s with mem := (s.mem.copy pa (resKey r) e.size).splice pa e.size [] }
    | _, _ => .next s

end Sys2Proof.Machine
end

