-- ==== Sys2Proof/Machine/Reliab.lean ====
section
/-! DEFINITION. Scrubbing, lane and cluster retirement, refresh (R367-R370, R374, R375, R377). -/

namespace Sys2Proof.Machine

/-- 24 hours in nanoseconds (R368-R370). -/
def day : Nat := 86400000000000

/-- A time lies within the last 24 hours. -/
def recent (now t : Nat) : Bool := decide (now < t + day)

/-- A corrected error in lane group g of hart k of a cluster (R369, R370): with three within 24 hours the group is marked
for retirement, or the cluster is when the hart has lost another group already. -/
def Cluster.laneError (c : Cluster) (k g now : Nat) : Cluster :=
  let corr := (c.corr ++ [(k, g, now)]).filter (fun e => recent now e.2.2)
  let mask := c.marked.toList[k]?.getD 0xFFFF
  if (corr.filter (fun e => e.1 == k && e.2.1 == g)).length < 3 ∨ mask.getLsbD g = false then { c with corr := corr }
  else if mask == 0xFFFF then { c with corr := corr, marked := c.marked.setIfInBounds k (mask &&& ~~~(1#16 <<< g)) }
  else { c with corr := corr, retire := true }

/-- A corrected error in a granule that the cluster shares (R370). -/
def Cluster.sharedError (c : Cluster) (now : Nat) : Cluster :=
  let l := (c.shcorr ++ [now]).filter (recent now)
  { c with shcorr := l, retire := c.retire || decide (3 ≤ l.length) }

/-- Count a corrected error (R367, R369, R370): only vector register slices and shared granules have a counter. -/
def State.countCorrection (s : State) : SramLoc → State
  | .lane h _ g => s.setCluster (clusterOf h) ((s.cluster (clusterOf h)).laneError (h % 16) (g / 16) s.mtime)
  | .scratch c _ => s.setCluster c ((s.cluster c).sharedError s.mtime)
  | .shared c _ _ => s.setCluster c ((s.cluster c).sharedError s.mtime)
  | .scalar _ _ => s
  | .mask _ _ _ => s
  | .control _ _ => s
  | .buffer _ _ => s
  | .tlb _ _ => s
  | .l2 _ => s

/-- `SRAM_SCRUB`: a granule is read (R367): one bad bit is corrected and counted, two leave it uncorrectable. -/
def execSramScrub (loc : SramLoc) (found : Found) (s : State) : Host.Outcome State Fault Refusal :=
  let rest := s.badSram.filter (fun l => l != loc)
  .next (match found with
    | .clean => { s with badSram := rest }
    | .corrected => ({ s with badSram := rest } : State).countCorrection loc
    | .uncorrectable => { s with badSram := rest ++ [loc] })

/-- Where a byte of HBM4 lies (R377). -/
structure DramPlace where
  stack : Nat
  /-- The channel in the stack. -/
  channel : Nat
  bank : Nat
  row : Nat
  /-- The 32-byte unit in the row, and the byte in the unit. -/
  column : Nat
  byte : Nat
  deriving DecidableEq, Repr

/-- The fields of a physical address in HBM4 (R377). -/
def dramPlace (pa : Nat) : DramPlace :=
  let bit := fun k => pa / 2 ^ k % 2
  { stack := pa / 2 ^ 36 % 16
    channel := 2 * (pa / 2 ^ 5 % 16) + (bit 9 + bit 16 + bit 21 + bit 26 + bit 31) % 2
    bank := (pa / 2 ^ 10 % 64) ^^^ (pa / 2 ^ 21 % 64) ^^^ (pa / 2 ^ 27 % 64)
    row := pa / 2 ^ 21 % 32768
    column := pa / 2 ^ 16 % 32
    byte := pa % 32 }

/-- The channel of a place, counted over the module, and its row, counted over the banks of the channel. -/
def DramPlace.chRow (d : DramPlace) : Nat × Nat := (32 * d.stack + d.channel, 32768 * d.bank + d.row)

/-- A Bloom filter with these rows answers yes (R374): for its rows, and for each row that some step of its filling made a
false positive, since filters gain entries only. -/
def inFilter (rows : List Nat) (row : Nat) : Bool :=
  rows.contains row || (List.range rows.length).any (fun k => Config.falsePositive (rows.take (k + 1)) row)

/-- A correction in a row adds it to the next shorter filter (R374). -/
def RefCh.shorten (r : RefCh) (row : Nat) : RefCh :=
  if inFilter r.f32 row then r
  else if inFilter r.f64 row then { r with f32 := r.f32 ++ [row] }
  else { r with f64 := r.f64 ++ [row] }

/-- The refresh state of a channel. -/
def State.refCh (s : State) (k : Nat) : RefCh := (tget s.refresh k).getD RefCh.reset

/-- A patrol correction at a physical address (R374). -/
def State.shortenAt (s : State) (pa : Nat) : State :=
  let d := (dramPlace pa).chRow
  { s with refresh := tput s.refresh d.1 ((s.refCh d.1).shorten d.2) }

/-- `HBM_PATROL_SCRUB`: a 64-byte line of HBM4 is read (R368, R374), given by one of its two 32-byte units, which lie in two
channels (R377): a correction falls in that unit. -/
def execHbmPatrolScrub (unit : Nat) (found : Found) (s : State) : Host.Outcome State Fault Refusal :=
  let line := unit / 2
  if 2 ^ 35 ≤ unit then .next s
  else
    .next (match found with
      | .clean => s
      | .corrected => s.shortenAt (32 * unit)
      | .uncorrectable => if s.poisoned.contains line then s else { s with poisoned := s.poisoned ++ [line] })

/-- Row groups of a channel: 32 ms hold 8,192 refreshes at 3.9 µs (R375, log entry 17). -/
def rowGroups : Nat := 8192

/-- One all-bank refresh: it covers the next row group, and a pass ends with the last (R375). -/
def RefCh.cover (r : RefCh) : RefCh :=
  if r.group + 1 < rowGroups then { r with group := r.group + 1 } else { r with group := 0, pass := (r.pass + 1) % 4 }

/-- A row of the covered group is refreshed in this pass (R375). -/
def RefCh.refreshes (r : RefCh) (row : Nat) : Bool :=
  inFilter r.f32 row || (inFilter r.f64 row && r.pass % 2 == 0) || r.pass % 4 == 0

/-- `ALL_BANK_REFRESH` (R375): a refresh falls due, is postponed, caught up, or pulled in; at most 8 either way. -/
def execAllBankRefresh (stack ch : Nat) (how : RefreshKind) (s : State) : Host.Outcome State Fault Refusal :=
  let r := s.refCh (32 * stack + ch)
  let put := fun (r : RefCh) => ({ s with refresh := tput s.refresh (32 * stack + ch) r } : State)
  .next (match how with
    | .due => put r.cover
    | .postpone => if r.owed < 8 then put { r with owed := r.owed + 1 } else s
    | .catchUp => if 0 < r.owed then put { r.cover with owed := r.owed - 1 } else s
    | .pullIn => if -8 < r.owed then put { r.cover with owed := r.owed - 1 } else s)

end Sys2Proof.Machine
end

