-- ==== Sys2Proof/Machine/Boot.lean ====
section
/-! DEFINITION. Boot, trust, warm reset and power (R383-R394). -/

namespace Sys2Proof.Machine

/-! ### Images (R384, R385) -/

/-- Bytes `a` to `a` + `n` − 1 of a list. -/
def bytesAt (l : List Byte) (a n : Nat) : List Byte := (l.drop a).take n

/-- The number in bytes of a list. -/
def numAt (l : List Byte) (a n : Nat) : Nat := leNat (bytesAt l a n)

/-- The header size of an image (R384). -/
def headSize : Nat := 8192

/-- `ver` of an image (R384). -/
def imageVer (l : List Byte) : Nat := numAt l 0 4

/-- `raise` of an image (R384). -/
def imageRaise (l : List Byte) : Bool := numAt l 15 1 / 128 == 1

/-- `len` of an image (R384). -/
def imageLen (l : List Byte) : Nat := numAt l 8 8 % 2 ^ 63

/-- The body of an image (R384). -/
def imageBody (l : List Byte) : List Byte := bytesAt l headSize (imageLen l)

/-- The bytes of an image: its header and its body (R384). -/
def imageBytes (l : List Byte) : List Byte := bytesAt l 0 (headSize + imageLen l)

/-- An image verifies against the fuses (R384, R385): a whole header and body, every check of R385. -/
def Boot.verifies (b : Boot) (l : List Byte) : Bool :=
  let signed := bytesAt l 0 2064
  let pke := bytesAt l 80 32
  let pkm := bytesAt l 112 1952
  numAt l 4 4 == 0x4C483846 && (bytesAt l 5437 2755).all (· == 0) && imageLen l % 4096 == 0
    && decide (headSize + imageLen l ≤ l.length)
    && Config.sha512 (pke ++ pkm) == b.keyDigest
    && Config.ed25519 pke signed (bytesAt l 2064 64)
    && Config.mldsa65 pkm signed (bytesAt l 2128 3309)
    && Config.sha512 (imageBody l) == BitVec.ofNat 512 (numAt l 16 64)
    && decide (b.rollback.toNat ≤ imageVer l)

/-- The first slot whose image verifies (R383). -/
def Boot.chosen (b : Boot) : Option (List Byte) :=
  if b.verifies b.flash0 then some b.flash0 else if b.verifies b.flash1 then some b.flash1 else none

/-- The rollback counter once an image has verified (R385). -/
def raised (b : Boot) (l : List Byte) : BitVec 32 := if imageRaise l then BitVec.ofNat 32 (imageVer l) else b.rollback

/-- The twelve ports once their links have trained and loaded the limiters and filters that an image's configuration block
carries (R348, R387). -/
def trainedPorts (l : List Byte) : List Port :=
  (List.range 12).map (fun k => { trained := true, rate := Config.portRate l k, filter := Config.sourceFilter l k })

/-- What a service core may reach (R387). -/
inductive Reach where
  | region | fuses | trust | other
  deriving DecidableEq, Repr

/-- A service core's write reaches its target (R383, R387): never the fuse controller or the root of trust's store, and the
execute region only before it is locked. -/
def Boot.mayWrite (b : Boot) : Reach → Bool
  | .region => !b.locked
  | .fuses => false
  | .trust => false
  | .other => true

/-- A service core fetches only inside the execute region (R387). -/
def mayFetch : Reach → Bool
  | .region => true
  | _ => false

/-- Service core 0 writes bytes into the execute region, where a write reaches it (R383, R387). -/
def Boot.install (b : Boot) (l : List Byte) : Boot := if b.mayWrite .region then { b with region := l } else b

/-- Cold boot (R383): the verified image, header and body, is copied into the execute region, which is locked; all four service
cores run from the image's entry (`service`), and the links train and load their limiters and filters (R387). Without an image
the module stays in ROM, and no link trains. The challenge is a free value. -/
def Boot.cold (b : Boot) (n : Nat) : Boot :=
  let b := { b with
    stage := .dead, region := [], locked := false, dig := 0, ver := 0, fwcap := b.fcap, retain := false
    debug := false, ports := [], failedCh := [], challenge := Config.challenge n }
  match b.chosen with
  | none => b
  | some l =>
    { b.install (imageBytes l) with
      stage := .service, locked := true, dig := BitVec.ofNat 512 (numAt l 16 64)
      ver := BitVec.ofNat 32 (imageVer l), rollback := raised b l, ports := trainedPorts l }

/-- Warm boot (R389, R383): the image is verified again; the execute region is locked and keeps what runs. The links retrain
and load their limiters and filters again, which change only at cold reset (R387, R390). A module that stays in ROM does so
until the next cold reset. -/
def Boot.warm (b : Boot) (n : Nat) : Boot :=
  let b := { b with fwcap := b.fcap, retain := false, challenge := Config.challenge n }
  match b.stage with
  | .service =>
    match b.chosen with
    | none => { b with stage := .dead, ports := [] }
    | some l => { b with rollback := raised b l, ports := b.ports.map (fun p => { p with trained := true }) }
  | _ => b

/-- The refresh state of every channel as the base dies measure it at boot (R374); the rows are free values. -/
def measured (n : Nat) : List (Nat × RefCh) :=
  (List.range 512).map (fun k =>
    (k, { RefCh.reset with f32 := Config.weakRows n k true, f64 := Config.weakRows n k false }))

/-! ### Resets -/

/-- What a reset leaves of a cluster: its repair map (R389). -/
def Cluster.repaired (k : Cluster) : Cluster :=
  { Cluster.reset with
    marked := k.marked, force := k.marked, corr := k.corr, shcorr := k.shcorr, retire := k.retire }

/-- What every reset destroys: registers, scratchpads, translations, partitions and contexts, transfers (R389); the
repair maps, the defect map, the boot state and memory are as given. What has gone to the outside stays sent. A transfer that
a peer was sending is never answered (R391). -/
def State.restartWith (s : State) (mem : Memory) (clusters : List (Nat × Cluster)) : State :=
  let t : State := { State.reset with
    mem := mem, clusters := clusters, mtime := s.mtime, replies := s.replies, reports := s.reports, sent := s.sent
    acks := s.acks, reads := s.reads, poisoned := s.poisoned, refresh := s.refresh, defects := s.defects, boot := s.boot
    deaf := s.deaf ++ s.inbound.map (fun i => i.x)
    cur := s.cur, agenda := s.agenda, queued := s.queued, free := s.free + 1 }
  clusters.foldl (fun t e => t.putHarts e.1 []) t

/-- Memory that lies outside the module (R376, log entry 2). -/
def outside (m : Memory) : Memory := m.filter (fun e => decide (2 ^ 52 ≤ e.1))

/-- `COLD_RESET` (R383, R374): HBM4 is as after power-on, and its retention is measured. The defect map changes only at
warm reset (R370). -/
def execColdReset (s : State) : Host.Outcome State Fault Refusal :=
  let t := s.restartWith (outside s.mem) (s.clusters.map (fun e => (e.1, e.2.repaired)))
  .next { t with poisoned := [], refresh := measured s.free, boot := s.boot.cold s.free }

/-- Stores in flight at a warm reset: each word of one lands or not (R391, R181). -/
def cutCells (n : Nat) (cells : List (Nat × Byte × Byte)) : List (Nat × Byte × Byte) :=
  cells.filter (fun c => Config.lands n (c.1 / 8))

/-- An access in a class queue at a warm reset, by the free values from number n on: each word of a store lands or not, and an
atomic performs or not (R391). -/
def State.cutIssued (s : State) (id n : Nat) (q : Issued) : State :=
  match q.load with
  | none => s.perform (cutCells n q.cells)
  | some l => if Config.lands n (l.key / 8) then s.performIssued id q else s

/-- The writes of every hart and channel that are in flight at a warm reset, as they resolve (R391). -/
def State.cutFlight (s : State) : State :=
  (s.cutBursts (s.clusters.map (fun e => e.1))).harts.foldl (fun s e =>
    let n := s.free
    let q := (s.hart e.1).queue
    let s := { s with free := n + 1 }.setHart e.1 { s.hart e.1 with queue := [] }
    (q.foldl (fun s q => s.cutIssued e.1 n q) s).cutPosted e.1) (s.cutBursts (s.clusters.map (fun e => e.1)))

/-- A line of HBM4 maps to a channel (R377). -/
def lineOn (ch line : Nat) : Bool := (dramPlace (64 * line)).chRow.1 == ch || (dramPlace (64 * line + 32)).chRow.1 == ch

/-- A channel that fails retraining and full training is marked failed, and every line that maps to it is poisoned
(R390). -/
def State.failChannel (s : State) (ch : Nat) : State :=
  { s with
    boot := { s.boot with failedCh := s.boot.failedCh ++ [ch] }
    poisoned := s.poisoned ++ (List.range (2 ^ 34)).filter (lineOn ch) }

/-- The defect map with pending cluster retirements applied (R370). -/
def State.newDefects (s : State) : BitVec 256 :=
  s.clusters.foldl (fun d e => if e.2.retire then d ||| (1#256 <<< e.1) else d) s.defects

/-- A warm reset (R389-R391): HBM4 is kept when the retain flag was set; cluster retirements apply; the image is verified
again. `retrain` names the channels whose pattern test fails, and whether full training then passes. -/
def State.warm (s : State) (retrain : List (Nat × Bool)) : State :=
  let s := s.cutFlight
  let mem := if s.boot.retain then s.mem.filter (fun e => decide (e.1 < 2 ^ 40 ∨ 2 ^ 52 ≤ e.1)) else outside s.mem
  let t := s.restartWith mem (s.clusters.map (fun e => (e.1, e.2.repaired)))
  let t : State := { t with
    poisoned := if s.boot.retain then s.poisoned else [], defects := s.newDefects, boot := s.boot.warm s.free }
  retrain.foldl (fun t e => if e.2 then t else t.failChannel e.1) t

/-- `WARM_RESET`: by the reset pin or by Aczar (R389). -/
def execWarmReset (retrain : List (Nat × Bool)) (s : State) : Host.Outcome State Fault Refusal := .next (s.warm retrain)

/-- `WATCHDOG_EXPIRY`: a warm reset by the service cores' watchdog (R389). -/
def execWatchdogExpiry (retrain : List (Nat × Bool)) (s : State) : Host.Outcome State Fault Refusal :=
  .next (s.warm retrain)

/-- `RETAIN_FLAG_SET` (R389). -/
def execRetainFlagSet (s : State) : Host.Outcome State Fault Refusal := .next { s with boot := { s.boot with retain := true } }

/-- A token as the debug keys sign it: identity digest and nonce (R388). -/
def tokenBytes (t : DebugToken) : List Byte := leBytes 64 t.identity.toNat ++ leBytes 32 t.nonce.toNat

/-- `DEBUG_UNLOCK`: a token opens debug access until the next cold reset when it names this module and the current
challenge and both signatures verify under the fused debug keys (R388); the next challenge is a free value. -/
def execDebugUnlock (t : DebugToken) (s : State) : Host.Outcome State Fault Refusal :=
  let good := t.identity == s.boot.identity && t.nonce == s.boot.challenge
    && Config.ed25519 s.boot.debugE (tokenBytes t) (leBytes 64 t.sigE.toNat)
    && Config.mldsa65 s.boot.debugM (tokenBytes t) t.sigM
  .next { s.drawn with
    boot := { s.boot with debug := s.boot.debug || good, challenge := Config.challenge s.free } }

/-! ### Power (R392-R394) -/

/-- What the clusters draw with no grant, and the reserve (R392): 26 for each of 256, and 1,200. -/
def standingCurrent : Nat := 7856

/-- The current that grants may take (R392): it is 0 where the budget does not cover baseline and reserve. -/
def Boot.grantable (b : Boot) : Nat := min b.fcap b.fwcap - standingCurrent

/-- The clusters that request as one with cluster c (R244, R393). -/
def State.requestGroup (s : State) (c : Nat) : List Nat :=
  let m := (s.fast c).coop
  if m == 0 then [c] else ((List.range 4).filter (fun p => m.getLsbD p)).map (fun p => 4 * (c / 4) + p)

/-- A round of the arbiter as it goes: what is granted so far, to whom, and what it skipped. -/
structure Round where
  used : Nat
  loom : List Nat
  vec : List Nat
  skippedL : List Nat
  skippedV : List Nat
  /-- Clusters whose loom and vector requests have been taken. -/
  doneL : List Nat
  doneV : List Nat
  last : Nat
  deriving DecidableEq, Repr

/-- Take the loom request and then the vector request of a cluster (R393): those that fit are granted, the others
skipped. -/
def Round.take (s : State) (wantL wantV : Nat → Bool) (limit : Nat) (r : Round) (c : Nat) : Round :=
  let g := s.requestGroup c
  let gl := g.filter wantL
  let r :=
    if r.doneL.contains c || !wantL c then r
    else if r.used + 18 * gl.length ≤ limit then
      { r with used := r.used + 18 * gl.length, loom := r.loom ++ gl, doneL := r.doneL ++ gl, last := c }
    else { r with doneL := r.doneL ++ gl, skippedL := r.skippedL ++ gl }
  let gv := g.filter wantV
  if r.doneV.contains c || !wantV c then r
  else if r.used + 6 * gv.length ≤ limit then
    { r with used := r.used + 6 * gv.length, vec := r.vec ++ gv, doneV := r.doneV ++ gv, last := c }
  else { r with doneV := r.doneV ++ gv, skippedV := r.skippedV ++ gv }

/-- `POWER_ROUND`: a round of 1 µs (R392-R394). A cluster asks for the loom grant while its queue is not empty, and for the
vector grant when a vector floating-point form has issued in the last round; what was skipped is taken again. `amps` is the core
current measured in the round (R394, log entry 39). -/
def execPowerRound (amps : Nat) (s : State) : Host.Outcome State Fault Refusal :=
  let limit := if s.power.revoked then 0 else min (s.power.total + 400) s.boot.grantable
  let wantL := fun c => !(s.cluster c).queue.isEmpty || s.power.againLoom.contains c
  let wantV := fun c => (s.cluster c).vfp || s.power.again.contains c
  let order := (List.range 256).map (fun i => (s.power.last + 1 + i) % 256)
  let r := order.foldl (Round.take s wantL wantV limit)
    { used := 0, loom := [], vec := [], skippedL := [], skippedV := [], doneL := [], doneV := [], last := s.power.last }
  .next { s with
    power := { last := r.last, total := r.used, revoked := s.power.revoked, amps := amps
               above := if s.boot.fcap < amps then s.power.above + 1 else 0, againLoom := r.skippedL, again := r.skippedV }
    clusters := (List.range 256).map (fun c =>
      (c, { s.cluster c with loomGrant := r.loom.contains c, vecGrant := r.vec.contains c, vfp := false })) }

/-- `OVERCURRENT_REVOKE`: once the core current has exceeded `fcap` for 2 µs, two rounds on end, every grant is revoked
(R394). -/
def execOvercurrentRevoke (s : State) : Host.Outcome State Fault Refusal :=
  if s.power.above < 2 then .next s
  else
    .next { s with
      power := { s.power with total := 0, revoked := true }
      clusters := s.clusters.map (fun e => (e.1, { e.2 with loomGrant := false, vecGrant := false })) }

/-- `GRANT_RESTORE`: once the measured core current is below 95 % of `fcap`, granting goes on (R394). -/
def execGrantRestore (s : State) : Host.Outcome State Fault Refusal :=
  if 95 * s.boot.fcap ≤ 100 * s.power.amps then .next s else .next { s with power := { s.power with revoked := false } }

/-- `FWCAP_WRITE`: firmware sets its ceiling, never above the fused one (R387). -/
def execFwcapWrite (amps : Nat) (s : State) : Host.Outcome State Fault Refusal :=
  .next (if amps ≤ s.boot.fcap then { s with boot := { s.boot with fwcap := amps } } else s)

end Sys2Proof.Machine
end

