-- ==== Sys2Proof/Machine/Vctl.lean ====
section
/-! DEFINITION. Major VCTL: `setvl` and the mask forms (R49, R107-R110, R116, R117). -/

namespace Sys2Proof.Machine

/-- The grant of R49 for a remaining count n, a block length and VLMAX. -/
def grant (n bk vlmax : Nat) : Nat :=
  if n = 0 then 0 else if n < bk then bk else min n vlmax / bk * bk

/-- The hart after `setvl` with count a and type b (R108), and the granted length. -/
def Hart.setvl (h : Hart) (a b : Word) : Hart × Nat :=
  let n := if a.toInt ≤ 0 then 0 else a.toNat
  if vtypeBad b then ({ h with vtype := 0x8000000000000000, vl := 0, live := 0 }, 0)
  else
    let g := grant n (blockLen (b.extractLsb' 4 3).toNat) (h.vlmax (fmtWidth (b.extractLsb' 0 4)))
    ({ h with vtype := b &&& 0xFF, vl := BitVec.ofNat 13 g, live := BitVec.ofNat 13 (min n g) }, g)

/-- `setvl` (R107, R108): with a pre-emption request pending the hart stops before it (R110). -/
def execSetvl (w : BitVec 3) (d a b : Reg) (s : State) : Host.Outcome State Fault Refusal :=
  run { scalarInfo w (some (.a d)) [.a a, .a b] 0 with on := .vector, lending := .no, flow := true } s fun s =>
    if s.me.preempt then .leave (s.takeStop s.cur 1)
    else
      let r := s.me.setvl (s.me.getA a) (s.me.getA b)
      .done (s.setMe (r.1.progress0.setA d (BitVec.ofNat 64 r.2) 0))

/-- The number of elements a mask form covers: `vl`, taken as 4,096 on the control core (R116). -/
def State.maskLen (s : State) : Nat := if isControl s.cur then 4096 else s.me.vl.toNat

/-- Bits 0 to n − 1. -/
def lowBits (n : Nat) : BitVec 4096 := (lowMask n).setWidth 4096

/-- The granules of bits of mask registers, by register and bits (R367). -/
def maskReads (ms : List MReg) (bits : List Nat) : List (Dst × Nat) :=
  ms.flatMap (fun m => bits.map (fun i => (Dst.m m, i / 64)))

/-- The active bits below the length of a mask form. -/
def State.activeBits (s : State) (i : Info) : List Nat :=
  (List.range s.maskLen).filter (fun k => (activeMask i (s.me.settle s.me.now)).getLsbD k)

/-- Issue of a mask form (R116): held by both kinds of hart, on a control core without `vtype`. -/
def maskInfo (w : BitVec 3) (p : Option (BitVec 3)) (dest : Dst) (srcs : List Dst) (s : State) : Info :=
  { wt := w, on := .both, priv := false, lending := if p.isSome then .bits else .no, pred := p, flow := false,
    vec := !isControl s.cur, dest := some dest, srcs := if s.maskLen = 0 then [] else srcs, lat := 2, ill := false,
    illCsr := false, ecc := .elems }

/-- The same of a form that reads bits of the mask registers `ms`. -/
def Info.reading (i : Info) (ms : List MReg) (bits : List Nat) : Info := { i with ecc := .reads (maskReads ms bits) }

/-- A predicated mask form: d[i] := f(i) on the active bits below `vl` (R117). -/
def maskForm (w p : BitVec 3) (d : MReg) (srcs : List MReg) (f : Hart → BitVec 4096) (s : State) :
    Host.Outcome State Fault Refusal :=
  let i := maskInfo w (some p) (.m d) (srcs.map Dst.m) s
  run (i.reading srcs (s.activeBits i)) s fun s => .done (s.setM d (activeMask i s.me &&& lowBits s.maskLen) (f s.me) 2)

/-- `mand` (R117). -/
def execMand (w : BitVec 3) (d a b : MReg) (p : BitVec 3) (s : State) : Host.Outcome State Fault Refusal :=
  maskForm w p d [a, b] (fun h => h.getM a &&& h.getM b) s

/-- `mor` (R117). -/
def execMor (w : BitVec 3) (d a b : MReg) (p : BitVec 3) (s : State) : Host.Outcome State Fault Refusal :=
  maskForm w p d [a, b] (fun h => h.getM a ||| h.getM b) s

/-- `mxor` (R117). -/
def execMxor (w : BitVec 3) (d a b : MReg) (p : BitVec 3) (s : State) : Host.Outcome State Fault Refusal :=
  maskForm w p d [a, b] (fun h => h.getM a ^^^ h.getM b) s

/-- `mandn` (R117). -/
def execMandn (w : BitVec 3) (d a b : MReg) (p : BitVec 3) (s : State) : Host.Outcome State Fault Refusal :=
  maskForm w p d [a, b] (fun h => h.getM a &&& ~~~(h.getM b)) s

/-- `mnot` (R117). -/
def execMnot (w : BitVec 3) (d a : MReg) (p : BitVec 3) (s : State) : Host.Outcome State Fault Refusal :=
  maskForm w p d [a] (fun h => ~~~(h.getM a)) s

/-- `mshl` (R117): toward higher elements, b bit 0 entering at element 0. -/
def execMshl (w : BitVec 3) (d a : MReg) (b : Reg) (s : State) : Host.Outcome State Fault Refusal :=
  run ((maskInfo w none (.m d) [.m a, .a b] s).reading [a] (List.range (s.maskLen - 1))) s fun s =>
    let x := s.me.getM a
    let c : BitVec 4096 := (BitVec.ofBool ((s.me.getA b).getLsbD 0)).setWidth 4096
    .done (s.setM d (lowBits s.maskLen) ((x <<< 1) ||| c) 2)

/-- `mshr` (R117): toward lower elements, b bit 0 entering at element `vl` − 1. -/
def execMshr (w : BitVec 3) (d a : MReg) (b : Reg) (s : State) : Host.Outcome State Fault Refusal :=
  run ((maskInfo w none (.m d) [.m a, .a b] s).reading [a] (List.range' 1 (s.maskLen - 1))) s fun s =>
    let n := s.maskLen
    let x := s.me.getM a &&& lowBits n
    let c : BitVec 4096 := (BitVec.ofBool ((s.me.getA b).getLsbD 0)).setWidth 4096
    .done (s.setM d (lowBits n) ((x >>> 1) ||| (c <<< (n - 1))) 2)

/-- `mpop` (R117): the number of active elements whose bit is 1. -/
def execMpop (w : BitVec 3) (d : Reg) (a : MReg) (p : BitVec 3) (s : State) : Host.Outcome State Fault Refusal :=
  let i := maskInfo w (some p) (.a d) [.m a] s
  run (i.reading [a] (s.activeBits i)) s fun s =>
    let x := s.me.getM a &&& activeMask i s.me
    .done (s.setA d (BitVec.ofNat 64 ((List.range s.maskLen).filter (fun k => x.getLsbD k)).length) 2)

/-- `mfirst` (R117): the lowest active element whose bit is 1, or all ones. -/
def execMfirst (w : BitVec 3) (d : Reg) (a : MReg) (p : BitVec 3) (s : State) : Host.Outcome State Fault Refusal :=
  let i := maskInfo w (some p) (.a d) [.m a] s
  run (i.reading [a] (s.activeBits i)) s fun s =>
    let x := s.me.getM a &&& activeMask i s.me
    .done (s.setA d (match (List.range s.maskLen).find? (fun k => x.getLsbD k) with
      | some k => BitVec.ofNat 64 k
      | none => 0xFFFFFFFFFFFFFFFF) 2)

/-- `mget` (R17, R117); an uncorrectable error of `smiss` is met as it is read (R367). -/
def execMget (w : BitVec 3) (d : MReg) (p : BitVec 3) (s : State) : Host.Outcome State Fault Refusal :=
  let i := maskInfo w (some p) (.m d) [] s
  run i s fun s =>
    if s.ctlBad [0x40] then .trap s .eccFatal 0 s.me.midway
    else .done (s.setM d (activeMask i s.me &&& lowBits s.maskLen) s.me.smiss 2)

/-- `mput` (R117): 64 bits of d at 64 times b bits `5..0`. -/
def execMput (w : BitVec 3) (d : MReg) (a b : Reg) (s : State) : Host.Outcome State Fault Refusal :=
  run (maskInfo w none (.m d) [.a a, .a b] s) s fun s =>
    let k := 64 * ((s.me.getA b).toNat % 64)
    .done (s.setM d (lowBits s.maskLen &&& (lowBits 64 <<< k)) ((s.me.getA a).setWidth 4096 <<< k) 2)

/-- `mset` (R117). -/
def execMset (w : BitVec 3) (d : MReg) (p : BitVec 3) (s : State) : Host.Outcome State Fault Refusal :=
  maskForm w p d [] (fun _ => BitVec.allOnes 4096) s

/-- `mclr` (R117). -/
def execMclr (w : BitVec 3) (d : MReg) (p : BitVec 3) (s : State) : Host.Outcome State Fault Refusal :=
  maskForm w p d [] (fun _ => 0) s

end Sys2Proof.Machine
end

