-- ==== Sys2Proof/Machine/Dispatch.lean ====
section
/-! DEFINITION. One arm for each instruction and step of the opcode table. -/

namespace Sys2Proof.Machine

/-- The meaning of every instruction and step. -/
def exec (i : Instr) (s : State) : Host.Outcome State Fault Refusal :=
  match i with
  | .nop w => Sys2Proof.Machine.execNop w s
  | .jr w a => Sys2Proof.Machine.execJr w a s
  | .svc w code => Sys2Proof.Machine.execSvc w code s
  | .tret w => Sys2Proof.Machine.execTret w s
  | .brk w code => Sys2Proof.Machine.execBrk w code s
  | .halt w => Sys2Proof.Machine.execHalt w s
  | .mfc w d csr => Sys2Proof.Machine.execMfc w d csr s
  | .mtc w d csr => Sys2Proof.Machine.execMtc w d csr s
  | .mtcHctl w d => Sys2Proof.Machine.execMtcHctl w d s
  | .mtcVl w d => Sys2Proof.Machine.execMtcVl w d s
  | .mtcVtype w d => Sys2Proof.Machine.execMtcVtype w d s
  | .mtcEstart w d => Sys2Proof.Machine.execMtcEstart w d s
  | .mtcBstp w d => Sys2Proof.Machine.execMtcBstp w d s
  | .fenceC w a sc => Sys2Proof.Machine.execFenceC w a sc s
  | .fenceAll w sc => Sys2Proof.Machine.execFenceAll w sc s
  | .wfe w d a b => Sys2Proof.Machine.execWfe w d a b s
  | .rdtime w d => Sys2Proof.Machine.execRdtime w d s
  | .rdcyc w d => Sys2Proof.Machine.execRdcyc w d s
  | .ctxSave w a => Sys2Proof.Machine.execCtxSave w a s
  | .ctxLoad w a => Sys2Proof.Machine.execCtxLoad w a s
  | .tlbInv w a b => Sys2Proof.Machine.execTlbInv w a b s
  | .wait w n => Sys2Proof.Machine.execWait w n s
  | .lanemap w a => Sys2Proof.Machine.execLanemap w a s
  | .add w d a b => Sys2Proof.Machine.execAdd w d a b s
  | .sub w d a b => Sys2Proof.Machine.execSub w d a b s
  | .and w d a b => Sys2Proof.Machine.execAnd w d a b s
  | .or w d a b => Sys2Proof.Machine.execOr w d a b s
  | .xor w d a b => Sys2Proof.Machine.execXor w d a b s
  | .andn w d a b => Sys2Proof.Machine.execAndn w d a b s
  | .shl w d a b => Sys2Proof.Machine.execShl w d a b s
  | .shr w d a b => Sys2Proof.Machine.execShr w d a b s
  | .sar w d a b => Sys2Proof.Machine.execSar w d a b s
  | .rol w d a b => Sys2Proof.Machine.execRol w d a b s
  | .slt w d a b => Sys2Proof.Machine.execSlt w d a b s
  | .sltn w d a b => Sys2Proof.Machine.execSltn w d a b s
  | .min w d a b => Sys2Proof.Machine.execMin w d a b s
  | .max w d a b => Sys2Proof.Machine.execMax w d a b s
  | .minn w d a b => Sys2Proof.Machine.execMinn w d a b s
  | .maxn w d a b => Sys2Proof.Machine.execMaxn w d a b s
  | .mul w d a b => Sys2Proof.Machine.execMul w d a b s
  | .mulh w d a b => Sys2Proof.Machine.execMulh w d a b s
  | .mulhn w d a b => Sys2Proof.Machine.execMulhn w d a b s
  | .div w d a b => Sys2Proof.Machine.execDiv w d a b s
  | .divn w d a b => Sys2Proof.Machine.execDivn w d a b s
  | .rem w d a b => Sys2Proof.Machine.execRem w d a b s
  | .remn w d a b => Sys2Proof.Machine.execRemn w d a b s
  | .clz w d a => Sys2Proof.Machine.execClz w d a s
  | .ctz w d a => Sys2Proof.Machine.execCtz w d a s
  | .popc w d a => Sys2Proof.Machine.execPopc w d a s
  | .sext w d a k => Sys2Proof.Machine.execSext w d a k s
  | .zext w d a k => Sys2Proof.Machine.execZext w d a k s
  | .addi w d a imm => Sys2Proof.Machine.execAddi w d a imm s
  | .andi w d a imm => Sys2Proof.Machine.execAndi w d a imm s
  | .ori w d a imm => Sys2Proof.Machine.execOri w d a imm s
  | .xori w d a imm => Sys2Proof.Machine.execXori w d a imm s
  | .shli w d a sh => Sys2Proof.Machine.execShli w d a sh s
  | .shri w d a sh => Sys2Proof.Machine.execShri w d a sh s
  | .sari w d a sh => Sys2Proof.Machine.execSari w d a sh s
  | .ldk w d k imm => Sys2Proof.Machine.execLdk w d k imm s
  | .beq w a b off => Sys2Proof.Machine.execBeq w a b off s
  | .bne w a b off => Sys2Proof.Machine.execBne w a b off s
  | .blt w a b off => Sys2Proof.Machine.execBlt w a b off s
  | .bge w a b off => Sys2Proof.Machine.execBge w a b off s
  | .bltn w a b off => Sys2Proof.Machine.execBltn w a b off s
  | .bgen w a b off => Sys2Proof.Machine.execBgen w a b off s
  | .ssb w a b off => Sys2Proof.Machine.execSsb w a b off s
  | .jal w d off => Sys2Proof.Machine.execJal w d off s
  | .ldB w d a b c => Sys2Proof.Machine.execLdB w d a b c s
  | .ldH w d a b c => Sys2Proof.Machine.execLdH w d a b c s
  | .ldW w d a b c => Sys2Proof.Machine.execLdW w d a b c s
  | .ldD w d a b c => Sys2Proof.Machine.execLdD w d a b c s
  | .stB w d a b c => Sys2Proof.Machine.execStB w d a b c s
  | .stH w d a b c => Sys2Proof.Machine.execStH w d a b c s
  | .stW w d a b c => Sys2Proof.Machine.execStW w d a b c s
  | .stD w d a b c => Sys2Proof.Machine.execStD w d a b c s
  | .ldEAdd w d a b c => Sys2Proof.Machine.execLdEAdd w d a b c s
  | .ldEFadd w d a b c => Sys2Proof.Machine.execLdEFadd w d a b c s
  | .ldEMin w d a b c => Sys2Proof.Machine.execLdEMin w d a b c s
  | .ldEMax w d a b c => Sys2Proof.Machine.execLdEMax w d a b c s
  | .ldEMinn w d a b c => Sys2Proof.Machine.execLdEMinn w d a b c s
  | .ldEMaxn w d a b c => Sys2Proof.Machine.execLdEMaxn w d a b c s
  | .ldEAnd w d a b c => Sys2Proof.Machine.execLdEAnd w d a b c s
  | .ldEOr w d a b c => Sys2Proof.Machine.execLdEOr w d a b c s
  | .ldEXor w d a b c => Sys2Proof.Machine.execLdEXor w d a b c s
  | .stE w d a b c => Sys2Proof.Machine.execStE w d a b c s
  | .amoEAdd w d a b c => Sys2Proof.Machine.execAmoEAdd w d a b c s
  | .amoEOr w d a b c => Sys2Proof.Machine.execAmoEOr w d a b c s
  | .amoEAnd w d a b c => Sys2Proof.Machine.execAmoEAnd w d a b c s
  | .amoEMax w d a b c => Sys2Proof.Machine.execAmoEMax w d a b c s
  | .amoAddCl w d a b c => Sys2Proof.Machine.execAmoAddCl w d a b c s
  | .amoAddSl w d a b c => Sys2Proof.Machine.execAmoAddSl w d a b c s
  | .amoAddSt w d a b c => Sys2Proof.Machine.execAmoAddSt w d a b c s
  | .amoAddMo w d a b c => Sys2Proof.Machine.execAmoAddMo w d a b c s
  | .amoAddPo w d a b c => Sys2Proof.Machine.execAmoAddPo w d a b c s
  | .amoAddSy w d a b c => Sys2Proof.Machine.execAmoAddSy w d a b c s
  | .amoFaddCl w d a b c => Sys2Proof.Machine.execAmoFaddCl w d a b c s
  | .amoFaddSl w d a b c => Sys2Proof.Machine.execAmoFaddSl w d a b c s
  | .amoFaddSt w d a b c => Sys2Proof.Machine.execAmoFaddSt w d a b c s
  | .amoFaddMo w d a b c => Sys2Proof.Machine.execAmoFaddMo w d a b c s
  | .amoFaddPo w d a b c => Sys2Proof.Machine.execAmoFaddPo w d a b c s
  | .amoFaddSy w d a b c => Sys2Proof.Machine.execAmoFaddSy w d a b c s
  | .amoMinCl w d a b c => Sys2Proof.Machine.execAmoMinCl w d a b c s
  | .amoMinSl w d a b c => Sys2Proof.Machine.execAmoMinSl w d a b c s
  | .amoMinSt w d a b c => Sys2Proof.Machine.execAmoMinSt w d a b c s
  | .amoMinMo w d a b c => Sys2Proof.Machine.execAmoMinMo w d a b c s
  | .amoMinPo w d a b c => Sys2Proof.Machine.execAmoMinPo w d a b c s
  | .amoMinSy w d a b c => Sys2Proof.Machine.execAmoMinSy w d a b c s
  | .amoMaxCl w d a b c => Sys2Proof.Machine.execAmoMaxCl w d a b c s
  | .amoMaxSl w d a b c => Sys2Proof.Machine.execAmoMaxSl w d a b c s
  | .amoMaxSt w d a b c => Sys2Proof.Machine.execAmoMaxSt w d a b c s
  | .amoMaxMo w d a b c => Sys2Proof.Machine.execAmoMaxMo w d a b c s
  | .amoMaxPo w d a b c => Sys2Proof.Machine.execAmoMaxPo w d a b c s
  | .amoMaxSy w d a b c => Sys2Proof.Machine.execAmoMaxSy w d a b c s
  | .amoAndCl w d a b c => Sys2Proof.Machine.execAmoAndCl w d a b c s
  | .amoAndSl w d a b c => Sys2Proof.Machine.execAmoAndSl w d a b c s
  | .amoAndSt w d a b c => Sys2Proof.Machine.execAmoAndSt w d a b c s
  | .amoAndMo w d a b c => Sys2Proof.Machine.execAmoAndMo w d a b c s
  | .amoAndPo w d a b c => Sys2Proof.Machine.execAmoAndPo w d a b c s
  | .amoAndSy w d a b c => Sys2Proof.Machine.execAmoAndSy w d a b c s
  | .amoOrCl w d a b c => Sys2Proof.Machine.execAmoOrCl w d a b c s
  | .amoOrSl w d a b c => Sys2Proof.Machine.execAmoOrSl w d a b c s
  | .amoOrSt w d a b c => Sys2Proof.Machine.execAmoOrSt w d a b c s
  | .amoOrMo w d a b c => Sys2Proof.Machine.execAmoOrMo w d a b c s
  | .amoOrPo w d a b c => Sys2Proof.Machine.execAmoOrPo w d a b c s
  | .amoOrSy w d a b c => Sys2Proof.Machine.execAmoOrSy w d a b c s
  | .amoSwapCl w d a b c => Sys2Proof.Machine.execAmoSwapCl w d a b c s
  | .amoSwapSl w d a b c => Sys2Proof.Machine.execAmoSwapSl w d a b c s
  | .amoSwapSt w d a b c => Sys2Proof.Machine.execAmoSwapSt w d a b c s
  | .amoSwapMo w d a b c => Sys2Proof.Machine.execAmoSwapMo w d a b c s
  | .amoSwapPo w d a b c => Sys2Proof.Machine.execAmoSwapPo w d a b c s
  | .amoSwapSy w d a b c => Sys2Proof.Machine.execAmoSwapSy w d a b c s
  | .amoCasCl w d a b c => Sys2Proof.Machine.execAmoCasCl w d a b c s
  | .amoCasSl w d a b c => Sys2Proof.Machine.execAmoCasSl w d a b c s
  | .amoCasSt w d a b c => Sys2Proof.Machine.execAmoCasSt w d a b c s
  | .amoCasMo w d a b c => Sys2Proof.Machine.execAmoCasMo w d a b c s
  | .amoCasPo w d a b c => Sys2Proof.Machine.execAmoCasPo w d a b c s
  | .amoCasSy w d a b c => Sys2Proof.Machine.execAmoCasSy w d a b c s
  | .vldEAdd w d a b c => Sys2Proof.Machine.execVldEAdd w d a b c s
  | .vldEFadd w d a b c => Sys2Proof.Machine.execVldEFadd w d a b c s
  | .vldEMin w d a b c => Sys2Proof.Machine.execVldEMin w d a b c s
  | .vldEMax w d a b c => Sys2Proof.Machine.execVldEMax w d a b c s
  | .vldEMinn w d a b c => Sys2Proof.Machine.execVldEMinn w d a b c s
  | .vldEMaxn w d a b c => Sys2Proof.Machine.execVldEMaxn w d a b c s
  | .vldEAnd w d a b c => Sys2Proof.Machine.execVldEAnd w d a b c s
  | .vldEOr w d a b c => Sys2Proof.Machine.execVldEOr w d a b c s
  | .vldEXor w d a b c => Sys2Proof.Machine.execVldEXor w d a b c s
  | .vstE w d a b c => Sys2Proof.Machine.execVstE w d a b c s
  | .vamoAddCl w d a b c => Sys2Proof.Machine.execVamoAddCl w d a b c s
  | .vamoAddSl w d a b c => Sys2Proof.Machine.execVamoAddSl w d a b c s
  | .vamoAddSt w d a b c => Sys2Proof.Machine.execVamoAddSt w d a b c s
  | .vamoAddMo w d a b c => Sys2Proof.Machine.execVamoAddMo w d a b c s
  | .vamoAddPo w d a b c => Sys2Proof.Machine.execVamoAddPo w d a b c s
  | .vamoAddSy w d a b c => Sys2Proof.Machine.execVamoAddSy w d a b c s
  | .vamoFaddCl w d a b c => Sys2Proof.Machine.execVamoFaddCl w d a b c s
  | .vamoFaddSl w d a b c => Sys2Proof.Machine.execVamoFaddSl w d a b c s
  | .vamoFaddSt w d a b c => Sys2Proof.Machine.execVamoFaddSt w d a b c s
  | .vamoFaddMo w d a b c => Sys2Proof.Machine.execVamoFaddMo w d a b c s
  | .vamoFaddPo w d a b c => Sys2Proof.Machine.execVamoFaddPo w d a b c s
  | .vamoFaddSy w d a b c => Sys2Proof.Machine.execVamoFaddSy w d a b c s
  | .vamoMinCl w d a b c => Sys2Proof.Machine.execVamoMinCl w d a b c s
  | .vamoMinSl w d a b c => Sys2Proof.Machine.execVamoMinSl w d a b c s
  | .vamoMinSt w d a b c => Sys2Proof.Machine.execVamoMinSt w d a b c s
  | .vamoMinMo w d a b c => Sys2Proof.Machine.execVamoMinMo w d a b c s
  | .vamoMinPo w d a b c => Sys2Proof.Machine.execVamoMinPo w d a b c s
  | .vamoMinSy w d a b c => Sys2Proof.Machine.execVamoMinSy w d a b c s
  | .vamoMaxCl w d a b c => Sys2Proof.Machine.execVamoMaxCl w d a b c s
  | .vamoMaxSl w d a b c => Sys2Proof.Machine.execVamoMaxSl w d a b c s
  | .vamoMaxSt w d a b c => Sys2Proof.Machine.execVamoMaxSt w d a b c s
  | .vamoMaxMo w d a b c => Sys2Proof.Machine.execVamoMaxMo w d a b c s
  | .vamoMaxPo w d a b c => Sys2Proof.Machine.execVamoMaxPo w d a b c s
  | .vamoMaxSy w d a b c => Sys2Proof.Machine.execVamoMaxSy w d a b c s
  | .vamoAndCl w d a b c => Sys2Proof.Machine.execVamoAndCl w d a b c s
  | .vamoAndSl w d a b c => Sys2Proof.Machine.execVamoAndSl w d a b c s
  | .vamoAndSt w d a b c => Sys2Proof.Machine.execVamoAndSt w d a b c s
  | .vamoAndMo w d a b c => Sys2Proof.Machine.execVamoAndMo w d a b c s
  | .vamoAndPo w d a b c => Sys2Proof.Machine.execVamoAndPo w d a b c s
  | .vamoAndSy w d a b c => Sys2Proof.Machine.execVamoAndSy w d a b c s
  | .vamoOrCl w d a b c => Sys2Proof.Machine.execVamoOrCl w d a b c s
  | .vamoOrSl w d a b c => Sys2Proof.Machine.execVamoOrSl w d a b c s
  | .vamoOrSt w d a b c => Sys2Proof.Machine.execVamoOrSt w d a b c s
  | .vamoOrMo w d a b c => Sys2Proof.Machine.execVamoOrMo w d a b c s
  | .vamoOrPo w d a b c => Sys2Proof.Machine.execVamoOrPo w d a b c s
  | .vamoOrSy w d a b c => Sys2Proof.Machine.execVamoOrSy w d a b c s
  | .vamoRetry w d a b c => Sys2Proof.Machine.execVamoRetry w d a b c s
  | .setvl w d a b => Sys2Proof.Machine.execSetvl w d a b s
  | .mand w d a b p => Sys2Proof.Machine.execMand w d a b p s
  | .mor w d a b p => Sys2Proof.Machine.execMor w d a b p s
  | .mxor w d a b p => Sys2Proof.Machine.execMxor w d a b p s
  | .mandn w d a b p => Sys2Proof.Machine.execMandn w d a b p s
  | .mnot w d a p => Sys2Proof.Machine.execMnot w d a p s
  | .mshl w d a b => Sys2Proof.Machine.execMshl w d a b s
  | .mshr w d a b => Sys2Proof.Machine.execMshr w d a b s
  | .mpop w d a p => Sys2Proof.Machine.execMpop w d a p s
  | .mfirst w d a p => Sys2Proof.Machine.execMfirst w d a p s
  | .mget w d p => Sys2Proof.Machine.execMget w d p s
  | .mput w d a b => Sys2Proof.Machine.execMput w d a b s
  | .mset w d p => Sys2Proof.Machine.execMset w d p s
  | .mclr w d p => Sys2Proof.Machine.execMclr w d p s
  | .vadd w d a b p => Sys2Proof.Machine.execVadd w d a b p s
  | .vsub w d a b p => Sys2Proof.Machine.execVsub w d a b p s
  | .vadc w d a b k => Sys2Proof.Machine.execVadc w d a b k s
  | .vsbc w d a b k => Sys2Proof.Machine.execVsbc w d a b k s
  | .vmul w d a b p => Sys2Proof.Machine.execVmul w d a b p s
  | .vmulh w d a b p => Sys2Proof.Machine.execVmulh w d a b p s
  | .vmulhn w d a b p => Sys2Proof.Machine.execVmulhn w d a b p s
  | .vmacc w d a b p => Sys2Proof.Machine.execVmacc w d a b p s
  | .vand w d a b p => Sys2Proof.Machine.execVand w d a b p s
  | .vor w d a b p => Sys2Proof.Machine.execVor w d a b p s
  | .vxor w d a b p => Sys2Proof.Machine.execVxor w d a b p s
  | .vshl w d a b p => Sys2Proof.Machine.execVshl w d a b p s
  | .vshr w d a b p => Sys2Proof.Machine.execVshr w d a b p s
  | .vsar w d a b p => Sys2Proof.Machine.execVsar w d a b p s
  | .vmin w d a b p => Sys2Proof.Machine.execVmin w d a b p s
  | .vmax w d a b p => Sys2Proof.Machine.execVmax w d a b p s
  | .vminn w d a b p => Sys2Proof.Machine.execVminn w d a b p s
  | .vmaxn w d a b p => Sys2Proof.Machine.execVmaxn w d a b p s
  | .vceq w d a b p => Sys2Proof.Machine.execVceq w d a b p s
  | .vcne w d a b p => Sys2Proof.Machine.execVcne w d a b p s
  | .vclt w d a b p => Sys2Proof.Machine.execVclt w d a b p s
  | .vcle w d a b p => Sys2Proof.Machine.execVcle w d a b p s
  | .vcltn w d a b p => Sys2Proof.Machine.execVcltn w d a b p s
  | .vclen w d a b p => Sys2Proof.Machine.execVclen w d a b p s
  | .vsel w d a b p => Sys2Proof.Machine.execVsel w d a b p s
  | .vabsd w d a b p => Sys2Proof.Machine.execVabsd w d a b p s
  | .vsadd w d a b p => Sys2Proof.Machine.execVsadd w d a b p s
  | .vssub w d a b p => Sys2Proof.Machine.execVssub w d a b p s
  | .vgen w d a b p => Sys2Proof.Machine.execVgen w d a b p s
  | .vmov w d b p => Sys2Proof.Machine.execVmov w d b p s
  | .vfadd w d a b p => Sys2Proof.Machine.execVfadd w d a b p s
  | .vfsub w d a b p => Sys2Proof.Machine.execVfsub w d a b p s
  | .vfmul w d a b p => Sys2Proof.Machine.execVfmul w d a b p s
  | .vfma w d a b p => Sys2Proof.Machine.execVfma w d a b p s
  | .vfms w d a b p => Sys2Proof.Machine.execVfms w d a b p s
  | .vfnma w d a b p => Sys2Proof.Machine.execVfnma w d a b p s
  | .vfdiv w d a b p => Sys2Proof.Machine.execVfdiv w d a b p s
  | .vfsqrt w d b p => Sys2Proof.Machine.execVfsqrt w d b p s
  | .vfmin w d a b p => Sys2Proof.Machine.execVfmin w d a b p s
  | .vfmax w d a b p => Sys2Proof.Machine.execVfmax w d a b p s
  | .vfceq w d a b p => Sys2Proof.Machine.execVfceq w d a b p s
  | .vfclt w d a b p => Sys2Proof.Machine.execVfclt w d a b p s
  | .vfcle w d a b p => Sys2Proof.Machine.execVfcle w d a b p s
  | .vfcun w d a b p => Sys2Proof.Machine.execVfcun w d a b p s
  | .vfabs w d b p => Sys2Proof.Machine.execVfabs w d b p s
  | .vfneg w d b p => Sys2Proof.Machine.execVfneg w d b p s
  | .vfsgn w d a b p => Sys2Proof.Machine.execVfsgn w d a b p s
  | .vfrecp w d b p => Sys2Proof.Machine.execVfrecp w d b p s
  | .vfrsqe w d b p => Sys2Proof.Machine.execVfrsqe w d b p s
  | .vfclass w d b p => Sys2Proof.Machine.execVfclass w d b p s
  | .vfscal w d a b p => Sys2Proof.Machine.execVfscal w d a b p s
  | .vld w d a b c p => Sys2Proof.Machine.execVld w d a b c p s
  | .vlds w d a b c p => Sys2Proof.Machine.execVlds w d a b c p s
  | .vldx w d a b c p => Sys2Proof.Machine.execVldx w d a b c p s
  | .vst w d a b c p => Sys2Proof.Machine.execVst w d a b c p s
  | .vsts w d a b c p => Sys2Proof.Machine.execVsts w d a b c p s
  | .vstx w d a b c p => Sys2Proof.Machine.execVstx w d a b c p s
  | .vldq w d a b c => Sys2Proof.Machine.execVldq w d a b c s
  | .vstq w d a b c => Sys2Proof.Machine.execVstq w d a b c s
  | .vxch w d a b p => Sys2Proof.Machine.execVxch w d a b p s
  | .vslup w d a b p => Sys2Proof.Machine.execVslup w d a b p s
  | .vsldn w d a b p => Sys2Proof.Machine.execVsldn w d a b p s
  | .vperm w d a b p => Sys2Proof.Machine.execVperm w d a b p s
  | .vcmpr w d a p => Sys2Proof.Machine.execVcmpr w d a p s
  | .vexpd w d a p => Sys2Proof.Machine.execVexpd w d a p s
  | .vrank w d p => Sys2Proof.Machine.execVrank w d p s
  | .vredsum w d a p => Sys2Proof.Machine.execVredsum w d a p s
  | .vredmin w d a p => Sys2Proof.Machine.execVredmin w d a p s
  | .vredmax w d a p => Sys2Proof.Machine.execVredmax w d a p s
  | .vredand w d a p => Sys2Proof.Machine.execVredand w d a p s
  | .vredor w d a p => Sys2Proof.Machine.execVredor w d a p s
  | .vfredsum w d a p => Sys2Proof.Machine.execVfredsum w d a p s
  | .vfredmin w d a p => Sys2Proof.Machine.execVfredmin w d a p s
  | .vfredmax w d a p => Sys2Proof.Machine.execVfredmax w d a p s
  | .vfdot w d a b p => Sys2Proof.Machine.execVfdot w d a b p s
  | .vcvt w d a b p => Sys2Proof.Machine.execVcvt w d a b p s
  | .vext w d a b => Sys2Proof.Machine.execVext w d a b s
  | .vins w d a b => Sys2Proof.Machine.execVins w d a b s
  | .vvacc w d a b p => Sys2Proof.Machine.execVvacc w d a b p s
  | .vrescl w d a b p => Sys2Proof.Machine.execVrescl w d a b p s
  | .spOpen w d a b => Sys2Proof.Machine.execSpOpen w d a b s
  | .spBind w d a b => Sys2Proof.Machine.execSpBind w d a b s
  | .spGath w d a b => Sys2Proof.Machine.execSpGath w d a b s
  | .spIsect w d a b => Sys2Proof.Machine.execSpIsect w d a b s
  | .spUnion w d a b k => Sys2Proof.Machine.execSpUnion w d a b k s
  | .spSkip w d a => Sys2Proof.Machine.execSpSkip w d a s
  | .spCrd w d a p => Sys2Proof.Machine.execSpCrd w d a p s
  | .spPos w d a p => Sys2Proof.Machine.execSpPos w d a p s
  | .spTake w d a b => Sys2Proof.Machine.execSpTake w d a b s
  | .spSave w d a => Sys2Proof.Machine.execSpSave w d a s
  | .spRest w d a => Sys2Proof.Machine.execSpRest w d a s
  | .spClose w d => Sys2Proof.Machine.execSpClose w d s
  | .cxAcc w d a b p => Sys2Proof.Machine.execCxAcc w d a b p s
  | .cxGet w d a b p => Sys2Proof.Machine.execCxGet w d a b p s
  | .cxDrain w d => Sys2Proof.Machine.execCxDrain w d s
  | .cxClr w => Sys2Proof.Machine.execCxClr w s
  | .vprune w d a b p => Sys2Proof.Machine.execVprune w d a b p s
  | .grmBind w a => Sys2Proof.Machine.execGrmBind w a s
  | .grmEval w a b => Sys2Proof.Machine.execGrmEval w a b s
  | .grmOut w d a b p => Sys2Proof.Machine.execGrmOut w d a b p s
  | .mxClaim w d a => Sys2Proof.Machine.execMxClaim w d a s
  | .mxRel w a => Sys2Proof.Machine.execMxRel w a s
  | .mxZero w a => Sys2Proof.Machine.execMxZero w a s
  | .mxMm w d a b => Sys2Proof.Machine.execMxMm w d a b s
  | .mxMms w d a b k => Sys2Proof.Machine.execMxMms w d a b k s
  | .mxCfg w a => Sys2Proof.Machine.execMxCfg w a s
  | .mxCoop w a => Sys2Proof.Machine.execMxCoop w a s
  | .mxWait w => Sys2Proof.Machine.execMxWait w s
  | .mxCvt w a => Sys2Proof.Machine.execMxCvt w a s
  | .vto w d a b p => Sys2Proof.Machine.execVto w d a b p s
  | .vfrom w d a b p => Sys2Proof.Machine.execVfrom w d a b p s
  | .fork w a b => Sys2Proof.Machine.execFork w a b s
  | .rdv w a => Sys2Proof.Machine.execRdv w a s
  | .dmaSg w d a ch => Sys2Proof.Machine.execDmaSg w d a ch s
  | .dmaLay w d a b ch => Sys2Proof.Machine.execDmaLay w d a b ch s
  | .dmaWait w a ch => Sys2Proof.Machine.execDmaWait w a ch s
  | .dmaSt w d a ch => Sys2Proof.Machine.execDmaSt w d a ch s
  | .pub w a => Sys2Proof.Machine.execPub w a s
  | .barInit w a b => Sys2Proof.Machine.execBarInit w a b s
  | .barArr w a b => Sys2Proof.Machine.execBarArr w a b s
  | .barWait w d a b => Sys2Proof.Machine.execBarWait w d a b s
  | .netSend w d a ch => Sys2Proof.Machine.execNetSend w d a ch s
  | .netMist w d a ch => Sys2Proof.Machine.execNetMist w d a ch s
  | .netFetch w d a ch => Sys2Proof.Machine.execNetFetch w d a ch s
  | .netWait w d a ch => Sys2Proof.Machine.execNetWait w d a ch s
  | .tickWait w d a => Sys2Proof.Machine.execTickWait w d a s
  | .pfx pred inv creg cv => Sys2Proof.Machine.execPfx pred inv creg cv s
  | .trapEntry h => Sys2Proof.Machine.execTrapEntry h s
  | .wfeWake h => Sys2Proof.Machine.execWfeWake h s
  | .preemptionRequest hs => Sys2Proof.Machine.execPreemptionRequest hs s
  | .graceWindowExpiry h => Sys2Proof.Machine.execGraceWindowExpiry h s
  | .launch m rec => Sys2Proof.Machine.execLaunch m rec s
  | .graphReplay m graph => Sys2Proof.Machine.execGraphReplay m graph s
  | .patch m graph node dst data => Sys2Proof.Machine.execPatch m graph node dst data s
  | .map m r => Sys2Proof.Machine.execMap m r s
  | .unmap m r => Sys2Proof.Machine.execUnmap m r s
  | .contextLoad m root log => Sys2Proof.Machine.execContextLoad m root log s
  | .contextSave m => Sys2Proof.Machine.execContextSave m s
  | .gangSwitch m out inc tick => Sys2Proof.Machine.execGangSwitch m out inc tick s
  | .query m item => Sys2Proof.Machine.execQuery m item s
  | .attestation m nonce => Sys2Proof.Machine.execAttestation m nonce s
  | .partitionReset m => Sys2Proof.Machine.execPartitionReset m s
  | .shadowPreload c => Sys2Proof.Machine.execShadowPreload c s
  | .gangSwitchTick part => Sys2Proof.Machine.execGangSwitchTick part s
  | .clusterFlip c => Sys2Proof.Machine.execClusterFlip c s
  | .granuleExchange c g => Sys2Proof.Machine.execGranuleExchange c g s
  | .walkerDispatch c => Sys2Proof.Machine.execWalkerDispatch c s
  | .launchCompletion part ctx l => Sys2Proof.Machine.execLaunchCompletion part ctx l s
  | .priorityAging part ctx l => Sys2Proof.Machine.execPriorityAging part ctx l s
  | .gangLaunchTick part ctx l => Sys2Proof.Machine.execGangLaunchTick part ctx l s
  | .stage2Fault part ia ans => Sys2Proof.Machine.execStage2Fault part ia ans s
  | .pageMigration part ia pa => Sys2Proof.Machine.execPageMigration part ia pa s
  | .pageEviction part => Sys2Proof.Machine.execPageEviction part s
  | .spindleFetch h sr => Sys2Proof.Machine.execSpindleFetch h sr s
  | .postedPartPerform h k => Sys2Proof.Machine.execPostedPartPerform h k s
  | .loomOpStart c => Sys2Proof.Machine.execLoomOpStart c s
  | .loomOpComplete c => Sys2Proof.Machine.execLoomOpComplete c s
  | .channelTransferStart c ch => Sys2Proof.Machine.execChannelTransferStart c ch s
  | .listElementStart c ch id => Sys2Proof.Machine.execListElementStart c ch id s
  | .chunkTransfer c ch id => Sys2Proof.Machine.execChunkTransfer c ch id s
  | .listElementComplete c ch id => Sys2Proof.Machine.execListElementComplete c ch id s
  | .fabricWritePacket x pk => Sys2Proof.Machine.execFabricWritePacket x pk s
  | .fabricReadRequest x pk => Sys2Proof.Machine.execFabricReadRequest x pk s
  | .mistAnnounce x pk => Sys2Proof.Machine.execMistAnnounce x pk s
  | .mistBlock x blk crcGood data => Sys2Proof.Machine.execMistBlock x blk crcGood data s
  | .mistDeadline x => Sys2Proof.Machine.execMistDeadline x s
  | .transferAck c ch id missed => Sys2Proof.Machine.execTransferAck c ch id missed s
  | .retryLimit c ch id remote => Sys2Proof.Machine.execRetryLimit c ch id remote s
  | .sramScrub loc found => Sys2Proof.Machine.execSramScrub loc found s
  | .hbmPatrolScrub unit found => Sys2Proof.Machine.execHbmPatrolScrub unit found s
  | .allBankRefresh stack ch how => Sys2Proof.Machine.execAllBankRefresh stack ch how s
  | .coldReset => Sys2Proof.Machine.execColdReset s
  | .warmReset retrain => Sys2Proof.Machine.execWarmReset retrain s
  | .watchdogExpiry retrain => Sys2Proof.Machine.execWatchdogExpiry retrain s
  | .debugUnlock tok => Sys2Proof.Machine.execDebugUnlock tok s
  | .powerRound amps => Sys2Proof.Machine.execPowerRound amps s
  | .overcurrentRevoke => Sys2Proof.Machine.execOvercurrentRevoke s
  | .grantRestore => Sys2Proof.Machine.execGrantRestore s
  | .syncLoss => Sys2Proof.Machine.execSyncLoss s
  | .syncRegain => Sys2Proof.Machine.execSyncRegain s
  | .illegalWord word => Sys2Proof.Machine.execIllegalWord word s
  | .instructionFetchFault cause va => Sys2Proof.Machine.execInstructionFetchFault cause va s
  | .fixedLatencyResult h => Sys2Proof.Machine.execFixedLatencyResult h s
  | .accessPerformsAtHome h a => Sys2Proof.Machine.execAccessPerformsAtHome h a s
  | .shadowWritebackComplete c => Sys2Proof.Machine.execShadowWritebackComplete c s
  | .frontTickReached h => Sys2Proof.Machine.execFrontTickReached h s
  | .rmaReadResponse c ch id data => Sys2Proof.Machine.execRmaReadResponse c ch id data s
  | .partitionCreate part cl grace journal => Sys2Proof.Machine.execPartitionCreate part cl grace journal s
  | .fwcapWrite amps => Sys2Proof.Machine.execFwcapWrite amps s
  | .retainFlagSet => Sys2Proof.Machine.execRetainFlagSet s
  | .graceWindowForcedStop h => Sys2Proof.Machine.execGraceWindowForcedStop h s
  | .slotBusyEnd c o => Sys2Proof.Machine.execSlotBusyEnd c o s

end Sys2Proof.Machine
end

