-- ==== Sys2Proof/Machine/Fetch.lean ====
section
/-! DEFINITION. The fetch at the pc of a hart (R26, R35, R168, R319), and what stops or traps a hart at an instruction
boundary before it fetches (R331, R333, R334). -/

namespace Sys2Proof.Machine

/-- What the fetch at the pc gives: a word, a fault with its address, or a stall (R326). -/
inductive Fetched where
  | word (x : BitVec 32) (s : State)
  | fault (c : FetchCause) (va : Word) (s : State)
  | stall (s : State)

/-- The cause of a fetch as the step names it. -/
def fetchCause : Cause → FetchCause
  | .perm => .perm
  | .eccFatal => .eccFatal
  | _ => .pageFetch

/-- The fetch at the pc of the hart whose turn it is (R319). -/
def State.fetchWord (s : State) : Fetched :=
  match s.codeAt s.me.pc with
  | .ok x t => .word x t
  | .trap c t => .fault (fetchCause c) s.me.pc t
  | .stall t => .stall t

/-- What a hart does at a boundary instead of fetching: an asynchronous cause (R331, R396), a control core's stop at
the boundary, or the stop at the end of the grace window (R333, R334). A control core that may not stop yet, since its loom
queue has not drained (R246), issues no further instruction (R334). -/
def State.atBoundary (s : State) : Option State :=
  match s.boundaryTrap s.cur with
  | some t => some t
  | none =>
    let h := s.me
    if h.preempt && h.status == .running && isControl s.cur && s.mayStop s.cur then some (s.takeStop s.cur 3)
    else if h.preempt && (h.expired || s.windowOver s.cur) && (h.status == .running || h.status == .waiting) && s.mayStop s.cur
    then some (s.takeStop s.cur 3)
    else if h.preempt && h.status == .running && isControl s.cur && !s.coopReady s.myCluster then some s
    else none

/-- The physical address at which a placed instruction stands. -/
def placedKey (pc : Word) : Nat := pc.toNat % 2 ^ 40

/-- An address at which a word may be placed for the fetch: aligned, below 2^56 and outside the window. -/
def placeable (win pc : Word) : Bool :=
  pc.toNat % 4 == 0 && decide (pc.toNat < 2 ^ 56) && !decide ((pc - win).toNat < scratchSize)

/-- The cached translation through which a placed word is fetched: a 4 KiB page with every permission. -/
def placedEntry (sp : Nat × Nat) (pc : Word) : TlbEntry :=
  { part := sp.1, ctx := sp.2, va := pc.toNat / 4096 * 4096, size := 4096, ia := 2 ^ 60,
    key := placedKey pc / 4096 * 4096, r := true, w := true, x := true, u := true, page := pc.toNat / 4096 * 4096,
    pageSize := 4096 }

/-- The state in which the hart whose turn it is runs and its next fetch gives the bytes of a word. -/
def State.placeBytes (s : State) (bs : List Byte) : State :=
  let id := if s.cur < 4096 ∧ s.cur % 16 < 9 then s.cur else 0
  let h := s.hart id
  let pc :=
    if placeable h.scpwin h.pc then h.pc else if h.scpwin.toNat < 2 ^ 56 then h.scpwin + 0x600000 else 0
  let k := s.cluster (clusterOf id)
  let line := placedKey pc / 64
  let s := s.setHart id { h with status := .running, pc := pc, async := [], preempt := false, expired := false }
  let s := s.setCluster (clusterOf id) { k with tlb := placedEntry (s.spaceOf (clusterOf id)) pc :: k.tlb }
  { s with
    cur := id
    agenda := []
    mem := s.mem.writeList (placedKey pc) bs
    poisoned := s.poisoned.filter (fun l => l != line) }

end Sys2Proof.Machine
end

