-- ==== Sys2Proof/Machine/Step.lean ====
section
/-! DEFINITION. The step: the next turn of the agenda, or the next instruction of the hart whose turn it is. -/

namespace Sys2Proof.Machine

/-- Execute an instruction. Where it takes a trap or stops while loads or atomics wait, it is executed from the state in which
they have performed: a trap or stop finds their results in place (R29, R103, log entry 7). -/
noncomputable def execLanded (i : Instr) (s : State) : Host.Outcome State Fault Refusal :=
  match exec i s with
  | .next t => if s.broke t && s.me.late then exec i (s.land s.cur) else .next t
  | o => o

/-- Execute the word that the fetch gave, once the loads it must wait for have performed (R29, R183): the instruction it
decodes to, or the trap of a word that no form assigns (R66). -/
noncomputable def runWord (x : BitVec 32) (s : State) : Host.Outcome State Fault Refusal :=
  match Decode.word x with
  | .ok i =>
    match execLanded i { s.interlock x with word := x } with
    | .next t => .next (s.noteIssue x t)
    | o => o
  | .error _ => execIllegalWord x { s.land s.cur with word := x }

/-- Fetch and execute (R26, R35). -/
noncomputable def fetchRun (s : State) : Host.Outcome State Fault Refusal :=
  match s.fetchWord with
  | .word x t => runWord x t
  | .fault c va t => execInstructionFetchFault c va (t.land t.cur)
  | .stall t => .next (t.setMe { t.me with status := .stalled })

/-- One turn of the hart `cur`: a hart that does not run does nothing; a stalled one goes on with its instruction
(R326); one that runs or waits comes to an instruction boundary first. A turn that asks for an atomic before its turn in a
replay is undone (R381). -/
noncomputable def turn (s : State) : Host.Outcome State Fault Refusal :=
  if s.cur < 4096 ∧ s.cur % 16 < 9 then
    stallEarly s (match s.me.status with
    | .idle => .next s
    | .halted => .next s
    | .stopped => .next s
    | .stalled => fetchRun s
    | .running => match (s.land s.cur).atBoundary with | some t => .next t | none => fetchRun s
    | .waiting => match (s.land s.cur).atBoundary with | some t => .next t | none => fetchRun s)
  else .fault .noSuchHart

/-- The end of a turn that may end within its instruction. -/
def endTurn : Host.Outcome State Fault Refusal → Host.Outcome State Fault Refusal
  | .next s => .next { s with partly := none }
  | o => o

/-- One step (log entry 6): the next turn of the agenda, after the time that passes before it; with no agenda, the
hart whose turn it is goes on. -/
noncomputable def step (s : State) : Host.Outcome State Fault Refusal :=
  match s.agenda with
  | [] => turn s
  | t :: ts =>
    let s := { s with agenda := ts, mtime := s.mtime + t.dt }
    match t.act with
    | .hart id => turn { s with cur := id }
    | .partly id k => endTurn (turn { s with cur := id, partly := some k })
    | .event i => if i.isEvent then undoEarly s (exec i s) else .fault .notAnEvent

/-- The state with an instruction of the opcode table placed where `step` fetches next (log entry 5). -/
def State.withFetchWord (s : State) (nbits w : Nat) : State :=
  s.placeBytes (wordBytes (BitVec.ofNat 32 (w % 2 ^ nbits)))

end Sys2Proof.Machine
end

