-- ==== Sys2Proof/Safety.lean ====
section
/-! DEFINITION. The terms claims are stated in: what an instruction sees, when a form may issue, what it means to
complete, what a form gives and what it leaves unchanged, and the invariant of a run. -/

namespace Sys2Proof.Machine

/-- The hart whose turn it is as an instruction issued at cycle `T` sees it: the results readable by then are in their
registers (R29, R30). -/
def State.sees (s : State) (T : Nat) : Hart := s.me.settle T

/-- The state the instruction in hand sees. -/
def State.seen (s : State) : State := s.setMe (s.me.settle s.me.now)

/-- The address after the instruction in hand. -/
def State.after (s : State) : Word := s.me.pc + 4

/-- The registers `srcs` may be read (R30, R35, R367): none is underwaited where the hart checks that, and none holds an
uncorrectable error. -/
structure Readable (s : State) (srcs : List Dst) : Prop where
  ready : s.seen.me.chk = true → ∀ d ∈ srcs, s.seen.me.waits d = false
  sound : s.seen.srcBad srcs = false

/-- The hart is not halted, no prefix lends its state, and the registers `srcs` may be read: a form whose other conditions
hold issues. -/
structure Clear (s : State) (srcs : List Dst) : Prop where
  live : s.me.status ≠ .halted
  plain : s.me.lent = none
  read : Readable s srcs

/-- A trap of the hart whose turn it is is taken at once: it handles no other (R18), and its trap slot has been exchanged since
the last flip of its cluster (R338). -/
structure MayTrap (s : State) : Prop where
  tb : s.me.tb = false
  home : s.slotAway s.cur = false

/-- No load of the hart whose turn it is still waits for its data: a step has every load perform before an instruction that
could meet it (R29, R183). -/
def Landed (s : State) : Prop := ∀ q ∈ s.me.queue, q.load = none

/-- In `t` the instruction of `s` has completed and the hart goes on at `pc`: it runs, `w` more cycles have passed after
the one of issue (R56), the lent state has ended, and no trap has been taken (R103). -/
structure Completed (s t : State) (w : BitVec 3) (pc : Word) : Prop where
  cur : t.cur = s.cur
  runs : t.me.status = .running
  pc : t.me.pc = pc
  now : t.me.now = s.me.now + 1 + w.toNat
  lent : t.me.lent = none
  mode : t.me.priv = s.me.priv
  cause : t.me.tcause = s.me.tcause
  value : t.me.tval = s.me.tval
  back : t.me.tpc = s.me.tpc

/-- Every instruction issued `lat` cycles after this one or later reads `x` in scalar register `d` (R29); `a0` reads as
zero (R12). -/
def GivesA (s t : State) (lat : Nat) (d : Reg) (x : Word) : Prop :=
  ∀ T, s.me.now + lat ≤ T → (t.sees T).getA d = if d = 0 then 0 else x

/-- Every instruction issued `lat` cycles after this one or later finds `f` in the bits of mask register `d` that `f`
names, and in every other bit what it would have found without this instruction (R29). -/
def GivesM (s t : State) (lat : Nat) (d : MReg) (f : Nat → Option Bool) : Prop :=
  ∀ T, s.me.now + lat ≤ T → ∀ i, i < 4096 →
    ((t.sees T).getM d).getLsbD i = (f i).getD (((s.sees T).getM d).getLsbD i)

/-- Every instruction issued `lat` cycles after this one or later finds `f` in the elements of vector register `d` below
`n` that `f` names, and in every other element of the format below VLMAX what it would have found without this
instruction (R13, R29). -/
def GivesV (s t : State) (lat : Nat) (d : Reg) (f : Nat → Option Nat) : Prop :=
  ∀ T, s.me.now + lat ≤ T → ∀ i, i < s.me.vlmax s.me.width →
    (t.sees T).elem d s.me.width i = (f i).getD ((s.sees T).elem d s.me.width i)

/-- The scalar, vector, mask and stream registers that a form writes. -/
structure Writes where
  a : List Reg := []
  v : List Reg := []
  m : List MReg := []
  st : List SReg := []

/-- What of a hart is neither a register of these four files nor its place in the program: the control registers of R16,
the flags, the element progress, the high-water marks, the hidden copy of `smiss`, what is queued and posted, the
copies of bank sets, and what requests and causes are pending. -/
def Hart.rest (h : Hart) : Hart :=
  { h with status := .idle, a := Vector.replicate 32 0, v := Vector.replicate 32 0, m := Vector.replicate 16 0,
           st := Vector.replicate 16 Stream.closed, pc := 0, lent := none, now := 0, stalls := 0, pend := [],
           engaged := none, floor := 0, woken := false, asleep := false }

/-- A hart without what it has in flight: accesses in its class queues, results that wait for them, posted parts, and the errors
of parts that have come back. -/
def noFlight (h : Hart) : Hart := { h with queue := [], gathers := [], posted := [], async := [] }

/-- The frame of the hart whose turn it is: at every later cycle the registers not in `w` are what they would have been
without the instruction, and the rest of the hart is unchanged, but for what `e` blots out. -/
structure SameHart (s t : State) (w : Writes) (e : Hart → Hart := id) : Prop where
  a : ∀ r, r ∉ w.a → ∀ T, s.me.now ≤ T → (t.sees T).getA r = (s.sees T).getA r
  v : ∀ r, r ∉ w.v → ∀ T, s.me.now ≤ T → (t.sees T).getV r = (s.sees T).getV r
  m : ∀ r, r ∉ w.m → ∀ T, s.me.now ≤ T → (t.sees T).getM r = (s.sees T).getM r
  st : ∀ r, r ∉ w.st → t.me.getS r = s.me.getS r
  rest : (e t.me).rest = (e s.me).rest

/-- Nothing outside the hart whose turn it is differs, but for register granules that have been written whole (R367). -/
structure OnlyHart (s t : State) : Prop where
  rest : t = { s with harts := t.harts, badSram := t.badSram }
  harts : ∀ id, id ≠ s.cur → t.hart id = s.hart id
  bad : ∀ l, l ∈ t.badSram → l ∈ s.badSram

/-- A form that writes registers of its hart and nothing else has completed: its frame is the whole module. -/
structure Registers (s t : State) (w : BitVec 3) (pc : Word) (ws : Writes) (e : Hart → Hart := id) : Prop where
  done : Completed s t w pc
  hart : SameHart s t ws e
  only : OnlyHart s t

/-- The context that runs on the hart's cluster neither records nor replays: an input is as the hardware gives it (R378). -/
def Unlogged (s : State) : Prop :=
  ∀ c, s.ctx (s.spaceOf s.myCluster).1 (s.spaceOf s.myCluster).2 = some c → c.mode = .plain

/-- Nothing differs but what translation keeps: the TLBs, the use state of pages, and the pages that have missed in stage
2 (R322, R325, R328). -/
structure OnlyTlb (s t : State) : Prop where
  rest : t = { s with clusters := t.clusters, dieTlb := t.dieTlb, s2 := t.s2, s2miss := t.s2miss, fills := t.fills,
                      free := t.free }
  own : ∀ c, { t.cluster c with tlb := [] } = { s.cluster c with tlb := [] }

/-- Nothing outside the hart whose turn it is differs but memory, what translation keeps, the errors that stores have healed or
begun to heal (R368), and the lines that sleeping harts still watch (R96). -/
structure OnlyMem (s t : State) : Prop where
  rest : t = { s with mem := t.mem, harts := t.harts, clusters := t.clusters, dieTlb := t.dieTlb, s2 := t.s2,
                      s2miss := t.s2miss, fills := t.fills, free := t.free, poisoned := t.poisoned, badSram := t.badSram,
                      rewritten := t.rewritten, watched := t.watched }
  own : ∀ c, { t.cluster c with tlb := [] } = { s.cluster c with tlb := [] }
  harts : ∀ id, id ≠ s.cur → t.hart id = s.hart id

/-- From `u` to `t` a store of class `cls` has issued: its cells are in memory, or wait in the class queue, one entry for each
word (R181, R182); every other byte reads as before. -/
structure Stored (u t : State) (cls : BitVec 4) (cells : List (Nat × Byte × Byte)) : Prop where
  waits : u.queued = true → t.mem = u.mem ∧ t.me.queue = u.me.queue ++ entriesOf cls u.me.now cells
  performed : u.queued = false → t.mem = u.mem.putCells cells ∧ t.me.queue = u.me.queue
  frame : ∀ k, (∀ c ∈ cells, c.1 ≠ k) → t.mem.read k = u.mem.read k

/-- A form that accesses memory has completed. -/
structure Accessed (s t : State) (w : BitVec 3) (ws : Writes) (e : Hart → Hart := noFlight) : Prop where
  done : Completed s t w s.after
  hart : SameHart s t ws e
  only : OnlyMem s t

/-- From `s` to `u` loads of `n` bytes at the addresses `vas`, in order, have given the values `xs`. -/
inductive LoadSeq (cls : BitVec 4) (use : Use) (n : Nat) : State → List Word → List Nat → State → Prop where
  | nil (s : State) : LoadSeq cls use n s [] [] s
  | cons {s r u : State} {va : Word} {vas : List Word} {x : Nat} {xs : List Nat} :
      s.loadAt cls use va n = .ok x r → LoadSeq cls use n r vas xs u → LoadSeq cls use n s (va :: vas) (x :: xs) u

/-- From `s` to `u` loads of `n` bytes at the addresses of `vas`, in order, have entered their class queue, each for its place in
a register (R184, log entry 7). -/
inductive LateSeq (cls : BitVec 4) (use : Use) (n : Nat) : State → List (Word × Place) → State → Prop where
  | nil (s : State) : LateSeq cls use n s [] s
  | cons {s r u : State} {va : Word} {p : Place} {vas : List (Word × Place)} :
      s.loadFor cls use va n (.place p) = .ok none r → LateSeq cls use n r vas u → LateSeq cls use n s ((va, p) :: vas) u

/-- From `s` to `u` the words of blocks of a list have entered their class queue, for register d (R184, log entry 7). -/
inductive LateBlocks (cls : BitVec 4) (h : Hart) (addr : Nat → Word) (d : Reg) : State → List Nat → State → Prop where
  | nil (s : State) : LateBlocks cls h addr d s [] s
  | cons {s r u : State} {j : Nat} {js : List Nat} :
      s.lateBlock cls h (addr j) d j = .ok true r → LateBlocks cls h addr d r js u → LateBlocks cls h addr d s (j :: js) u

/-- From `s` to `u` the banks of elements of `n` bytes of a list have entered their class queue, none of them done before, each
element's combination for its place in a register (R184, log entry 7). -/
inductive LateBanks (cls : BitVec 4) (n : Nat) (op : CombOp) (fmt : BitVec 4) (parts : Nat → List (Nat × Word))
    (place : Nat → Place) : State → List Nat → State → Prop where
  | nil (s : State) : LateBanks cls n op fmt parts place s [] s
  | cons {s r u : State} {i : Nat} {is : List Nat} :
      s.lateBanks cls .other n op fmt (parts i) { acc := none, done := 0, fl := 0, miss := false } (place i) = some r →
      LateBanks cls n op fmt parts place r is u → LateBanks cls n op fmt parts place s (i :: is) u

/-- From `s` to `u` elements of `n` bytes at the addresses `vas`, in order, have translated for a store to `keys`. -/
inductive KeySeq (cls : BitVec 4) (use : Use) (n : Nat) : State → List Word → List Nat → State → Prop where
  | nil (s : State) : KeySeq cls use n s [] [] s
  | cons {s r u : State} {va : Word} {vas : List Word} {k : Nat} {ks : List Nat} :
      s.storeElem cls use n va = .ok k r → KeySeq cls use n r vas ks u → KeySeq cls use n s (va :: vas) (k :: ks) u

/-- From `s` to `u` words at the addresses `vas`, in order, have translated for an access of kind `k` to `keys`. -/
inductive XlateSeq (k : Kind) (use : Use) : State → List Word → List Nat → State → Prop where
  | nil (s : State) : XlateSeq k use s [] [] s
  | cons {s r u : State} {va : Word} {vas : List Word} {key : Nat} {ks : List Nat} :
      s.xlate (s.who s.cur) k use va = .ok key r → XlateSeq k use r vas ks u → XlateSeq k use s (va :: vas) (key :: ks) u

/-- From `s` to `u` elements of `n` bytes have been stored, in order, each to all the addresses listed for it; `cells` are
what they stored. -/
inductive BankStoreSeq (cls : BitVec 4) (n : Nat) :
    State → List (List Word × Nat) → List (Nat × Byte × Byte) → State → Prop where
  | nil (s : State) : BankStoreSeq cls n s [] [] s
  | cons {s r u : State} {vas : List Word} {x : Nat} {ks : List Nat} {es : List (List Word × Nat)}
      {cells : List (Nat × Byte × Byte)} :
      XlateSeq .store .other s vas ks r → BankStoreSeq cls n (r.issueParts cls n x (ks.zip vas)) es cells u →
      BankStoreSeq cls n s ((vas, x) :: es) (ks.flatMap (fun k => cellsOf k n x) ++ cells) u

/-- From `s` to `u` banks of one element (number, address) have been read in order: those of `ks` gave the values `xs`, the
others were not permitted (R152). -/
inductive BankSeq (cls : BitVec 4) (use : Use) (n : Nat) :
    State → List (Nat × Word) → List Nat → List Nat → State → Prop where
  | nil (s : State) : BankSeq cls use n s [] [] [] s
  | read {s r u : State} {k : Nat} {va : Word} {ps : List (Nat × Word)} {x : Nat} {xs ks : List Nat} :
      s.loadAt cls use va n = .ok x r → BankSeq cls use n r ps xs ks u →
      BankSeq cls use n s ((k, va) :: ps) (x :: xs) (k :: ks) u
  | refused {s r u : State} {k : Nat} {va : Word} {ps : List (Nat × Word)} {c : Cause} {xs ks : List Nat} :
      s.loadAt cls use va n = .trap c r → c ≠ .eccFatal → BankSeq cls use n r ps xs ks u →
      BankSeq cls use n s ((k, va) :: ps) xs ks u

/-- From `s` to `u` banks of one element (number, address) have been translated in order: those of `ks` (number, key) are
permitted, the others are not (R152). -/
inductive BankKeySeq (k : Kind) (use : Use) : State → List (Nat × Word) → List (Nat × Nat) → State → Prop where
  | nil (s : State) : BankKeySeq k use s [] [] s
  | found {s r u : State} {b : Nat} {va : Word} {ps : List (Nat × Word)} {key : Nat} {ks : List (Nat × Nat)} :
      s.xlate (s.who s.cur) k use va = .ok key r → BankKeySeq k use r ps ks u →
      BankKeySeq k use s ((b, va) :: ps) ((b, key) :: ks) u
  | refused {s r u : State} {b : Nat} {va : Word} {ps : List (Nat × Word)} {c : Cause} {ks : List (Nat × Nat)} :
      s.xlate (s.who s.cur) k use va = .trap c r → c ≠ .eccFatal → BankKeySeq k use r ps ks u →
      BankKeySeq k use s ((b, va) :: ps) ks u

/-- From `s` to `u` atomics on the elements of a list, in order: those of `ms` have missed their scope, the others have been
performed, with flags `fl` in all, or wait in their class queue. `said` is what a log says of the misses (R381). -/
inductive AmoSeq (cls : BitVec 4) (scope : Nat) (op : AmoOp) (n : Nat) (fmt : BitVec 4) (said : Option (BitVec 4096))
    (logged : Bool) (addr : Nat → Word) (data : Nat → Nat) : State → List Nat → List Nat → BitVec 8 → State → Prop where
  | nil (s : State) : AmoSeq cls scope op n fmt said logged addr data s [] [] 0 s
  | did {s r u : State} {i : Nat} {is ms : List Nat} {old : Nat} {f fl : BitVec 8} :
      s.amoAt cls scope .elem op n fmt (addr i) (data i) 0 (said.map (fun m => m.getLsbD i)) logged none = .did old f r →
      AmoSeq cls scope op n fmt said logged addr data r is ms fl u →
      AmoSeq cls scope op n fmt said logged addr data s (i :: is) ms (f ||| fl) u
  | late {s r u : State} {i : Nat} {is ms : List Nat} {fl : BitVec 8} :
      s.amoAt cls scope .elem op n fmt (addr i) (data i) 0 (said.map (fun m => m.getLsbD i)) logged none = .late r →
      AmoSeq cls scope op n fmt said logged addr data r is ms fl u →
      AmoSeq cls scope op n fmt said logged addr data s (i :: is) ms fl u
  | missed {s r u : State} {i : Nat} {is ms : List Nat} {fl : BitVec 8} :
      s.amoAt cls scope .elem op n fmt (addr i) (data i) 0 (said.map (fun m => m.getLsbD i)) logged none = .missed r →
      AmoSeq cls scope op n fmt said logged addr data r is ms fl u →
      AmoSeq cls scope op n fmt said logged addr data s (i :: is) (i :: ms) fl u

/-- From `s` to `u` operand b has given the values `ys` for the elements of a list, in order (R111, R112). -/
inductive OperandSeq (b : VOp) (w : Nat) (h : Hart) : State → List Nat → List Nat → State → Prop where
  | nil (s : State) : OperandSeq b w h s [] [] s
  | cons {s r u : State} {i y : Nat} {is ys : List Nat} :
      s.operand b w i h = .ok y r → OperandSeq b w h r is ys u → OperandSeq b w h s (i :: is) (y :: ys) u

/-- A vector hart whose `vtype` is valid, whose lane map has no group missing or one (R14, R23), and whose `vl` is at most
VLMAX (R15): a vector form may issue. -/
structure VecReady (s : State) : Prop where
  hart : s.cur % 16 ≠ 8
  type : s.me.vbad = false
  lanes : s.me.lmap = lmapOf 0xFFFF ∨ ∃ g, g < 16 ∧ s.me.lmap = lmapOf (~~~(1#16 <<< g))
  fits : s.me.vl.toNat ≤ s.me.vlmax s.me.width

/-- The mask register that a p field names as a source. -/
def predSrc (p : BitVec 3) : List Dst := if p = 0 then [] else [.m (0#1 ++ p)]

/-- Element i is active under a p field (R13, R60). -/
def State.active (s : State) (p : BitVec 3) (i : Nat) : Bool := p == 0 || (s.seen.me.getM (0#1 ++ p)).getLsbD i

/-- Element i is taken up by the instruction in hand: it is below `vl`, and element progress has not passed it (R26). -/
def State.takes (s : State) (i : Nat) : Bool := decide (i < s.me.vl.toNat) && s.me.todo i

/-- Element i of a vector register as the instruction in hand sees it. -/
def State.el (s : State) (r : Reg) (i : Nat) : Nat := s.seen.me.elem r s.me.width i

/-- Element i of operand b, a vector or a scalar, as the instruction in hand sees it (R111). -/
def State.opEl (s : State) (b : VOp) (i : Nat) : Nat :=
  match b with
  | .vec r => s.el r i
  | .sca r => (s.seen.me.getA r).toNat % 2 ^ s.me.width
  | .str _ => 0

/-- Operand b is a vector or a scalar, no stream. -/
def atHand (b : VOp) : Bool := match b with | .str _ => false | _ => true

/-- The flags that the elements taken up set, `g` those of each element (R21, R113). -/
def State.flagged (s : State) (g : Nat → BitVec 8) : BitVec 8 :=
  (List.range s.me.vl.toNat).foldl (fun f k => if s.me.todo k then f ||| g k else f) 0

/-- A hart without its element progress and high-water marks, which vector forms write (R24, R27). -/
def noMarks (h : Hart) : Hart := { h with estart := 0, lgp := Vector.replicate 16 0, hwm := Vector.replicate 32 0 }

/-- A hart without what vector forms write beside registers: the marks, the progress and the flags. -/
def noMarksFlags (h : Hart) : Hart := { noMarks h with fstat := 0 }

/-- A hart without what every-bank forms write beside registers: what is in flight, the copies of bank sets, `bdone`, the
progress and the marks. -/
def noBanks (h : Hart) : Hart := { noFlight (noMarks h) with banks := [], bdone := 0 }

/-- Nothing differs but the hart whose turn it is, memory, what translation keeps, the errors that writes have healed, and of
its own cluster the context's fast state, now `f`, and the loom queue, now `q`, with the count of the operations that have
entered it; of another hart what `g` says, nothing where it is not given. -/
structure OnlyCluster (s t : State) (f : Fast) (q : List LoomOp) (g : Nat → Hart → Hart := fun _ h => h) : Prop where
  rest : t = { s with mem := t.mem, harts := t.harts, clusters := t.clusters, dieTlb := t.dieTlb, s2 := t.s2,
                      s2miss := t.s2miss, fills := t.fills, free := t.free, poisoned := t.poisoned, badSram := t.badSram,
                      rewritten := t.rewritten, watched := t.watched }
  own : { t.cluster s.myCluster with tlb := [] } =
    { s.cluster s.myCluster with
      fast := f
      queue := q
      looms := (s.cluster s.myCluster).looms + (q.length - (s.cluster s.myCluster).queue.length)
      tlb := [] }
  others : ∀ c, c ≠ s.myCluster → { t.cluster c with tlb := [] } = { s.cluster c with tlb := [] }
  harts : ∀ id, id ≠ s.cur → t.hart id = g id (s.hart id)

/-- The loom queue of the cluster of the hart whose turn it is. -/
def State.myQueue (s : State) : List LoomOp := (s.cluster s.myCluster).queue

/-- The active elements under a p field with no lent predicate, as a mask (R13, R60). -/
def State.actives (s : State) (p : BitVec 3) : BitVec 4096 :=
  if p = 0 then BitVec.allOnes 4096 else s.seen.me.getM (0#1 ++ p)

/-- From stream `v` in `s`, `n` elements with coordinates below `target` are passed, and the next one is not below it, so that
the stream stands at it (a drain delivers nothing below the target any more), or the stream is at its end: it is then `v'`, in
`u` (R210, R220). -/
inductive SkipSeq (id target : Nat) : Nat → State → Stream → State → Stream → Prop where
  | stop {s u : State} {v v' : Stream} {x : StreamElem} :
      v.peek id s = .ok (some x, v') u → target ≤ x.crd → SkipSeq id target 0 s v u (v.from target)
  | ended {s u : State} {v v' : Stream} : v.peek id s = .ok (none, v') u → SkipSeq id target 0 s v u v'
  | pass {s r u : State} {v v' v'' : Stream} {x : StreamElem} {n : Nat} :
      v.peek id s = .ok (some x, v') r → x.crd < target → SkipSeq id target n r v' u v'' →
      SkipSeq id target (n + 1) s v u v''

/-- The next elements of a stream, without moving it: those of `es`, none beyond its end (R211). -/
inductive PeekSeq (id : Nat) : State → Stream → List (Option StreamElem) → State → Prop where
  | nil (s : State) (v : Stream) : PeekSeq id s v [] s
  | cons {s r u : State} {v v' : Stream} {e : Option StreamElem} {es : List (Option StreamElem)} :
      v.peek id s = .ok (e, v') r → PeekSeq id r v' es u → PeekSeq id s v (e :: es) u

/-- From `s` to `u` the elements of a list are accumulated into the skein in order, each active live one by R218: those of `os`
overflowed, with flags `fl` in all. -/
inductive AccSeq (a : Reg) (b : VOp) (act : Nat → Bool) (h : Hart) :
    State → List Nat → List Nat → BitVec 8 → State → Prop where
  | nil (s : State) : AccSeq a b act h s [] [] 0 s
  | pass {s r u : State} {i y : Nat} {is os : List Nat} {fl : BitVec 8} :
      s.operand b h.width i h = .ok y r → (act i && decide (i < h.live.toNat)) = false →
      AccSeq a b act h r is os fl u → AccSeq a b act h s (i :: is) os fl u
  | put {s r u : State} {i y : Nat} {is os : List Nat} {fl : BitVec 8} {q : List (Nat × Word) × BitVec 8 × Bool} :
      s.operand b h.width i h = .ok y r → (act i && decide (i < h.live.toNat)) = true →
      r.sharedBad r.myCluster 3 (h.elem a h.width i % 2 ^ 32) = false →
      skeinPut h.fmt h.rm r.myFast.skein (h.elem a h.width i % 2 ^ 32) y = q →
      AccSeq a b act h (r.setMyFast { r.myFast with skein := q.1 }) is os fl u →
      AccSeq a b act h s (i :: is) (if q.2.2 then i :: os else os) (q.2.1 ||| fl) u

/-- From `s` to `u` the rules of a list are evaluated in order, their rows written and their valid bits set, with flags `fl` in
all (R251, R252). -/
inductive EvalSeq (c : Eval) : State → List Nat → BitVec 8 → State → Prop where
  | nil (s : State) : EvalSeq c s [] 0 s
  | cons {s r r' u : State} {ρ d : Nat} {h : Word} {row : BitVec 512} {f fl : BitVec 8} {ρs : List Nat} :
      c.head ρ s = .ok (h, d) r → c.rule ρ h r = .ok (row, f) r' → EvalSeq c (r'.putRule ρ row) ρs fl u →
      EvalSeq c s (ρ :: ρs) (f ||| fl) u

/-- From `s` words of block `blk` of an inbound transfer land in order, each translated as it lands, at the keys `ks`; the state is
then `u` (R192, R271, R356). -/
inductive LandSeq (i : Inbound) (blk : Nat) : State → List (Nat × Word) → List Nat → State → Prop where
  | nil (s : State) : LandSeq i blk s [] [] s
  | cons {s r u : State} {w : Nat × Word} {ws : List (Nat × Word)} {key : Nat} {ks : List Nat} :
      s.inKey i.part i.ctx .store (addrAt i.rva (32 * blk + w.1) 8) = .ok key r →
      LandSeq i blk (r.performIn i.part i.ctx (cellsOf key 8 w.2.toNat)) ws ks u → LandSeq i blk s (w :: ws) (key :: ks) u

/-- The state of the generator of R223 after `n` integers. -/
def rngAfter : Nat → Word × Word → Word × Word
  | 0, g => g
  | n + 1, g => let r := rngAfter n g; ((rngNext r.1 r.2).1, (rngNext r.1 r.2).2.1)

/-- The 128-bit barrier word at a key has these fields, no reserved bit set (R274). -/
structure BarHas (m : Memory) (key : Nat) (pend expect phase extra : Nat) (ovf : Bool) : Prop where
  pend : m.readLE key 16 % 2 ^ 40 = pend
  expect : m.readLE key 16 / 2 ^ 40 % 2 ^ 40 = expect
  phase : m.readLE key 16 / 2 ^ 80 % 2 ^ 8 = phase
  extra : m.readLE key 16 / 2 ^ 88 % 2 ^ 16 = extra
  ovf : m.readLE key 16 / 2 ^ 104 = ovf.toNat

/-- Transfer `x` has been issued on channel `ch` of the hart's cluster: it is the channel's last, and the counter has moved on
(R261). -/
def issuedOn (s : State) (ch : Nat) (x : Transfer) : Fast :=
  let k := s.chan s.myCluster ch
  let k := { k with next := k.next + 1, xfers := k.xfers ++ [x], ends := k.ends.filter (fun e => e.id != x.id) }
  { s.myFast with chans := s.myFast.chans.setIfInBounds ch k }

/-- No element progress is held (R27). -/
def Hart.fresh (h : Hart) : Prop := h.estart = 0 ∧ h.lgp = Vector.replicate 16 0

/-- The hart whose turn it is has taken cause `c` (R103): the trap registers say what, where and in which mode, and it goes
on in mode P at `tvec` with `tb` set. -/
structure Trapped (s t : State) (c : Cause) (tval tpc : Word) : Prop where
  cur : t.cur = s.cur
  runs : t.me.status = .running
  pc : t.me.pc = s.me.tvec
  cause : t.me.tcause = c.code.setWidth 64
  value : t.me.tval = tval
  back : t.me.tpc = tpc
  prior : t.me.tstat.getLsbD 0 = s.me.priv
  mode : t.me.priv = true
  tb : t.me.tb = true
  lent : t.me.lent = none

/-- What trap entry leaves besides the trap registers (R103): every pending result is in its register and no other register
differs, no stream either; `a1` to `a4` are in the hart's slot of its scratchpad and no other byte of memory differs; the
control registers not named by the rule are unchanged, as are every other hart and all else of the module, translations,
clusters and partitions among it, but that a control core is no longer at its cooperative operation (R246). Errors in what is
written whole are gone (R367, R368), and no hart watches a line that the slot lies in (R96). -/
structure TrapFrame (s t : State) : Prop where
  results : t.me.pend = [] ∧ t.me.a = s.me.finish.a ∧ t.me.v = s.me.finish.v ∧ t.me.m = s.me.finish.m
  st : t.me.st = s.me.st
  slot : ∀ k, k < 4 → t.mem.readLE (slotKey s.cur + 8 * k) 8 = (s.me.finish.getA (BitVec.ofNat 5 (k + 1))).toNat
  memory : ∀ k, k < slotKey s.cur ∨ slotKey s.cur + 32 ≤ k → t.mem.read k = s.mem.read k
  rounding : t.me.rm = s.me.rm ∧ t.me.chk = s.me.chk
  copy : t.me.smissCopy = s.me.smiss
  rest : { t.me.rest with tcause := 0, tval := 0, tpc := 0, tpfx := 0, tstat := 0, hctl := 0, smissCopy := 0, engaged := none } =
    { s.me.rest with tcause := 0, tval := 0, tpc := 0, tpfx := 0, tstat := 0, hctl := 0, smissCopy := 0, engaged := none }
  module : t = { s with mem := t.mem, harts := t.harts, clusters := t.clusters, poisoned := t.poisoned,
                        badSram := t.badSram, rewritten := t.rewritten, watched := t.watched }
  clusters : t.clusters = (s.leaveCoop s.cur).clusters
  errors : (∀ l, l ∈ t.poisoned → l ∈ s.poisoned) ∧ ∀ l, l ∈ t.badSram → l ∈ s.badSram
  harts : ∀ id, id ≠ s.cur → t.hart id = s.hart id

/-- The invariant of the module: memory is in its canonical form, and firmware's current ceiling is not above the fused
one (R387). -/
structure State.Inv (s : State) : Prop where
  mem : s.mem.wf = true
  cap : s.boot.fwcap ≤ s.boot.fcap

end Sys2Proof.Machine
end

