-- ==== Sys2Proof/Certificates/Slice0/Obligations.lean ====
section
/-! DEFINITION. The statements for the provers. -/

open Sys2Proof Sys2Proof.Machine

/-! ### Majors ALU, ALUI and BR -/

/-- R84 and R85: each form of two sources completes, and from the cycle its latency gives on (1, or 3 of the multiplies, divisions
and remainders: R29) `d` reads the value the rule gives, division by zero and the one overflow included; nothing else changes; a write
to `a0` is ignored (R12). -/
def Obligations.AluResults : Prop :=
  (∀ (s : State) (w : BitVec 3) (d a b : Reg), Clear s [.a a, .a b] →
     let x := s.seen.me.getA a
     let y := s.seen.me.getA b
     let n := y.toNat % 64
     let gives := fun (i : Instr) (v : Word) =>
       ∃ t, exec i s = .next t ∧ Registers s t w s.after { a := [d] } ∧ GivesA s t 1 d v
     gives (.add w d a b) (BitVec.ofNat 64 (x.toNat + y.toNat)) ∧
     gives (.sub w d a b) (BitVec.ofInt 64 (x.toInt - y.toInt)) ∧
     gives (.and w d a b) (x &&& y) ∧
     gives (.or w d a b) (x ||| y) ∧
     gives (.xor w d a b) (x ^^^ y) ∧
     gives (.andn w d a b) (x &&& ~~~y) ∧
     gives (.shl w d a b) (BitVec.ofNat 64 (x.toNat * 2 ^ n)) ∧
     gives (.shr w d a b) (BitVec.ofNat 64 (x.toNat / 2 ^ n)) ∧
     gives (.sar w d a b) (BitVec.ofInt 64 (x.toInt / 2 ^ n)) ∧
     gives (.rol w d a b) (x <<< n ||| x >>> (64 - n)) ∧
     gives (.slt w d a b) (if x.toInt < y.toInt then 1 else 0) ∧
     gives (.sltn w d a b) (if x.toNat < y.toNat then 1 else 0) ∧
     gives (.min w d a b) (BitVec.ofInt 64 (min x.toInt y.toInt)) ∧
     gives (.max w d a b) (BitVec.ofInt 64 (max x.toInt y.toInt)) ∧
     gives (.minn w d a b) (BitVec.ofNat 64 (min x.toNat y.toNat)) ∧
     gives (.maxn w d a b) (BitVec.ofNat 64 (max x.toNat y.toNat))) ∧
  (∀ (s : State) (w : BitVec 3) (d a b : Reg), Clear s [.a a, .a b] →
     let x := s.seen.me.getA a
     let y := s.seen.me.getA b
     let wraps := x.toInt = -2 ^ 63 ∧ y.toInt = -1
     let gives := fun (i : Instr) (v : Word) =>
       ∃ t, exec i s = .next t ∧ Registers s t w s.after { a := [d] } ∧ GivesA s t 3 d v
     gives (.mul w d a b) (BitVec.ofInt 64 (x.toInt * y.toInt)) ∧
     gives (.mulh w d a b) (BitVec.ofInt 64 (x.toInt * y.toInt / 2 ^ 64)) ∧
     gives (.mulhn w d a b) (BitVec.ofNat 64 (x.toNat * y.toNat / 2 ^ 64)) ∧
     gives (.div w d a b) (if y = 0 then BitVec.allOnes 64 else if wraps then x else BitVec.ofInt 64 (x.toInt.tdiv y.toInt)) ∧
     gives (.divn w d a b) (if y = 0 then BitVec.allOnes 64 else BitVec.ofNat 64 (x.toNat / y.toNat)) ∧
     gives (.rem w d a b) (if y = 0 then x else if wraps then 0 else BitVec.ofInt 64 (x.toInt.tmod y.toInt)) ∧
     gives (.remn w d a b) (if y = 0 then x else BitVec.ofNat 64 (x.toNat % y.toNat)))

/-- R84, R86 and R87: the forms of one source and those with an immediate complete, every later instruction reads in `d`
the value the rules give, and nothing else changes; `ldk` replaces twelve bits of `d`, or its top four. -/
def Obligations.AluImmediateResults : Prop :=
  ∀ (s : State) (w : BitVec 3) (d a : Reg) (k : BitVec 5) (imm : BitVec 12) (sh : BitVec 6), Clear s [.a a] →
    let x := s.seen.me.getA a
    let gives := fun (i : Instr) (v : Word) =>
      ∃ t, exec i s = .next t ∧ Registers s t w s.after { a := [d] } ∧ GivesA s t 1 d v
    (∃ n, gives (.clz w d a) (BitVec.ofNat 64 n) ∧ (x = 0 → n = 64) ∧
      (x ≠ 0 → n < 64 ∧ x.getLsbD (63 - n) = true ∧ ∀ j, 63 - n < j → x.getLsbD j = false)) ∧
    (∃ n, gives (.ctz w d a) (BitVec.ofNat 64 n) ∧ (x = 0 → n = 64) ∧
      (x ≠ 0 → x.getLsbD n = true ∧ ∀ j, j < n → x.getLsbD j = false)) ∧
    gives (.popc w d a) (BitVec.ofNat 64 ((List.range 64).filter (fun i => x.getLsbD i)).length) ∧
    (k.toNat < 3 → gives (.sext w d a k) ((x.extractLsb' 0 (8 <<< k.toNat)).signExtend 64)) ∧
    (k.toNat < 3 → gives (.zext w d a k) (BitVec.ofNat 64 (x.toNat % 2 ^ (8 <<< k.toNat)))) ∧
    gives (.addi w d a imm) (BitVec.ofInt 64 (x.toInt + imm.toInt)) ∧
    gives (.andi w d a imm) (x &&& BitVec.ofInt 64 imm.toInt) ∧
    gives (.ori w d a imm) (x ||| BitVec.ofInt 64 imm.toInt) ∧
    gives (.xori w d a imm) (x ^^^ BitVec.ofInt 64 imm.toInt) ∧
    gives (.shli w d a sh) (BitVec.ofNat 64 (x.toNat * 2 ^ sh.toNat)) ∧
    gives (.shri w d a sh) (BitVec.ofNat 64 (x.toNat / 2 ^ sh.toNat)) ∧
    gives (.sari w d a sh) (BitVec.ofInt 64 (x.toInt / 2 ^ sh.toNat)) ∧
    (d = a → k.toNat < 5 → ∃ v : Word, gives (.ldk w d k imm) v ∧ ∀ j, j < 64 → v.getLsbD j =
      if 12 * k.toNat ≤ j ∧ j < 12 * k.toNat + 12 then imm.getLsbD (j - 12 * k.toNat) else x.getLsbD j) ∧
    (d = a → k.toNat = 5 → ∃ v : Word, gives (.ldk w d k imm) v ∧ ∀ j, j < 64 → v.getLsbD j =
      if 60 ≤ j then imm.getLsbD (j - 60) else x.getLsbD j)

/-- R63 and R88: a branch completes and goes on at its address plus four times its offset where the condition holds, else at
the next instruction, and changes nothing else. -/
def Obligations.BranchResults : Prop :=
  ∀ (s : State) (w : BitVec 3) (a b : Reg) (off : BitVec 12), Clear s [.a a, .a b] →
    let x := s.seen.me.getA a
    let y := s.seen.me.getA b
    let goes := fun (i : Instr) (taken : Prop) => ∃ t pc, exec i s = .next t ∧ Registers s t w pc {} ∧
      (taken → pc = s.me.pc + BitVec.ofInt 64 (4 * off.toInt)) ∧ (¬taken → pc = s.after)
    goes (.beq w a b off) (x = y) ∧
    goes (.bne w a b off) (x ≠ y) ∧
    goes (.blt w a b off) (x.toInt < y.toInt) ∧
    goes (.bge w a b off) (y.toInt ≤ x.toInt) ∧
    goes (.bltn w a b off) (x.toNat < y.toNat) ∧
    goes (.bgen w a b off) (y.toNat ≤ x.toNat)

/-- R88 and R89: `ssb` takes b from a and branches where the result is above zero, `jal` leaves the address of the next
instruction in `d`, and `jr` goes to the address in a, or, where that is no multiple of four, traps MISALIGN with it. -/
def Obligations.JumpResults : Prop :=
  ∀ (s : State) (w : BitVec 3) (d a b : Reg) (off : BitVec 12) (far : BitVec 17), Clear s [.a a, .a b] →
    let x := s.seen.me.getA a
    let v := BitVec.ofInt 64 (x.toInt - (s.seen.me.getA b).toInt)
    (∃ t, exec (.ssb w a b off) s = .next t ∧
      Registers s t w (if 0 < v.toInt then s.me.pc + BitVec.ofInt 64 (4 * off.toInt) else s.after) { a := [a] } ∧
      GivesA s t 1 a v) ∧
    (∃ t, exec (.jal w d far) s = .next t ∧
      Registers s t w (s.me.pc + BitVec.ofInt 64 (4 * far.toInt)) { a := [d] } ∧ GivesA s t 1 d s.after) ∧
    (x.toNat % 4 = 0 → ∃ t, exec (.jr w a) s = .next t ∧ Registers s t w x {}) ∧
    (x.toNat % 4 ≠ 0 → MayTrap s → ∃ t, exec (.jr w a) s = .next t ∧ Trapped s t .misalign x s.me.pc)

/-! ### Major SYS and the prefix -/

/-- R32 and R68 to R71: `pfx` lends its state to the next word, also where that cannot be fetched; where the next word makes the
pair illegal it traps ILLEGAL at the prefix, with the prefix word; under a lent predicate that is false a scalar form completes
with no effect; a copy register takes what `d` takes; and a branch met as the second word of a pair traps ILLEGAL at the prefix
too. That a fault of the second word's fetch is left to that word is the model's choice: log entry 12. -/
def Obligations.PairResults : Prop :=
  (∀ (s r : State) (pred : MReg) (inv : BitVec 1) (creg : Reg) (cv : BitVec 1) (y : BitVec 32) (c : Cause), Clear s [] →
    let l : Lent := { pred := pred, inv := inv = 1, creg := creg, cv := cv = 1, viaTret := false }
    (s.seen.codeAt s.after = .ok y r → pairWordBad l y = false →
      ∃ t, exec (.pfx pred inv creg cv) s = .next t ∧ SameHart s t {} ∧ OnlyMem s t ∧ t.mem = s.mem ∧ t.me.pc = s.after ∧
        t.me.now = s.me.now + 1 ∧ t.me.status = .running ∧ t.me.lent = some l) ∧
    (s.seen.codeAt s.after = .trap c r →
      ∃ t, exec (.pfx pred inv creg cv) s = .next t ∧ SameHart s t {} ∧ OnlyHart s t ∧ t.me.pc = s.after ∧
        t.me.now = s.me.now + 1 ∧ t.me.status = .running ∧ t.me.lent = some l) ∧
    (s.seen.codeAt s.after = .ok y r → pairWordBad l y = true → MayTrap s →
      ∃ t, exec (.pfx pred inv creg cv) s = .next t ∧ Trapped s t .illegal ((prefixWord l).setWidth 64) s.me.pc ∧
        TrapFrame r t ∧ t.me.tpfx = 0)) ∧
  (∀ (s : State) (l : Lent) (w : BitVec 3) (d a b : Reg), s.me.status ≠ .halted → s.me.lent = some l → l.pred ≠ 0 → l.cv = false →
    Readable s [.m l.pred] → (s.seen.me.getM l.pred).getLsbD 0 = l.inv →
    ∃ t, exec (.add w d a b) s = .next t ∧ Registers s t w s.after {}) ∧
  (∀ (s : State) (l : Lent) (w : BitVec 3) (d a b : Reg), s.me.status ≠ .halted → s.me.lent = some l → l.pred = 0 → l.cv = true →
    Readable s [.a a, .a b] →
    let v := s.seen.me.getA a + s.seen.me.getA b
    ∃ t, exec (.add w d a b) s = .next t ∧ Registers s t w s.after { a := [d, l.creg] } ∧ GivesA s t 1 d v ∧
      GivesA s t 1 l.creg (if d = 0 then 0 else v)) ∧
  (∀ (s : State) (l : Lent) (w : BitVec 3) (a b : Reg) (off : BitVec 12), s.me.lent = some l → l.viaTret = false →
    MayTrap s → ∃ t, exec (.beq w a b off) s = .next t ∧
      Trapped s t .illegal ((prefixWord l).setWidth 64) (s.me.pc - 4) ∧ TrapFrame s.seen t ∧ t.me.tpfx = 0)

/-- R102 to R104: `svc` and `brk` complete: their own effect is to take their causes. The trap registers hold the cause, the code
and the address (of `svc` the next instruction's, of `brk` its own) and the mode before; `a1` to `a4` are in the hart's slot; the hart goes on in mode P at
`tvec` with `tb` set, its pending results complete; nothing else differs. -/
def Obligations.TrapEntry : Prop :=
  ∀ (s : State) (w : BitVec 3) (code : BitVec 10), Clear s [] → MayTrap s →
    (∃ t, exec (.svc w code) s = .next t ∧ Trapped s t .svc (code.setWidth 64) s.after ∧ TrapFrame s.seen t ∧
      t.me.tpfx = 0 ∧ t.me.tstat.getLsbD 1 = false) ∧
    (∃ t, exec (.brk w code) s = .next t ∧ Trapped s t .brk (code.setWidth 64) s.me.pc ∧ TrapFrame s.seen t ∧
      t.me.tpfx = 0 ∧ t.me.tstat.getLsbD 1 = false)

/-- R105: in mode P with an aligned `tpc`, `tret` goes on there in the mode that `tstat` holds with `tb` clear; `a1` to `a4`
come back from the slot, `smiss` from its copy, and what `tpfx` holds is lent again; no other register differs. With `tpc`
misaligned it traps MISALIGN with `tpc`; an uncorrectable error in `tpc`, `tpfx` or `tstat`, or in a word of the slot, is
ECC-FATAL (R367). -/
def Obligations.TrapReturn : Prop :=
  ∀ (s : State) (w : BitVec 3), Clear s [] → s.me.priv = true → Landed s →
    let sound := s.ctlBad [0x22, 0x23, 0x24] = false
    (sound → s.me.tpc.toNat % 4 = 0 → s.slotAway s.cur = false → s.seen.drainSlot.slotBad s.cur = none →
      ∃ t, exec (.tret w) s = .next t ∧ t.cur = s.cur ∧ t.me.status = .running ∧
      t.me.pc = s.me.tpc ∧ t.me.priv = s.me.tstat.getLsbD 0 ∧ t.me.tb = false ∧ t.me.rm = s.me.rm ∧ t.me.chk = s.me.chk ∧
      t.me.smiss = s.me.smissCopy ∧ t.me.lent = lentOf s.me.tpfx ∧ t.me.tpfx.getLsbD 63 = false ∧
      t.mem = s.seen.drainSlot.mem ∧
      (∀ k, k < 4 → GivesA s t 1 (BitVec.ofNat 5 (k + 1))
        (BitVec.ofNat 64 (s.seen.drainSlot.mem.readLE (slotKey s.cur + 8 * k) 8))) ∧
      SameHart s t { a := [1, 2, 3, 4] }
        (fun h => { h with hctl := 0, smiss := 0, tpfx := 0, queue := [] })) ∧
    (sound → s.me.tpc.toNat % 4 ≠ 0 → MayTrap s → ∃ t, exec (.tret w) s = .next t ∧
      Trapped s t .misalign s.me.tpc s.me.pc) ∧
    (¬sound → MayTrap s → ∃ t, exec (.tret w) s = .next t ∧ Trapped s t .eccFatal 0 s.me.pc) ∧
    (∀ va, sound → s.me.tpc.toNat % 4 = 0 → MayTrap s → s.seen.drainSlot.slotBad s.cur = some va →
      ∃ t, exec (.tret w) s = .next t ∧ Trapped s t .eccFatal va s.me.pc)

/-- R103 to R105 together: a handler that returns at once resumes the program after its `svc` with the mode, the rounding
mode, `smiss` and every register as they were, every result complete, `tb` clear and nothing lent. -/
def Obligations.TrapRoundTrip : Prop :=
  ∀ (s t : State) (w : BitVec 3) (code : BitVec 10), Clear s [] → MayTrap s → Landed s → s.after.toNat % 4 = 0 →
    (∀ q ∈ s.me.queue, ∀ c ∈ q.cells, c.1 < slotKey s.cur ∨ slotKey s.cur + 32 ≤ c.1) →
    exec (.svc w code) s = .next t → ∃ u, exec (.tret w) t = .next u ∧ u.me.pc = s.after ∧ u.me.priv = s.me.priv ∧
      u.me.tb = false ∧ u.me.rm = s.me.rm ∧ u.me.chk = s.me.chk ∧ u.me.smiss = s.me.smiss ∧ u.me.lent = none ∧
      u.me.pend = [] ∧ (∀ r, u.me.getA r = s.seen.me.finish.getA r) ∧ u.me.v = s.seen.me.finish.v ∧
      u.me.m = s.seen.me.finish.m ∧ u.me.st = s.me.st

/-- R18, R93 and R331: `halt` in mode P halts every hart of the hart's partition and tells Aczar which hart it was; a trap
while `tb` is set does the same as a double trap, and writes no trap register. That `halt` reaches the partition follows
R331: log entry 19. -/
def Obligations.HaltAndDoubleTrap : Prop :=
  (∀ (s : State) (w : BitVec 3), Clear s [] → s.me.priv = true → s.cur ∈ s.fellows s.cur →
    ∃ t, exec (.halt w) s = .next t ∧ (∀ id ∈ s.fellows s.cur, (t.hart id).status = .halted) ∧
      (∀ id, id ∉ s.fellows s.cur → t.hart id = s.hart id) ∧ t.reports = s.reports ++ [(s.cur, false)] ∧ t.mem = s.mem ∧
      SameHart s t {}) ∧
  (∀ (s : State) (w : BitVec 3) (code : BitVec 10), Clear s [] → s.me.tb = true → s.cur ∈ s.fellows s.cur →
    ∃ t, exec (.brk w code) s = .next t ∧ (∀ id ∈ s.fellows s.cur, (t.hart id).status = .halted) ∧
      t.reports = s.reports ++ [(s.cur, true)] ∧ t.me.tcause = s.me.tcause ∧ t.me.tval = s.me.tval ∧ t.me.tpc = s.me.tpc ∧
      t.mem = s.mem)

/-- R16, R17, R20 to R24 and R94: in mode P `mfc` reads every control register that a vector hart holds, of narrow ones with
zeros above; a number that R16 does not list, `smiss` among them, traps ILLEGAL; in mode U the registers of mode P trap PRIV;
on a control core those of vector harts trap ILLEGAL. -/
def Obligations.ControlReads : Prop :=
  ∀ (s : State) (w : BitVec 3) (d : Reg), Clear s [] → (∀ c, s.csrBad c = false) →
    let h := s.me
    let reads := fun (n : BitVec 10) (v : Word) =>
      ∃ t, exec (.mfc w d n) s = .next t ∧ Registers s t w s.after { a := [d] } ∧ GivesA s t 1 d v
    let traps := fun (n : BitVec 10) (c : Cause) =>
      ∃ t, exec (.mfc w d n) s = .next t ∧ Trapped s t c (s.word.setWidth 64) s.me.pc
    (s.me.priv = true → s.cur % 16 ≠ 8 →
      (∀ e ∈ [(0x000, h.hctl), (0x001, h.vl.setWidth 64), (0x002, h.vtype), (0x003, h.estart.setWidth 64),
          (0x020, h.tcause), (0x021, h.tval), (0x022, h.tpc), (0x023, h.tpfx), (0x024, h.tstat),
          (0x030, h.fstat.setWidth 64), (0x031, h.rng0), (0x032, h.rng1), (0x041, h.bdone), (0x070, h.lmap),
          (0x081, BitVec.ofNat 64 s.cur), (0x082, BitVec.ofNat 64 (s.cur / 16)), (0x090, h.tvec), (0x091, h.bstp),
          (0x092, h.scpwin)], reads e.1 e.2) ∧
      (∀ k : Fin 16, reads (BitVec.ofNat 10 (0x10 + k.val)) (h.lgp[k].setWidth 64)) ∧
      (∀ k : Fin 32, reads (BitVec.ofNat 10 (0x50 + k.val)) (h.hwm[k].setWidth 64)) ∧
      (Unlogged s → reads 0x080 (BitVec.ofNat 64 s.mtime) ∧ reads 0x0A0 (s.rfpend (s.cur / 256)))) ∧
    (MayTrap s → ∀ n, csrOf n = none → traps n .illegal) ∧
    (MayTrap s → s.me.priv = false → ∀ n ∈ [0x020, 0x021, 0x022, 0x023, 0x024, 0x090, 0x091, 0x092, 0x0A0],
      traps n .priv) ∧
    (MayTrap s → s.cur % 16 = 8 → ∀ n ∈ [0x001, 0x002, 0x003, 0x010, 0x01F, 0x031, 0x032, 0x050, 0x06F, 0x070],
      traps n .illegal)

/-- R18 to R24, R94, R176: what `mtc` writes in mode P on a vector hart, register by register, `lgp0` to `lgp15`, `tpfx` and
`hwm0` to `hwm31` among them; nothing else differs. That `mtc vl` compares the 13 bits of the field with VLMAX, and passes over
the bits above them, is the model's reading of R94: log entry 28. -/
def Obligations.ControlWrites : Prop :=
  ∀ (s : State) (w : BitVec 3) (a : Reg), Clear s [.a a] → s.me.priv = true → s.cur % 16 ≠ 8 →
    let x := s.seen.me.getA a
    let writes := fun (i : Instr) (e : Hart → Hart) (post : Hart → Prop) =>
      ∃ t, exec i s = .next t ∧ SameHart s t {} e ∧ OnlyHart s t ∧ t.me.pc = s.after ∧ t.me.status = .running ∧
        t.me.now = s.me.now + 1 + w.toNat ∧ post t.me
    (writes (.mtcHctl w a) (fun h => { h with hctl := 0 }) fun h =>
      h.priv = true ∧ h.chk = x.getLsbD 1 ∧ h.rm = x.extractLsb' 2 2 ∧ h.tb = x.getLsbD 4) ∧
    (s.me.vbad = false → x.toNat % 2 ^ 13 ≤ s.me.vlmax s.me.width →
      writes (.mtcVl w a) (fun h => { h with vl := 0, live := 0 }) fun h =>
        h.vl = x.setWidth 13 ∧ h.live = x.setWidth 13) ∧
    (vtypeBad x = false → s.me.vl.toNat ≤ s.me.vlmax (fmtWidth (x.extractLsb' 0 4)) →
      writes (.mtcVtype w a) (fun h => { h with vtype := 0, live := 0 }) fun h => h.vtype = x ∧ h.live = s.me.vl) ∧
    (vtypeBad x = true → writes (.mtcVtype w a) (fun h => { h with vtype := 0, vl := 0, live := 0 }) fun h =>
      h.vbad = true ∧ h.vl = 0) ∧
    writes (.mtcEstart w a) (fun h => { h with estart := 0, lgp := Vector.replicate 16 0 }) (fun h =>
      h.estart = x.setWidth 13 ∧ ∀ k : Fin 16, h.lgp[k] = x.setWidth 13) ∧
    writes (.mtcBstp w a) (fun h => { h with bstp := 0, banks := [] }) (fun h =>
      h.bstp.toNat = x.toNat / 4096 * 4096 ∧ h.banks = []) ∧
    writes (.mtc w a 0x020) (fun h => { h with tcause := 0 }) (fun h => h.tcause.toNat = x.toNat % 256) ∧
    writes (.mtc w a 0x021) (fun h => { h with tval := 0 }) (fun h => h.tval = x) ∧
    writes (.mtc w a 0x022) (fun h => { h with tpc := 0 }) (fun h => h.tpc = x) ∧
    (∀ k : Fin 16, writes (.mtc w a (BitVec.ofNat 10 (0x10 + k.val))) (fun h => { h with lgp := Vector.replicate 16 0 })
      (fun h => h.lgp[k] = x.setWidth 13 ∧ ∀ j : Fin 16, j ≠ k → h.lgp[j] = s.me.lgp[j])) ∧
    (∀ k : Fin 32, writes (.mtc w a (BitVec.ofNat 10 (0x50 + k.val))) (fun h => { h with hwm := Vector.replicate 32 0 })
      (fun h => h.hwm[k] = x.setWidth 13 ∧ ∀ j : Fin 32, j ≠ k → h.hwm[j] = s.me.hwm[j])) ∧
    writes (.mtc w a 0x023) (fun h => { h with tpfx := 0 }) (fun h => ∀ j, j < 64 →
      h.tpfx.getLsbD j = (decide (14 ≤ j ∧ j < 25 ∨ j = 63) && x.getLsbD j)) ∧
    writes (.mtc w a 0x024) (fun h => { h with tstat := 0 }) (fun h => h.tstat.toNat = x.toNat % 4) ∧
    writes (.mtc w a 0x030) (fun h => { h with fstat := 0 }) (fun h => h.fstat = x.setWidth 8) ∧
    writes (.mtc w a 0x031) (fun h => { h with rng0 := 0 }) (fun h => h.rng0 = x) ∧
    writes (.mtc w a 0x032) (fun h => { h with rng1 := 0 }) (fun h => h.rng1 = x) ∧
    writes (.mtc w a 0x041) (fun h => { h with bdone := 0 }) (fun h => h.bdone = x) ∧
    writes (.mtc w a 0x090) (fun h => { h with tvec := 0 }) (fun h => h.tvec.toNat = x.toNat / 4 * 4) ∧
    writes (.mtc w a 0x092) (fun h => { h with scpwin := 0 }) (fun h => h.scpwin.toNat = x.toNat / 2 ^ 23 * 2 ^ 23) ∧
    (MayTrap s → ∀ n ∈ [0x070, 0x080, 0x081, 0x082, 0x0A0, 0x040], ∃ t, exec (.mtc w a n) s = .next t ∧
      Trapped s t .illegal (s.word.setWidth 64) s.me.pc)

/-- R16, R30, R34, R35, R67, R94, R99, R147, R175, R367: what traps at issue, with nothing done. A source that is not readable yet traps
UNDERWAIT with its number where the hart checks, one in a bad granule ECC-FATAL, and `fence.c` with a reserved scope ILLEGAL. In
mode U the forms of mode P, `ctx.save` and `ctx.load` among them, and `mtc` of a register that mode U may not write, trap PRIV
with the instruction word where no cause ILLEGAL comes before it (a length or type that R94 refuses: log entry 28). An every-bank
access to a set that is not valid traps PERM with its address, and one with an offset that is no multiple of eight MISALIGN. -/
def Obligations.IssueTraps : Prop :=
  (∀ (s : State) (w : BitVec 3) (d a : Reg) (imm : BitVec 12) (sc : BitVec 5), s.me.lent = none → MayTrap s →
     let traps := fun (i : Instr) (c : Cause) (v : Word) =>
       ∃ t, exec i s = .next t ∧ Trapped s t c v s.me.pc ∧ TrapFrame s.seen t
     (s.me.chk = true → s.seen.me.waits (.a a) = true → traps (.addi w d a imm) .underwait (a.setWidth 64)) ∧
     ((s.me.chk = true → s.seen.me.waits (.a a) = false) → SramLoc.scalar s.cur a.toNat ∈ s.badSram →
       traps (.addi w d a imm) .eccFatal 0) ∧
     (5 < sc.toNat → traps (.fenceC w a sc) .illegal (s.word.setWidth 64) ∧
       traps (.fenceAll w sc) .illegal (s.word.setWidth 64))) ∧
  (∀ (s : State) (w : BitVec 3) (a b : Reg), Clear s [.a a, .a b] → s.me.priv = false → MayTrap s →
     let traps := fun (i : Instr) =>
       ∃ t, exec i s = .next t ∧ Trapped s t .priv (s.word.setWidth 64) s.me.pc ∧ TrapFrame s.seen t
     let x := s.seen.me.getA a
     traps (.halt w) ∧ traps (.tret w) ∧
     (s.cur % 16 ≠ 8 →
       (x.toNat % 2 ^ 13 ≤ (if s.me.vbad then 0 else s.me.vlmax s.me.width) → traps (.mtcVl w a)) ∧
       (vtypeBad x = true ∨ s.me.vl.toNat ≤ s.me.vlmax (fmtWidth (x.extractLsb' 0 4)) → traps (.mtcVtype w a)) ∧
       ∀ k : Fin 16, traps (.mtc w a (BitVec.ofNat 10 (0x10 + k.val)))) ∧
     (s.cur % 16 = 8 → traps (.ctxSave w a) ∧ traps (.ctxLoad w a)) ∧
     (b.toNat < 2 → traps (.tlbInv w a b)) ∧
     (s.cur % 16 ≠ 8 → s.seen.me.getA a = s.maskInForce.setWidth 64 → traps (.lanemap w a)) ∧
     (s.cur % 16 ≠ 8 → traps (.mtcEstart w a)) ∧ traps (.mtcBstp w a) ∧
     (∀ n ∈ [0x020, 0x021, 0x022, 0x023, 0x024, 0x041, 0x090, 0x092], traps (.mtc w a n))) ∧
  (∀ (s r : State) (w : BitVec 3) (d a b : Reg) (c : BitVec 4), Clear s [.a a, .a b, .a d] → MayTrap s →
     Unlogged s →
     let e := s.seen.me.getA a + s.seen.me.getA b
     ∀ i ∈ [Instr.ldEAdd w d a b c, .stE w d a b c, .amoEOr w d a b c],
       (s.seen.readSet (e.extractLsb' 52 12) = .bad r → ∃ t, exec i s = .next t ∧ Trapped s t .perm e s.me.pc) ∧
       (∀ bs, s.seen.readSet (e.extractLsb' 52 12) = .ok bs r → e.toNat % 8 ≠ 0 →
         ∃ t, exec i s = .next t ∧ Trapped s t .misalign e s.me.pc))

/-- R93, R97 and R98: `nop` does nothing; `wait n` lets every pending result become readable and `n` more cycles pass;
`rdtime` reads the module time, and `rdcyc` at least the cycles of issue so far. That the count of `rdcyc` above the cycles
of issue is free is the model's choice: log entry 8. -/
def Obligations.WaitAndTime : Prop :=
  ∀ (s : State) (w : BitVec 3) (d : Reg) (n : BitVec 5), Clear s [] →
    (∃ t, exec (.nop w) s = .next t ∧ Registers s t w s.after {}) ∧
    (∃ t, exec (.wait w n) s = .next t ∧ SameHart s t {} ∧ OnlyHart s t ∧ t.me.pc = s.after ∧ t.me.status = .running ∧
      s.me.now + 1 + w.toNat ≤ t.me.now ∧ s.me.now + 1 + n.toNat ≤ t.me.now ∧
      ∀ p ∈ s.me.pend, p.ready + n.toNat ≤ t.me.now) ∧
    (Unlogged s → ∃ t, exec (.rdtime w d) s = .next t ∧ Registers s t w s.after { a := [d] } ∧
      GivesA s t 1 d (BitVec.ofNat 64 s.mtime)) ∧
    (Unlogged s → ∃ t n, exec (.rdcyc w d) s = .next t ∧ Completed s t w s.after ∧ SameHart s t { a := [d] } ∧
      GivesA s t 1 d (BitVec.ofNat 64 n) ∧ s.me.now + s.me.stalls ≤ n ∧ t.mem = s.mem ∧
      ∀ id, id ≠ s.cur → t.hart id = s.hart id)

/-- R96: `wfe` completes with the word at its address where that differs from b or a wake condition has come (a store on the
line that it watches while it sleeps, an asynchronous cause that may be taken, or another), and else goes to sleep, watching the
word's 64-byte line, with no effect; a store on that line ends the watch, and the hart then wakes; an address that is no multiple
of eight traps MISALIGN. When a sleeping hart is given its turn is the model's choice: log entry 6. -/
def Obligations.WfeResults : Prop :=
  (∀ (s : State) (w : BitVec 3) (d a b : Reg), Clear s [.a a, .a b] → Landed s →
    let va := s.seen.me.getA a
    (va.toNat % 8 = 0 → Unlogged s → ∀ key x q r, s.seen.xlate (s.seen.who s.cur) .load .other va = .ok key q →
      q.loadHome 0 key 8 = .ok x r →
      let wakes := s.me.woken = true ∨ (s.me.asleep = true ∧ tget r.watched s.cur = none) ∨
        (r.me.async ≠ [] ∧ s.me.tb = false)
      ((BitVec.ofNat 64 x ≠ s.seen.me.getA b ∨ wakes) → ∃ t, exec (.wfe w d a b) s = .next t ∧
        Completed s t w s.after ∧ SameHart s t { a := [d] } noFlight ∧ GivesA s t 1 d (BitVec.ofNat 64 x) ∧
        t.mem = r.mem ∧ tget t.watched s.cur = none) ∧
      (BitVec.ofNat 64 x = s.seen.me.getA b → ¬wakes → s.me.preempt = false →
        ∃ t, exec (.wfe w d a b) s = .next t ∧ t.me.status = .waiting ∧ t.me.asleep = true ∧ t.me.pc = s.me.pc ∧
          tget t.watched s.cur = some (key / 64) ∧ t.mem = r.mem)) ∧
    (va.toNat % 8 ≠ 0 → MayTrap s → ∃ t, exec (.wfe w d a b) s = .next t ∧ Trapped s t .misalign va s.me.pc)) ∧
  (∀ (s : State) (cells : List (Nat × Byte × Byte)) (h line : Nat), tget s.watched h = some line →
    (∃ c ∈ cells, c.1 / 64 = line) → (h, line) ∉ (s.perform cells).watched)

/-- R95, R182 and R185: `fence.c` and `fence.all` complete, for every scope that R95 gives. A fence over classes b, with a class
on either side, completes with every queued store of b whose home is within the scope, and at `mo` or wider every posted part of
b, performed: memory is what those stores, in their order, and those parts make it; a store that stays keeps its order; no
register differs. With either mask empty a fence performs nothing and leaves memory and everything in flight as they were. How
long a store stays queued is the model's choice: log entry 7. -/
def Obligations.FenceResults : Prop :=
  ∀ (s : State) (w : BitVec 3) (a : Reg) (sc : BitVec 5), Clear s [.a a] → sc.toNat ≤ 5 → Unlogged s → Landed s →
    let fences := fun (i : Instr) (b f : BitVec 16) => ∃ t, exec i s = .next t ∧ Completed s t w s.after ∧
      SameHart s t {} noFlight ∧
      List.Sublist t.me.queue s.me.queue ∧
      (b ≠ 0 → f ≠ 0 → ∀ q ∈ t.me.queue, b.getLsbD q.cls.toNat = true →
        ∀ c ∈ q.cells, sc.toNat < homeScope (s.cur / 16) c.1) ∧
      (b ≠ 0 → f ≠ 0 → 3 ≤ sc.toNat → ∀ p ∈ t.me.posted, b.getLsbD p.cls.toNat = false) ∧
      (b = 0 ∨ f = 0 → t.mem = s.mem ∧ t.me.queue = s.me.queue ∧ t.me.posted = s.me.posted) ∧
      (sc.toNat < 3 → t.me.posted = s.me.posted) ∧
      ∃ done, List.Sublist done s.me.queue ∧ (∀ q ∈ s.me.queue, q ∈ done ∨ q ∈ t.me.queue) ∧
        let u := done.foldl (fun u q => u.perform q.cells) s.seen
        u.mem = done.foldl (fun m q => m.putCells q.cells) s.mem ∧
        t.mem = if b ≠ 0 ∧ f ≠ 0 ∧ 3 ≤ sc.toNat then (u.drainPosted s.cur (fun p => b.getLsbD p.cls.toNat)).mem else u.mem
    fences (.fenceC w a sc) ((s.seen.me.getA a).extractLsb' 0 16) ((s.seen.me.getA a).extractLsb' 16 16) ∧
    fences (.fenceAll w sc) (BitVec.allOnes 16) (BitVec.allOnes 16)

/-- R100, R279 and R324: in mode P `tlb.inv` leaves in no TLB of any cluster or die a translation of the hart's partition from a
page that covers the address in a, nor, in the hart's own context, from one that meets the page which the tables then hold there;
with b = 1, which reads no a, none of the partition at all. With no chunk of its channels under way every other translation
stays, those of other partitions and, with b = 0, of the partition's other pages. Any other b traps ILLEGAL with the instruction
word. That it waits while an element of the partition holds a translation of its barrier which it names (R269) is the model's
choice: log entry 11. -/
def Obligations.TlbInvResults : Prop :=
  ∀ (s : State) (w : BitVec 3) (a : Reg) (b : BitVec 5), Clear s (if b = 1 then [] else [.a a]) → s.me.priv = true →
    let p := (s.spaceOf s.myCluster).1
    let va := (s.seen.me.getA a).toNat
    (2 ≤ b.toNat → MayTrap s → ∃ t, exec (.tlbInv w a b) s = .next t ∧
      Trapped s t .illegal (s.word.setWidth 64) s.me.pc) ∧
    let x := (s.spaceOf s.myCluster).2
    let covers := fun (z : State) (ctx page size : Nat) =>
      let g := z.storedPage (z.who s.cur) va
      (page ≤ va ∧ va < page + size) ∨ (ctx = x ∧ page < g.1 + g.2 ∧ g.1 < page + size)
    let u := ((s.seen.fellows s.cur).foldl State.drainHart s.seen).finishBursts s.myClusters (fun _ _ => true)
    let keeps := fun (e : TlbEntry) => b = 0 ∧ ¬covers u e.ctx e.page e.pageSize
    let held := s.barHeld s.myClusters (fun t _ => match t.barPage with
      | some g => decide (b = 1 ∨ covers s.seen t.who.ctx g.1 g.2)
      | none => decide (b = 1))
    (b.toNat < 2 → held = true → ∃ t, exec (.tlbInv w a b) s = .next t ∧ t.me.status = .stalled ∧ t.me.pc = s.me.pc ∧
      t.mem = s.mem ∧ t.clusters = s.clusters ∧ t.dieTlb = s.dieTlb) ∧
    (b.toNat < 2 → held = false → Unlogged s → ∃ t, exec (.tlbInv w a b) s = .next t ∧ Completed s t w s.after ∧
      (∀ c, ∀ e ∈ (t.cluster c).tlb, e.part = p → keeps e) ∧
      (∀ k l, tget t.dieTlb k = some l → ∀ e ∈ l, e.part = p → keeps e) ∧
      ((∀ e ∈ s.transfersOn s.myClusters, e.2.2.burst = none) →
        (∀ c, ∀ e ∈ (s.cluster c).tlb, e.part ≠ p ∨ keeps e → e ∈ (t.cluster c).tlb) ∧
        (∀ k l, tget s.dieTlb k = some l → ∀ e ∈ l, e.part ≠ p ∨ keeps e →
          ∃ m, tget t.dieTlb k = some m ∧ e ∈ m)))

/-- R23 and R101: in mode P on a vector hart, with a the mask of working lane groups in force, `lanemap` gives `lmap` that
mask and four lanes a group, clears the high-water marks and `vl` and sets `vbad`; scalar and mask registers, and results pending
for them, are as they were. Any other a traps ILLEGAL with the instruction word. -/
def Obligations.LanemapResults : Prop :=
  ∀ (s : State) (w : BitVec 3) (a : Reg), Clear s [.a a] → s.me.priv = true → s.cur % 16 ≠ 8 →
    (s.seen.me.getA a ≠ s.maskInForce.setWidth 64 → MayTrap s → ∃ t, exec (.lanemap w a) s = .next t ∧
      Trapped s t .illegal (s.word.setWidth 64) s.me.pc) ∧
    (s.seen.me.getA a = s.maskInForce.setWidth 64 →
    ∃ t, exec (.lanemap w a) s = .next t ∧ Completed s t w s.after ∧
      (∀ k, k < 16 → t.me.lmap.getLsbD k = s.maskInForce.getLsbD k) ∧
      t.me.lanes = 4 * ((List.range 16).filter (fun k => s.maskInForce.getLsbD k)).length ∧
      (∀ r : Fin 32, t.me.hwm[r] = 0) ∧ t.me.vl = 0 ∧ t.me.vbad = true ∧
      (∀ r T, s.me.now ≤ T → (t.sees T).getA r = (s.sees T).getA r) ∧
      (∀ r T, s.me.now ≤ T → (t.sees T).getM r = (s.sees T).getM r) ∧ t.mem = s.mem ∧
      ∀ id, id ≠ s.cur → t.hart id = s.hart id)

/-! ### Vector arithmetic -/

/-- R49, R107 to R110: `setvl` on a vector hart grants a length by R49 for the count in a (taken as signed, at most 0 counting
as none) and the type in b, makes the type the hart's, clears the element progress and gives `d` the length; an invalid type
sets `vbad` and grants 0; with a pre-emption request pending the hart stops before it. -/
def Obligations.SetvlResults : Prop :=
  ∀ (s : State) (w : BitVec 3) (d a b : Reg), Clear s [.a a, .a b] → s.cur % 16 ≠ 8 →
    let n := (s.seen.me.getA a).toInt.toNat
    let ty := s.seen.me.getA b
    let bk := blockLen (ty.extractLsb' 4 3).toNat
    let vmax := s.me.vlmax (fmtWidth (ty.extractLsb' 0 4))
    let g := if n = 0 then 0 else if n < bk then bk else min n vmax / bk * bk
    let e := fun (h : Hart) => { h with vtype := 0, vl := 0, live := 0, estart := 0, lgp := Vector.replicate 16 0 }
    (s.me.preempt = false → vtypeBad ty = false → ∃ t, exec (.setvl w d a b) s = .next t ∧
      t.me.vtype = ty ∧ t.me.vl.toNat = g ∧ t.me.live.toNat = min n g ∧ t.me.fresh ∧
      GivesA s t 1 d (BitVec.ofNat 64 g) ∧ SameHart s t { a := [d] } e ∧ OnlyHart s t ∧ Completed s t w s.after) ∧
    (s.me.preempt = false → vtypeBad ty = true → ∃ t, exec (.setvl w d a b) s = .next t ∧
      t.me.vtype = 0x8000000000000000 ∧ t.me.vl = 0 ∧ t.me.live = 0 ∧ t.me.fresh ∧ GivesA s t 1 d 0 ∧ SameHart s t { a := [d] } e ∧ OnlyHart s t ∧ Completed s t w s.after) ∧
    (s.me.preempt = true → ∃ t, exec (.setvl w d a b) s = .next t ∧ t.me.status = .stopped ∧ t.me.stop.spc = s.me.pc ∧
      t.me.stop.why = 1 ∧ t.me.stop.full = false ∧ t.me.pend = [] ∧ t.me.a = s.seen.me.finish.a ∧ t.me.vtype = s.me.vtype ∧
      t.me.vl = s.me.vl ∧ t.me.live = s.me.live ∧ t.mem = s.mem)

/-- R116 and R117: the mask forms complete on both kinds of hart, over `vl` bits, or 4,096 on a control core; from the second
cycle on (latency 2, R29) each active bit of `d` below that is what the rule gives, and no other bit and nothing else
changes. `mpop` counts the active bits of a that are 1, and `mfirst` gives the lowest of them, or all ones. -/
def Obligations.MaskResults : Prop :=
  (∀ (s : State) (w p : BitVec 3) (d a b : MReg) (x r : Reg), Clear s ([.m a, .m b, .a x, .a r] ++ predSrc p) →
     (s.cur % 16 ≠ 8 → s.me.vbad = false) →
     let n := if s.cur % 16 = 8 then 4096 else s.me.vl.toNat
     let A := s.seen.me.getM a
     let B := s.seen.me.getM b
     let X := s.seen.me.getA x
     let R := s.seen.me.getA r
     let act := fun i => decide (i < n) && s.active p i
     let gives := fun (i : Instr) (ok : Nat → Bool) (f : Nat → Bool) => ∃ t, exec i s = .next t ∧
       Registers s t w s.after { m := [d] } ∧ GivesM s t 2 d (fun k => if ok k then some (f k) else none)
     gives (.mand w d a b p) act (fun k => A.getLsbD k && B.getLsbD k) ∧
     gives (.mor w d a b p) act (fun k => A.getLsbD k || B.getLsbD k) ∧
     gives (.mxor w d a b p) act (fun k => A.getLsbD k != B.getLsbD k) ∧
     gives (.mandn w d a b p) act (fun k => A.getLsbD k && !B.getLsbD k) ∧
     gives (.mnot w d a p) act (fun k => !A.getLsbD k) ∧
     (s.ctlBad [0x40] = false → gives (.mget w d p) act (fun k => s.me.smiss.getLsbD k)) ∧
     gives (.mset w d p) act (fun _ => true) ∧
     gives (.mclr w d p) act (fun _ => false) ∧
     (n ≤ 4096 → gives (.mshl w d a r) (fun k => decide (k < n)) (fun k => if k = 0 then R.getLsbD 0 else A.getLsbD (k - 1))) ∧
     (n ≤ 4096 → gives (.mshr w d a r) (fun k => decide (k < n))
       (fun k => if k + 1 = n then R.getLsbD 0 else A.getLsbD (k + 1))) ∧
     (n ≤ 4096 → gives (.mput w d x r) (fun k => decide (k < n ∧ k / 64 = R.toNat % 64)) (fun k => X.getLsbD (k % 64)))) ∧
  (∀ (s : State) (w p : BitVec 3) (d : Reg) (a : MReg), Clear s ([.m a] ++ predSrc p) →
     (s.cur % 16 ≠ 8 → s.me.vbad = false) →
     let n := if s.cur % 16 = 8 then 4096 else s.me.vl.toNat
     let set := fun i => i < n ∧ i < 4096 ∧ s.active p i = true ∧ (s.seen.me.getM a).getLsbD i = true
     (∃ t, exec (.mpop w d a p) s = .next t ∧ Registers s t w s.after { a := [d] } ∧
       GivesA s t 2 d (BitVec.ofNat 64 ((List.range n).filter (fun i => decide (set i))).length)) ∧
     (∀ k, set k → (∀ j, j < k → ¬set j) → ∃ t, exec (.mfirst w d a p) s = .next t ∧
       Registers s t w s.after { a := [d] } ∧ GivesA s t 2 d (BitVec.ofNat 64 k)) ∧
     ((∀ j, ¬set j) → ∃ t, exec (.mfirst w d a p) s = .next t ∧
       Registers s t w s.after { a := [d] } ∧ GivesA s t 2 d (BitVec.allOnes 64)))

/-- R113 and R118: for operand b a vector or a scalar, each VINT form whose result is a vector completes; from the second cycle
on every active element below `vl` that is still to be performed holds the value the rule gives for its W bits, every other
element what it would have held, the element progress is cleared (R27), and nothing else changes but the high-water marks. -/
def Obligations.VectorIntegerResults : Prop :=
  ∀ (s : State) (w p : BitVec 3) (d a : Reg) (b : VOp), atHand b = true → VecReady s → s.me.fmt ≠ 10 →
    Clear s ([.v a, .v d] ++ opSrcs b ++ predSrc p) →
    let W := s.me.width
    let gives := fun (i : Instr) (f : Nat → Nat → Nat → Nat) => ∃ t, exec i s = .next t ∧
      Registers s t w s.after { v := [d] } noMarks ∧ t.me.fresh ∧ GivesV s t 2 d (fun k =>
        if s.takes k && s.active p k then some (f (s.el a k) (s.opEl b k) (s.el d k)) else none)
    gives (.vadd w d a b p) (fun x y _ => (x + y) % 2 ^ W) ∧
    gives (.vsub w d a b p) (fun x y _ => wrapInt W ((x : Int) - y)) ∧
    gives (.vmul w d a b p) (fun x y _ => x * y % 2 ^ W) ∧
    gives (.vmulh w d a b p) (fun x y _ => wrapInt W (sInt W x * sInt W y / 2 ^ W)) ∧
    gives (.vmulhn w d a b p) (fun x y _ => x * y / 2 ^ W) ∧
    gives (.vmacc w d a b p) (fun x y z => (z + x * y) % 2 ^ W) ∧
    gives (.vand w d a b p) (fun x y _ => x &&& y) ∧
    gives (.vor w d a b p) (fun x y _ => x ||| y) ∧
    gives (.vxor w d a b p) (fun x y _ => x ^^^ y) ∧
    gives (.vshl w d a b p) (fun x y _ => x * 2 ^ (y % W) % 2 ^ W) ∧
    gives (.vshr w d a b p) (fun x y _ => x / 2 ^ (y % W)) ∧
    gives (.vsar w d a b p) (fun x y _ => wrapInt W (sInt W x / 2 ^ (y % W))) ∧
    gives (.vmin w d a b p) (fun x y _ => if sInt W x ≤ sInt W y then x else y) ∧
    gives (.vmax w d a b p) (fun x y _ => if sInt W x ≤ sInt W y then y else x) ∧
    gives (.vminn w d a b p) (fun x y _ => min x y) ∧
    gives (.vmaxn w d a b p) (fun x y _ => max x y) ∧
    gives (.vabsd w d a b p) (fun x y _ => (sInt W x - sInt W y).natAbs % 2 ^ W)

/-- R13, R41, R114, R118: `vmov` and `vsel` complete in every format; `vsel` gives an inactive element operand b. The
saturating forms clamp to the signed range of W bits and set SAT where one of their elements has clamped. -/
def Obligations.VectorMoveSaturate : Prop :=
  ∀ (s : State) (w p : BitVec 3) (d a : Reg) (b : VOp), atHand b = true → VecReady s →
    Clear s ([.v a] ++ opSrcs b ++ predSrc p) →
    let W := s.me.width
    let moves := fun (i : Instr) (f : Nat → Option Nat) => ∃ t, exec i s = .next t ∧
      Registers s t w s.after { v := [d] } noMarks ∧ t.me.fresh ∧
      GivesV s t 2 d (fun k => if s.takes k then f k else none)
    let clamps := fun (i : Instr) (f : Int → Int → Int) => ∃ t, exec i s = .next t ∧
      Registers s t w s.after { v := [d] } noMarksFlags ∧ t.me.fresh ∧
      GivesV s t 2 d (fun k => if s.takes k && s.active p k then
        some (wrapInt W (max (-2 ^ (W - 1)) (min (2 ^ (W - 1) - 1) (f (sInt W (s.el a k)) (sInt W (s.opEl b k)))))) else none) ∧
      t.me.fstat = s.me.fstat ||| s.flagged (fun k => if s.active p k = true ∧
        (f (sInt W (s.el a k)) (sInt W (s.opEl b k)) < -2 ^ (W - 1) ∨
          2 ^ (W - 1) ≤ f (sInt W (s.el a k)) (sInt W (s.opEl b k))) then flSAT else 0)
    moves (.vmov w d b p) (fun k => if s.active p k then some (s.opEl b k) else none) ∧
    moves (.vsel w d a b p) (fun k => some (if s.active p k then s.el a k else s.opEl b k)) ∧
    (s.me.fmt ≠ 10 → clamps (.vsadd w d a b p) (fun x y => x + y)) ∧
    (s.me.fmt ≠ 10 → clamps (.vssub w d a b p) (fun x y => x - y))

/-- R113, R118 and R119: each VINT compare, and `vgen`, completes and gives the bits of the elements it takes up; `vadc` and
`vsbc` add and subtract with the carry in m`k` and leave the carry out, or the borrow, in m`k + 8`. -/
def Obligations.VectorCompareCarry : Prop :=
  ∀ (s : State) (w p k : BitVec 3) (d : MReg) (v a : Reg) (b : VOp), atHand b = true → VecReady s → s.me.fmt ≠ 10 →
    Clear s ([.v a] ++ opSrcs b ++ predSrc p) →
    let W := s.me.width
    let gives := fun (i : Instr) (f : Nat → Nat → Prop) => ∃ t, exec i s = .next t ∧
      Registers s t w s.after { m := [d] } noMarks ∧ t.me.fresh ∧ ∃ g : Nat → Bool,
        (∀ j, g j = true ↔ f (s.el a j) (s.opEl b j)) ∧
        GivesM s t 2 d (fun j => if s.takes j && s.active p j then some (g j) else none)
    let carries := fun (i : Instr) (f : Nat → Nat → Nat → Int) (out : Nat → Nat → Nat → Prop) =>
      ∃ t, exec i s = .next t ∧ Registers s t w s.after { v := [v], m := [1#1 ++ k] } noMarks ∧ t.me.fresh ∧
      ∃ (c : Nat → Nat) (g : Nat → Bool), (∀ j, c j = if (s.seen.me.getM (0#1 ++ k)).getLsbD j then 1 else 0) ∧
        (∀ j, g j = true ↔ out (s.el a j) (s.opEl b j) (c j)) ∧
        GivesV s t 2 v (fun j => if s.takes j then some (wrapInt W (f (s.el a j) (s.opEl b j) (c j))) else none) ∧
        GivesM s t 2 (1#1 ++ k) (fun j => if s.takes j then some (g j) else none)
    gives (.vceq w d a b p) (fun x y => x = y) ∧
    gives (.vcne w d a b p) (fun x y => x ≠ y) ∧
    gives (.vclt w d a b p) (fun x y => sInt W x < sInt W y) ∧
    gives (.vcle w d a b p) (fun x y => sInt W x ≤ sInt W y) ∧
    gives (.vcltn w d a b p) (fun x y => x < y) ∧
    gives (.vclen w d a b p) (fun x y => x ≤ y) ∧
    gives (.vgen w d a b p) (fun x y => 2 ^ W ≤ x + y) ∧
    (Clear s ([.v a, .m (0#1 ++ k)] ++ opSrcs b) →
      carries (.vadc w v a b k) (fun x y c => x + y + c) (fun x y c => 2 ^ W ≤ x + y + c) ∧
      carries (.vsbc w v a b k) (fun x y c => x - y - c) (fun x y c => x < y + c))

/-- R112, R113, R118 to R121: with a stream as operand b, every element-wise form of VINT and VFP completes: it pops one element
for each element it takes up, in order and whether or not that element is active, and computes from the popped values what the
form computes; `vmov`, and `vsel` for its inactive elements, give the value popped. -/
def Obligations.StreamOperandResults : Prop :=
  ∀ (s u : State) (w p c : BitVec 3) (d a : Reg) (m : MReg) (r : SReg) (ys : List Nat), VecReady s →
    Clear s ([.v a, .v d, .m (0#1 ++ c)] ++ predSrc p) → Unlogged s → s.me.preempt = false → s.partly = none →
    (s.me.getS r).isOpen = true → (s.me.getS r).core.fmt = s.me.fmt →
    let todo := (List.range s.me.vl.toNat).filter s.me.todo
    OperandSeq (.str r) s.me.width s.seen.me s.seen todo ys u →
    let W := s.me.width
    let K := s.me.fp
    let rm := s.me.rm
    let y := fun k => ys[todo.idxOf k]?.getD 0
    let ends := fun (i : Instr) (ws : Writes) (fl : Nat → BitVec 8) (res : State → Prop) => ∃ t, exec i s = .next t ∧
      Completed s t w s.after ∧ t.me.fresh ∧ t.me.getS r = u.me.getS r ∧ t.mem = s.mem ∧
      SameHart s t { ws with st := [r] } noMarksFlags ∧
      t.me.fstat = s.me.fstat ||| s.flagged (fun k => if s.active p k then fl k else 0) ∧ res t
    let moves := fun (i : Instr) (f : Nat → Option Nat) => ends i { v := [d] } (fun _ => 0) fun t =>
      GivesV s t 2 d (fun k => if s.takes k then f k else none)
    let ints := fun (i : Instr) (f : Nat → Nat → Nat → Nat) =>
      moves i (fun k => if s.active p k then some (f (s.el a k) (y k) (s.el d k)) else none)
    let clamps := fun (i : Instr) (f : Int → Int → Int) =>
      ends i { v := [d] } (fun k => if f (sInt W (s.el a k)) (sInt W (y k)) < -2 ^ (W - 1) ∨
          2 ^ (W - 1) ≤ f (sInt W (s.el a k)) (sInt W (y k)) then flSAT else 0) fun t =>
        GivesV s t 2 d (fun k => if s.takes k && s.active p k then
          some (wrapInt W (max (-2 ^ (W - 1)) (min (2 ^ (W - 1) - 1) (f (sInt W (s.el a k)) (sInt W (y k)))))) else none)
    let compares := fun (i : Instr) (lat : Nat) (f : Nat → Nat → Prop) (fl : Nat → Nat → BitVec 8) =>
      ends i { m := [m] } (fun k => fl (s.el a k) (y k)) fun t => ∃ g : Nat → Bool, (∀ j, g j = true ↔ f (s.el a j) (y j)) ∧
        GivesM s t lat m (fun j => if s.takes j && s.active p j then some (g j) else none)
    let carries := fun (i : Instr) (f : Nat → Nat → Nat → Int) (out : Nat → Nat → Nat → Prop) =>
      ends i { v := [d], m := [1#1 ++ c] } (fun _ => 0) fun t => ∃ (ci : Nat → Nat) (g : Nat → Bool),
        (∀ j, ci j = if (s.seen.me.getM (0#1 ++ c)).getLsbD j then 1 else 0) ∧
        (∀ j, g j = true ↔ out (s.el a j) (y j) (ci j)) ∧
        GivesV s t 2 d (fun j => if s.takes j then some (wrapInt W (f (s.el a j) (y j) (ci j))) else none) ∧
        GivesM s t 2 (1#1 ++ c) (fun j => if s.takes j then some (g j) else none)
    let floats := fun (i : Instr) (lat : Nat) (f : Nat → Nat → Nat → Nat × BitVec 8) =>
      ends i { v := [d] } (fun k => (f (s.el a k) (y k) (s.el d k)).2) fun t =>
        GivesV s t lat d (fun k => if s.takes k && s.active p k then
          some ((f (s.el a k) (y k) (s.el d k)).1 % 2 ^ W) else none)
    moves (.vmov w d (.str r) p) (fun k => if s.active p k then some (y k) else none) ∧
    moves (.vsel w d a (.str r) p) (fun k => some (if s.active p k then s.el a k else y k)) ∧
    (s.me.fmt ≠ 10 →
      ints (.vadd w d a (.str r) p) (fun x y _ => (x + y) % 2 ^ W) ∧
      ints (.vsub w d a (.str r) p) (fun x y _ => wrapInt W ((x : Int) - y)) ∧
      ints (.vmul w d a (.str r) p) (fun x y _ => x * y % 2 ^ W) ∧
      ints (.vmulh w d a (.str r) p) (fun x y _ => wrapInt W (sInt W x * sInt W y / 2 ^ W)) ∧
      ints (.vmulhn w d a (.str r) p) (fun x y _ => x * y / 2 ^ W) ∧
      ints (.vmacc w d a (.str r) p) (fun x y z => (z + x * y) % 2 ^ W) ∧
      ints (.vand w d a (.str r) p) (fun x y _ => x &&& y) ∧
      ints (.vor w d a (.str r) p) (fun x y _ => x ||| y) ∧
      ints (.vxor w d a (.str r) p) (fun x y _ => x ^^^ y) ∧
      ints (.vshl w d a (.str r) p) (fun x y _ => x * 2 ^ (y % W) % 2 ^ W) ∧
      ints (.vshr w d a (.str r) p) (fun x y _ => x / 2 ^ (y % W)) ∧
      ints (.vsar w d a (.str r) p) (fun x y _ => wrapInt W (sInt W x / 2 ^ (y % W))) ∧
      ints (.vmin w d a (.str r) p) (fun x y _ => if sInt W x ≤ sInt W y then x else y) ∧
      ints (.vmax w d a (.str r) p) (fun x y _ => if sInt W x ≤ sInt W y then y else x) ∧
      ints (.vminn w d a (.str r) p) (fun x y _ => min x y) ∧
      ints (.vmaxn w d a (.str r) p) (fun x y _ => max x y) ∧
      ints (.vabsd w d a (.str r) p) (fun x y _ => (sInt W x - sInt W y).natAbs % 2 ^ W) ∧
      clamps (.vsadd w d a (.str r) p) (fun x y => x + y) ∧
      clamps (.vssub w d a (.str r) p) (fun x y => x - y) ∧
      compares (.vceq w m a (.str r) p) 2 (fun x y => x = y) (fun _ _ => 0) ∧
      compares (.vcne w m a (.str r) p) 2 (fun x y => x ≠ y) (fun _ _ => 0) ∧
      compares (.vclt w m a (.str r) p) 2 (fun x y => sInt W x < sInt W y) (fun _ _ => 0) ∧
      compares (.vcle w m a (.str r) p) 2 (fun x y => sInt W x ≤ sInt W y) (fun _ _ => 0) ∧
      compares (.vcltn w m a (.str r) p) 2 (fun x y => x < y) (fun _ _ => 0) ∧
      compares (.vclen w m a (.str r) p) 2 (fun x y => x ≤ y) (fun _ _ => 0) ∧
      compares (.vgen w m a (.str r) p) 2 (fun x y => 2 ^ W ≤ x + y) (fun _ _ => 0) ∧
      carries (.vadc w d a (.str r) c) (fun x y ci => x + y + ci) (fun x y ci => 2 ^ W ≤ x + y + ci) ∧
      carries (.vsbc w d a (.str r) c) (fun x y ci => x - y - ci) (fun x y ci => x < y + ci)) ∧
    (isFloat s.me.fmt = true →
      let nan := fun x y => (K.read x).isNan || (K.read y).isNan
      floats (.vfadd w d a (.str r) p) 4 (fun x y _ => K.add rm (K.read x) (K.read y)) ∧
      floats (.vfsub w d a (.str r) p) 4 (fun x y _ => K.add rm (K.read x) (K.read y).neg) ∧
      floats (.vfmul w d a (.str r) p) 4 (fun x y _ => K.mul rm (K.read x) (K.read y)) ∧
      floats (.vfma w d a (.str r) p) 4 (fun x y z => K.fma rm (K.read x) (K.read y) (K.read z)) ∧
      floats (.vfms w d a (.str r) p) 4 (fun x y z => K.fma rm (K.read x) (K.read y) (K.read z).neg) ∧
      floats (.vfnma w d a (.str r) p) 4 (fun x y z => K.fma rm (K.read x).neg (K.read y) (K.read z)) ∧
      floats (.vfdiv w d a (.str r) p) 12 (fun x y _ => K.div rm (K.read x) (K.read y)) ∧
      floats (.vfsqrt w d (.str r) p) 12 (fun _ y _ => K.sqrt rm (K.read y)) ∧
      floats (.vfmin w d a (.str r) p) 4 (fun x y _ => K.pick Fp.minOf x y) ∧
      floats (.vfmax w d a (.str r) p) 4 (fun x y _ => K.pick Fp.maxOf x y) ∧
      floats (.vfabs w d (.str r) p) 4 (fun _ y _ => K.resign false y y) ∧
      floats (.vfneg w d (.str r) p) 4 (fun _ y _ => K.resign (!(K.read y).sign) y y) ∧
      floats (.vfsgn w d a (.str r) p) 4 (fun x y _ => K.resign (K.read y).sign x y) ∧
      floats (.vfrecp w d (.str r) p) 4 (fun _ y _ => K.recp rm (K.read y)) ∧
      floats (.vfrsqe w d (.str r) p) 4 (fun _ y _ => K.rsqe rm (K.read y)) ∧
      floats (.vfclass w d (.str r) p) 4 (fun _ y _ => (K.classOf y, 0)) ∧
      floats (.vfscal w d a (.str r) p) 4 (fun x y _ => K.scale rm (K.read x) (sInt W y)) ∧
      compares (.vfceq w m a (.str r) p) 4 (fun x y => (!nan x y && Fp.eq (K.read x) (K.read y)) = true)
        (fun x y => nvSig (K.read x) (K.read y)) ∧
      compares (.vfclt w m a (.str r) p) 4 (fun x y => (!nan x y && Fp.lt (K.read x) (K.read y)) = true)
        (fun x y => if nan x y then flNV else 0) ∧
      compares (.vfcle w m a (.str r) p) 4 (fun x y => (!nan x y && !Fp.lt (K.read y) (K.read x)) = true)
        (fun x y => if nan x y then flNV else 0) ∧
      compares (.vfcun w m a (.str r) p) 4 (fun x y => nan x y = true) (fun x y => nvSig (K.read x) (K.read y)))

/-- R37 to R40, R47, R113, R114, R120 to R123: in a floating-point format each VFP form whose result is a vector completes; from
the fourth cycle on (`vfdiv` and `vfsqrt` the twelfth) its active elements hold the rounded result, in the hart's rounding mode
or by the rule of the form, and the flags of those elements are joined to `fstat`; nothing else changes but the marks. -/
def Obligations.VectorFloatResults : Prop :=
  ∀ (s : State) (w p : BitVec 3) (d a : Reg) (b : VOp), atHand b = true → VecReady s → isFloat s.me.fmt = true →
    Clear s ([.v a, .v d] ++ opSrcs b ++ predSrc p) →
    let K := s.me.fp
    let rm := s.me.rm
    let gives := fun (i : Instr) (lat : Nat) (f : Nat → Nat → Nat → Nat × BitVec 8) => ∃ t, exec i s = .next t ∧
      Registers s t w s.after { v := [d] } noMarksFlags ∧ t.me.fresh ∧
      GivesV s t lat d (fun k => if s.takes k && s.active p k then
        some ((f (s.el a k) (s.opEl b k) (s.el d k)).1 % 2 ^ s.me.width) else none) ∧
      t.me.fstat = s.me.fstat |||
        s.flagged (fun k => if s.active p k then (f (s.el a k) (s.opEl b k) (s.el d k)).2 else 0)
    gives (.vfadd w d a b p) 4 (fun x y _ => K.add rm (K.read x) (K.read y)) ∧
    gives (.vfsub w d a b p) 4 (fun x y _ => K.add rm (K.read x) (K.read y).neg) ∧
    gives (.vfmul w d a b p) 4 (fun x y _ => K.mul rm (K.read x) (K.read y)) ∧
    gives (.vfma w d a b p) 4 (fun x y z => K.fma rm (K.read x) (K.read y) (K.read z)) ∧
    gives (.vfms w d a b p) 4 (fun x y z => K.fma rm (K.read x) (K.read y) (K.read z).neg) ∧
    gives (.vfnma w d a b p) 4 (fun x y z => K.fma rm (K.read x).neg (K.read y) (K.read z)) ∧
    gives (.vfdiv w d a b p) 12 (fun x y _ => K.div rm (K.read x) (K.read y)) ∧
    gives (.vfsqrt w d b p) 12 (fun _ y _ => K.sqrt rm (K.read y)) ∧
    gives (.vfmin w d a b p) 4 (fun x y _ => K.pick Fp.minOf x y) ∧
    gives (.vfmax w d a b p) 4 (fun x y _ => K.pick Fp.maxOf x y) ∧
    gives (.vfabs w d b p) 4 (fun _ y _ => K.resign false y y) ∧
    gives (.vfneg w d b p) 4 (fun _ y _ => K.resign (!(K.read y).sign) y y) ∧
    gives (.vfsgn w d a b p) 4 (fun x y _ => K.resign (K.read y).sign x y) ∧
    gives (.vfrecp w d b p) 4 (fun _ y _ => K.recp rm (K.read y)) ∧
    gives (.vfrsqe w d b p) 4 (fun _ y _ => K.rsqe rm (K.read y)) ∧
    gives (.vfclass w d b p) 4 (fun _ y _ => (K.classOf y, 0)) ∧
    (∀ n : Reg, b = .sca n → gives (.vfscal w d a b p) 4 (fun x _ _ => K.scale rm (K.read x) (s.seen.me.getA n).toInt)) ∧
    (∀ n : Reg, b = .vec n → gives (.vfscal w d a b p) 4 (fun x y _ => K.scale rm (K.read x) (sInt s.me.width y)))

/-- R121: the floating-point compares complete and give the bits of their active elements; a NaN operand makes `vfclt` and
`vfcle` give 0 and set NV, `vfceq` give 0, and `vfcun` give 1. -/
def Obligations.VectorFloatCompares : Prop :=
  ∀ (s : State) (w p : BitVec 3) (d : MReg) (a : Reg) (b : VOp), atHand b = true → VecReady s → isFloat s.me.fmt = true →
    Clear s ([.v a] ++ opSrcs b ++ predSrc p) →
    let x := fun k => s.me.fp.read (s.el a k)
    let y := fun k => s.me.fp.read (s.opEl b k)
    let nan := fun k => (x k).isNan || (y k).isNan
    let gives := fun (i : Instr) (f : Nat → Bool) (fl : Nat → BitVec 8) => ∃ t, exec i s = .next t ∧
      Registers s t w s.after { m := [d] } noMarksFlags ∧ t.me.fresh ∧
      GivesM s t 4 d (fun k => if s.takes k && s.active p k then some (f k) else none) ∧
      t.me.fstat = s.me.fstat ||| s.flagged (fun k => if s.active p k then fl k else 0)
    gives (.vfceq w d a b p) (fun k => !nan k && Fp.eq (x k) (y k)) (fun k => nvSig (x k) (y k)) ∧
    gives (.vfclt w d a b p) (fun k => !nan k && Fp.lt (x k) (y k)) (fun k => if nan k then flNV else 0) ∧
    gives (.vfcle w d a b p) (fun k => !nan k && !Fp.lt (y k) (x k)) (fun k => if nan k then flNV else 0) ∧
    gives (.vfcun w d a b p) nan (fun k => nvSig (x k) (y k))

/-- R125 to R127: the permutes and moves complete; an element that would be taken from at or above `vl` reads as 0. `vxch` takes
the partner at a distance that is a power of two, `vslup` and `vsldn` the element an offset below or above, `vperm` the one that
operand b names, a vector, a scalar or the values that it pops from a stream, one for each element it takes up (R59, R112); `vcmpr`
packs the active elements, `vexpd` spreads elements to the active ones, `vrank` counts the active ones below each; `vins` writes
one element. That a distance, an offset and an index are all 64 bits of their scalar is the model's reading: log entry 43. -/
def Obligations.VectorMoves : Prop :=
  ∀ (s : State) (w p : BitVec 3) (d a r : Reg) (b : VOp), atHand b = true → VecReady s →
    Clear s ([.v a, .a r, .a a] ++ opSrcs b ++ predSrc p) →
    let n := s.me.vl.toNat
    let R := (s.seen.me.getA r).toNat
    let at0 := fun j => if j < n then s.el a j else 0
    let act := (List.range n).filter (s.active p)
    let below := fun j => (act.filter (fun i => decide (i < j))).length
    let gives := fun (i : Instr) (f : Nat → Option Nat) => ∃ t, exec i s = .next t ∧
      Registers s t w s.after { v := [d] } noMarks ∧ t.me.fresh ∧ GivesV s t 2 d f
    let moves := fun (i : Instr) (f : Nat → Option Nat) =>
      gives i (fun k => if s.takes k && s.active p k then f k else none)
    (d ≠ a → n = 0 ∨ (∃ j, R = 2 ^ j ∧ 2 * R ≤ n) → moves (.vxch w d a r p) (fun k => some (at0 (k ^^^ R)))) ∧
    (d ≠ a → moves (.vslup w d a r p) (fun k => if k < R then none else some (at0 (k - R)))) ∧
    (d ≠ a → moves (.vsldn w d a r p) (fun k => some (at0 (k + R)))) ∧
    (d ≠ a → b ≠ .vec d → moves (.vperm w d a b p) (fun k => some (at0 (s.opEl b k)))) ∧
    (∀ (u : State) (q : SReg) (ys : List Nat), d ≠ a → Unlogged s → s.me.preempt = false → s.partly = none →
      (s.me.getS q).isOpen = true → (s.me.getS q).core.fmt = s.me.fmt →
      let todo := (List.range n).filter s.me.todo
      OperandSeq (.str q) s.me.width s.seen.me s.seen todo ys u →
      ∃ t, exec (.vperm w d a (.str q) p) s = .next t ∧ Completed s t w s.after ∧ t.me.fresh ∧ t.me.getS q = u.me.getS q ∧
        t.mem = s.mem ∧ SameHart s t { v := [d], st := [q] } noMarks ∧ GivesV s t 2 d (fun k =>
          if s.takes k && s.active p k then some (at0 (ys[todo.idxOf k]?.getD 0)) else none)) ∧
    (d ≠ a → gives (.vcmpr w d a p) (fun k => (act[k]?).map (s.el a))) ∧
    (d ≠ a → gives (.vexpd w d a p) (fun k => if k ∈ act then some (s.el a (below k)) else none)) ∧
    (s.me.fmt ≠ 10 → gives (.vrank w d p) (fun k => if k < n then some (below k % 2 ^ s.me.width) else none)) ∧
    gives (.vins w d a r) (fun k => if k = R ∧ k < n then some ((s.seen.me.getA a).toNat % 2 ^ s.me.width) else none)

/-- R50, R51, R127, R132: `vext` gives one element, sign-extended in an integer format and 0 at or above `vl`; the integer
reductions combine the active elements below the live length, wrap to W bits and sign-extend; with no such element they give
their identity. The element progress is cleared. That the index of `vext` is all 64 bits of its scalar is the model's reading of
R127 beside R111: log entry 43. -/
def Obligations.VectorToScalar : Prop :=
  ∀ (s : State) (w p : BitVec 3) (d a r : Reg), VecReady s → Clear s ([.v a, .a r] ++ predSrc p) →
    let W := s.me.width
    let n := s.me.vl.toNat
    let R := (s.seen.me.getA r).toNat
    let xs := ((List.range n).filter (fun i => decide (i < s.me.live.toNat) && s.active p i)).map (s.el a)
    let gives := fun (i : Instr) (v : Word) => ∃ t, exec i s = .next t ∧
      Registers s t w s.after { a := [d] } noMarks ∧ t.me.fresh ∧ GivesA s t 1 d v
    let reduces := fun (i : Instr) (z : Int) => gives i (BitVec.ofInt 64 (sInt W (wrapInt W z)))
    (n ≤ R → gives (.vext w d a r) 0) ∧
    (R < n → isFloat s.me.fmt = false → s.me.fmt ≠ 10 → gives (.vext w d a r) (BitVec.ofInt 64 (sInt W (s.el a R)))) ∧
    (R < n → isFloat s.me.fmt = true ∨ s.me.fmt = 10 → gives (.vext w d a r) (BitVec.ofNat 64 (s.el a R))) ∧
    (s.me.fmt ≠ 10 →
      reduces (.vredsum w d a p) (xs.sum : Nat) ∧
      reduces (.vredmin w d a p) (xs.foldl (fun m x => min m (sInt W x)) (2 ^ (W - 1) - 1)) ∧
      reduces (.vredmax w d a p) (xs.foldl (fun m x => max m (sInt W x)) (-2 ^ (W - 1))) ∧
      reduces (.vredand w d a p) (xs.foldl (· &&& ·) (2 ^ W - 1) : Nat) ∧
      reduces (.vredor w d a p) (xs.foldl (· ||| ·) 0 : Nat))

/-- R50 to R54, R112, R133: the floating-point reductions and the dot product complete with the canonical sum, minimum or
maximum of the active live elements in the order that `vtype.la` selects, rounded to the accumulation format, and with its
flags; the element progress is cleared, and nothing else changes. With a stream as operand b `vfdot` pops the elements of all
that it takes before it completes; where the spindle holds a fault on one of them it pops none and traps with that fault, with no
element progress, and its stream stays where it was. -/
def Obligations.FloatReductions : Prop :=
  ∀ (s : State) (w p : BitVec 3) (d a : Reg) (b : VOp), atHand b = true → VecReady s → isFloat s.me.fmt = true →
    Clear s ([.v a] ++ opSrcs b ++ predSrc p) →
    let h := s.seen.me
    let acc := accFmt h
    let live := fun i => decide (i < s.me.vl.toNat) && decide (i < s.me.live.toNat) && s.active p i
    let leaf := fun k => if live k then leafOf h.fp (s.el a k) else Leaf51.none
    let gives := fun (i : Instr) (r : Nat × BitVec 8) => ∃ t, exec i s = .next t ∧
      Registers s t w s.after { a := [d] } noMarksFlags ∧ t.me.fresh ∧ GivesA s t 1 d (BitVec.ofNat 64 r.1) ∧
      t.me.fstat = s.me.fstat ||| r.2
    gives (.vfredsum w d a p) (canonical h (sumNode acc h.rm) (.fin false 0 0) leaf) ∧
    gives (.vfredmin w d a p) (canonical h (extremeNode Fp.minOf) (.inf false) leaf) ∧
    gives (.vfredmax w d a p) (canonical h (extremeNode Fp.maxOf) (.inf true) leaf) ∧
    gives (.vfdot w d a b p) (canonical h (sumNode acc h.rm) (.fin false 0 0) (fun k =>
      if live k then
        { val := some (Fp.mul (h.fp.read (s.el a k)) (h.fp.read (s.opEl b k))).1,
          fl := (Fp.mul (h.fp.read (s.el a k)) (h.fp.read (s.opEl b k))).2 }
      else Leaf51.none)) ∧
    ∀ (u : State) (q : SReg) (ys : List Nat), Unlogged s → (s.me.getS q).isOpen = true →
      (s.me.getS q).core.fmt = s.me.fmt →
      (OperandSeq (.str q) s.me.width h s.seen (List.range s.me.vl.toNat) ys u →
        let r := canonical h (sumNode acc h.rm) (.fin false 0 0) (fun k =>
          if live k then
            { val := some (Fp.mul (h.fp.read (s.el a k)) (h.fp.read (ys[k]?.getD 0))).1,
              fl := (Fp.mul (h.fp.read (s.el a k)) (h.fp.read (ys[k]?.getD 0))).2 }
          else Leaf51.none)
        ∃ t, exec (.vfdot w d a (.str q) p) s = .next t ∧ Completed s t w s.after ∧ t.me.fresh ∧
          SameHart s t { a := [d], st := [q] } noMarksFlags ∧ GivesA s t 1 d (BitVec.ofNat 64 r.1) ∧
          t.me.fstat = s.me.fstat ||| r.2 ∧ t.me.getS q = u.me.getS q ∧ t.mem = s.mem) ∧
      (∀ (j : Nat) (c : Cause) (v : Word) (u' : State), j < s.me.vl.toNat → MayTrap s →
        OperandSeq (.str q) s.me.width h s.seen (List.range j) ys u →
        u.operand (.str q) s.me.width j h = .fault c v u' →
        ∃ t, exec (.vfdot w d a (.str q) p) s = .next t ∧ Trapped s t c v s.me.pc ∧ t.me.fresh ∧
          t.me.tstat.getLsbD 1 = false ∧ (t.me.getS q).core = (s.me.getS q).core)

/-- R124, R128 to R131, R134, R135: `vcvt`, `vvacc` and `vrescl` complete. `vcvt` converts element i of its source group, in the
source format's width, to the hart's format; `vvacc` adds an element into d and counts it in d + 1 where its bit in b is 1
(d = 31 traps ILLEGAL); `vrescl` divides by the count of an element, times the scalar, and leaves pad elements alone. Their flags are joined, of
`vvacc` those of its sums and SAT where a count is full. That the scalar of `vrescl` is all 64 bits of its register is the model's
reading: log entry 43. -/
def Obligations.VectorConversions : Prop :=
  ∀ (s : State) (w p : BitVec 3) (d a r : Reg) (b : MReg), VecReady s → s.me.fmt ≠ 10 →
    let W := s.me.width
    let K := s.me.fp
    let gives := fun (i : Instr) (ok : Nat → Bool) (f : Nat → Nat × BitVec 8) => ∃ t, exec i s = .next t ∧
      Registers s t w s.after { v := [d] } noMarksFlags ∧ t.me.fresh ∧
      GivesV s t 4 d (fun k => if s.takes k && s.active p k && ok k then some ((f k).1 % 2 ^ W) else none) ∧
      t.me.fstat = s.me.fstat ||| s.flagged (fun k => if s.active p k && ok k then (f k).2 else 0)
    let src : BitVec 4 := r.setWidth 4
    let vm := s.me.vlmax (fmtWidth src)
    (Clear s ((List.range 32).map (fun k => Dst.v (BitVec.ofNat 5 k)) ++ predSrc p) → cvtBad s.me d a r = false →
      gives (.vcvt w d a r p) (fun _ => true) (fun k =>
        convert src s.me.fmt s.me.rm (s.seen.me.elem (a + BitVec.ofNat 5 (k / vm)) (fmtWidth src) (k % vm)))) ∧
    (Clear s ([.v d, .v a, .a r] ++ predSrc p) → isFloat s.me.fmt = true →
      gives (.vrescl w d a r p) (fun k => decide (k < s.me.live.toNat)) (fun k =>
        rescale K s.me.rm (s.el d k) (s.seen.me.getA r).toNat (s.el a k))) ∧
    (Clear s ([.v d, .v (d + 1), .v a, .m b] ++ predSrc p) → d = 31 → MayTrap s →
      ∃ t, exec (.vvacc w d a b p) s = .next t ∧ Trapped s t .illegal (s.word.setWidth 64) s.me.pc) ∧
    (Clear s ([.v d, .v (d + 1), .v a, .m b] ++ predSrc p) → d ≠ 31 →
      let counted := fun k => s.takes k && s.active p k && (s.seen.me.getM b).getLsbD k
      ∃ t, exec (.vvacc w d a b p) s = .next t ∧ Registers s t w s.after { v := [d, d + 1] } noMarksFlags ∧ t.me.fresh ∧
        GivesV s t 4 d (fun k => if counted k then
          some (if isFloat s.me.fmt then (K.add s.me.rm (K.read (s.el d k)) (K.read (s.el a k))).1 % 2 ^ W
            else (s.el d k + s.el a k) % 2 ^ W) else none) ∧
        GivesV s t 4 (d + 1) (fun k => if counted k then some (min (2 ^ W - 1) (s.el (d + 1) k + 1)) else none) ∧
        t.me.fstat = s.me.fstat ||| s.flagged (fun k => if s.active p k && (s.seen.me.getM b).getLsbD k then
          (if isFloat s.me.fmt then (K.add s.me.rm (K.read (s.el d k)) (K.read (s.el a k))).2 else 0) |||
            (if s.el (d + 1) k + 1 = 2 ^ W then flSAT else 0) else 0))

/-! ### Memory -/

/-- R36, R90, R91, R182: a scalar load of 1, 2, 4 or 8 bytes at an aligned address completes when the address translates: `d`
takes the bytes there zero-extended, read after the earlier stores of the class and the earlier posted parts to its word, and
with none of those in flight memory is unchanged; a failing translation traps with its cause and the address, an uncorrectable
error with ECC-FATAL, and a misaligned address traps MISALIGN. With `queued` set the load waits in its class queue, after the
posted parts to its word, and `d` takes the bytes when it performs (R184): the model's form of that, log entry 7. -/
def Obligations.ScalarLoads : Prop :=
  ∀ (s : State) (w : BitVec 3) (d a b : Reg) (c : BitVec 4), Clear s [.a a, .a b] → Unlogged s → Landed s →
    let va := s.seen.me.getA a + s.seen.me.getA b
    let who := s.seen.who s.cur
    let all : Place := { dst := .a d, pos := 0, w := 64, sh := 0, copy := none }
    ∀ e ∈ [(Instr.ldB w d a b c, 1), (Instr.ldH w d a b c, 2), (Instr.ldW w d a b c, 4), (Instr.ldD w d a b c, 8)],
      (va.toNat % e.2 = 0 → s.queued = false → ∀ key r, s.seen.xlate who .load .other va = .ok key r → r.badAt key = false →
        ∃ t, exec e.1 s = .next t ∧ Accessed s t w { a := [d] } ∧ t.mem = (r.orderBefore c key).mem ∧
          GivesA s t 1 d (BitVec.ofNat 64 (t.mem.readLE key e.2)) ∧
          (s.me.queue = [] → s.me.posted = [] → t.mem = s.mem)) ∧
      (va.toNat % e.2 = 0 → s.queued = true → ∀ key r, s.seen.xlate who .load .other va = .ok key r → r.badAt key = false →
        let u := r.drainPosted s.cur (fun p => p.cls == c && key / 8 == p.key / 8)
        ∃ t, exec e.1 s = .next t ∧ Accessed s t w {} ∧ t.mem = u.mem ∧ t.me.posted = u.me.posted ∧
          (s.me.posted = [] → t.mem = s.mem) ∧
          t.me.queue = s.me.queue ++
            [{ cls := c, grp := s.me.now, cells := [], load := some { va := va, key := key, n := e.2, use := .place all } }]) ∧
      (va.toNat % e.2 = 0 → MayTrap s → ∀ key r u, s.seen.xlate who .load .other va = .ok key r →
        r.loadHome c key e.2 = .trap .eccFatal u → ∃ t, exec e.1 s = .next t ∧ Trapped s t .eccFatal va s.me.pc) ∧
      (va.toNat % e.2 = 0 → MayTrap s → ∀ x r, s.seen.xlate who .load .other va = .trap x r →
        ∃ t, exec e.1 s = .next t ∧ Trapped s t x va s.me.pc) ∧
      (va.toNat % e.2 ≠ 0 → MayTrap s → ∃ t, exec e.1 s = .next t ∧ Trapped s t .misalign va s.me.pc ∧
        TrapFrame s.seen t)

/-- R36, R90, R91, R182: a scalar store of 1, 2, 4 or 8 bytes at an aligned address completes when the address translates: the
low bytes of `d` are stored there, at once or through the class queue (one entry for each word), after the earlier posted parts of the class to that word;
no other byte of memory and no register differs; a failing translation traps with its cause and the address, and a misaligned
address traps MISALIGN. -/
def Obligations.ScalarStores : Prop :=
  ∀ (s : State) (w : BitVec 3) (d a b : Reg) (c : BitVec 4), Clear s [.a a, .a b, .a d] → Unlogged s →
    let va := s.seen.me.getA a + s.seen.me.getA b
    let who := s.seen.who s.cur
    let x := (s.seen.me.getA d).toNat
    ∀ e ∈ [(Instr.stB w d a b c, 1), (Instr.stH w d a b c, 2), (Instr.stW w d a b c, 4), (Instr.stD w d a b c, 8)],
      (va.toNat % e.2 = 0 → ∀ key r, s.seen.xlate who .store .other va = .ok key r →
        let u := r.drainPosted s.cur (fun p => p.cls == c && p.key / 8 == key / 8)
        ∃ t, exec e.1 s = .next t ∧ Accessed s t w {} ∧ Stored u t c (cellsOf key e.2 x) ∧
          (s.queued = false → t.mem.readLE key e.2 = x % 256 ^ e.2) ∧
          (s.me.posted = [] → ∀ k, k < key ∨ key + e.2 ≤ k → t.mem.read k = s.mem.read k)) ∧
      (va.toNat % e.2 = 0 → MayTrap s → ∀ x r, s.seen.xlate who .store .other va = .trap x r →
        ∃ t, exec e.1 s = .next t ∧ Trapped s t x va s.me.pc) ∧
      (va.toNat % e.2 ≠ 0 → MayTrap s → ∃ t, exec e.1 s = .next t ∧ Trapped s t .misalign va s.me.pc ∧
        TrapFrame s.seen t)

/-- R154 and R155: a one-word atomic at an aligned address completes when the address translates. Where the word's home scope is
wider than the scope of the form, nothing is performed, `smiss` is 1 and `d` is unchanged; else the word takes the combination of
what it held with b (`cas`: with b where it equals `d`), `d` takes what it held, and `smiss` is 0. Only that word of memory
differs. A misaligned address traps MISALIGN. With `queued` set the atomic waits in its class queue, and performs on its word later
(R184): the model's form of that, log entry 7. -/
def Obligations.AtomicResults : Prop :=
  ∀ (s : State) (w : BitVec 3) (d a b : Reg) (c : BitVec 4), Clear s [.a a, .a b, .a d] → Unlogged s → Landed s →
    let va := s.seen.me.getA a
    let y := (s.seen.me.getA b).toNat
    let z := (s.seen.me.getA d).toNat
    let all : Place := { dst := .a d, pos := 0, w := 64, sh := 0, copy := none }
    let late := fun (key : Nat) (op : AmoOp) =>
      ({ va := va, key := key, n := 8, use := .rmw op 4 s.me.rm y z (some all) true } : LateLoad)
    let forms : List ((BitVec 3 → Reg → Reg → Reg → BitVec 4 → Instr) × AmoOp × Nat) :=
      [(.amoAddCl, .add, 0), (.amoAddSl, .add, 1), (.amoAddSt, .add, 2), (.amoAddMo, .add, 3), (.amoAddPo, .add, 4),
       (.amoAddSy, .add, 5), (.amoFaddCl, .fadd, 0), (.amoFaddSl, .fadd, 1), (.amoFaddSt, .fadd, 2),
       (.amoFaddMo, .fadd, 3), (.amoFaddPo, .fadd, 4), (.amoFaddSy, .fadd, 5), (.amoMinCl, .min, 0), (.amoMinSl, .min, 1),
       (.amoMinSt, .min, 2), (.amoMinMo, .min, 3), (.amoMinPo, .min, 4), (.amoMinSy, .min, 5), (.amoMaxCl, .max, 0),
       (.amoMaxSl, .max, 1), (.amoMaxSt, .max, 2), (.amoMaxMo, .max, 3), (.amoMaxPo, .max, 4), (.amoMaxSy, .max, 5),
       (.amoAndCl, .and, 0), (.amoAndSl, .and, 1), (.amoAndSt, .and, 2), (.amoAndMo, .and, 3), (.amoAndPo, .and, 4),
       (.amoAndSy, .and, 5), (.amoOrCl, .or, 0), (.amoOrSl, .or, 1), (.amoOrSt, .or, 2), (.amoOrMo, .or, 3),
       (.amoOrPo, .or, 4), (.amoOrSy, .or, 5), (.amoSwapCl, .swap, 0), (.amoSwapSl, .swap, 1), (.amoSwapSt, .swap, 2),
       (.amoSwapMo, .swap, 3), (.amoSwapPo, .swap, 4), (.amoSwapSy, .swap, 5), (.amoCasCl, .cas, 0), (.amoCasSl, .cas, 1),
       (.amoCasSt, .cas, 2), (.amoCasMo, .cas, 3), (.amoCasPo, .cas, 4), (.amoCasSy, .cas, 5)]
    ∀ e ∈ forms,
      (va.toNat % 8 = 0 → ∀ key r, s.seen.xlate (s.seen.who s.cur) .atomic .other va = .ok key r →
        (e.2.2 < homeScope (s.cur / 16) key → ∃ t, exec (e.1 w d a b c) s = .next t ∧
          Accessed s t w {} (fun h => { h with smiss := 0 }) ∧ t.me.smiss = 1 ∧ t.mem = s.mem) ∧
        (homeScope (s.cur / 16) key ≤ e.2.2 → s.queued = true → r.badAt key = false →
          let u := r.drainPosted s.cur (fun p => p.cls == c && key / 8 == p.key / 8)
          ∃ t, exec (e.1 w d a b c) s = .next t ∧ Accessed s t w {} (fun h => { noFlight h with smiss := 0 }) ∧
            t.me.smiss = 0 ∧ t.mem = u.mem ∧ t.me.posted = u.me.posted ∧
            t.me.queue = s.me.queue ++ [{ cls := c, grp := s.me.now, cells := [], load := some (late key e.2.1) }]) ∧
        (homeScope (s.cur / 16) key ≤ e.2.2 → s.queued = false → r.badAt key = false →
          let m := (r.orderBefore c key).mem
          let x := m.readLE key 8
          let v : Nat := match e.2.1 with
            | .add => (x + y) % 2 ^ 64
            | .min => if sInt 64 x ≤ sInt 64 y then x else y
            | .max => if sInt 64 x ≤ sInt 64 y then y else x
            | .and => x &&& y
            | .or => x ||| y
            | .swap => y
            | .cas => if x = z then y else x
            | .fadd => (Fmt.f64.add s.me.rm (Fmt.f64.read x) (Fmt.f64.read y)).1
          ∃ t, exec (e.1 w d a b c) s = .next t ∧
            Accessed s t w { a := [d] } (fun h => { noFlight h with smiss := 0, fstat := 0 }) ∧ t.me.smiss = 0 ∧
            (e.2.1 ≠ .fadd → t.me.fstat = s.me.fstat) ∧ GivesA s t 1 d (BitVec.ofNat 64 x) ∧
            t.mem.readLE key 8 = v % 2 ^ 64 ∧ ∀ k, k < key ∨ key + 8 ≤ k → t.mem.read k = m.read k)) ∧
      (va.toNat % 8 ≠ 0 → MayTrap s → ∃ t, exec (e.1 w d a b c) s = .next t ∧ Trapped s t .misalign va s.me.pc)

/-- R17, R26, R72, R156 and R157: an atomic scatter, on a vector hart in a format that its operation accepts, completes when every
active live element that element progress has not passed is performed at its aligned address or misses its scope: of the
elements taken up, the missed ones' bits of `smiss` below `vl` are 1 and the others' 0, the bits of those passed stay, every bit
at and above `vl` is 0, the flags are joined, and the element progress is cleared. An element that is misaligned, or does not
translate, traps with its address: the elements before it stay performed, their bits of `smiss` are written and the others stay,
the progress is at that element, and `tstat` says that the instruction is part-done. `vamo.retry`, with the operation and scope that
register a + 1 names, does the same on the elements whose `smiss` bit is 1; an odd a, or a reserved value of that register, traps
ILLEGAL, and an error in `smiss` ECC-FATAL. With `queued` set the atomics wait in their class queue: log entry 7. -/
def Obligations.ScatterResults : Prop :=
  ∀ (s : State) (w : BitVec 3) (d a b : Reg) (c : BitVec 4), VecReady s → Unlogged s → Landed s → s.me.preempt = false →
    s.partly = none →
    let addr := fun i => s.seen.me.getA a + BitVec.ofInt 64 (sInt s.me.width (s.el b i) * (s.me.width / 8 : Nat))
    let fits := fun i => (addr i).toNat % (s.me.width / 8) = 0
    let missed := fun (ms : List Nat) (i : Nat) => if s.me.todo i then ms.contains i else s.me.smiss.getLsbD i
    let scatters := fun (i : Instr) (op : AmoOp) (scope : Nat) (todo : List Nat) =>
      let seq := AmoSeq c scope op (s.me.width / 8) s.me.fmt none (op == .fadd) addr (s.el d) s.seen
      s.me.fmt ∈ (if op = .fadd then [4, 5] else [2, 3] : List (BitVec 4)) →
      (∀ u ms fl, (∀ i ∈ todo, fits i) → seq todo ms fl u → ∃ t, exec i s = .next t ∧
        Accessed s t w {} (fun h => { noFlight h with smiss := 0, fstat := 0, estart := 0, lgp := Vector.replicate 16 0 }) ∧
        t.mem = u.mem ∧ t.me.queue = u.me.queue ∧ t.me.fresh ∧ t.me.fstat = u.me.fstat ||| fl ∧
        ∀ i, t.me.smiss.getLsbD i = (decide (i < s.me.vl.toNat) && missed ms i)) ∧
      (∀ u r ms fl pre k post y, todo = pre ++ k :: post → (∀ i ∈ pre, fits i) → seq pre ms fl u → MayTrap s →
        (¬fits k ∧ y = .misalign ∧ r = u) ∨
          (fits k ∧ u.amoAt c scope .elem op (s.me.width / 8) s.me.fmt (addr k) (s.el d k) 0 none (op == .fadd) none = .fault y r) →
        ∃ t, exec i s = .next t ∧ Trapped s t y (addr k) s.me.pc ∧ t.me.tstat.getLsbD 1 = true ∧ t.me.estart.toNat = k ∧
          t.me.fstat = r.me.fstat ||| fl ∧ (∀ j, t.me.smiss.getLsbD j = if j < k then missed ms j else s.me.smiss.getLsbD j) ∧
          ∀ key, key < slotKey s.cur ∨ slotKey s.cur + 32 ≤ key → t.mem.read key = r.mem.read key)
    let live := (List.range s.me.vl.toNat).filter (fun i => s.me.todo i && decide (i < s.me.live.toNat))
    let forms : List ((BitVec 3 → Reg → Reg → Reg → BitVec 4 → Instr) × AmoOp × Nat) :=
      [(.vamoAddCl, .add, 0), (.vamoAddSl, .add, 1), (.vamoAddSt, .add, 2), (.vamoAddMo, .add, 3), (.vamoAddPo, .add, 4),
       (.vamoAddSy, .add, 5), (.vamoFaddCl, .fadd, 0), (.vamoFaddSl, .fadd, 1), (.vamoFaddSt, .fadd, 2),
       (.vamoFaddMo, .fadd, 3), (.vamoFaddPo, .fadd, 4), (.vamoFaddSy, .fadd, 5), (.vamoMinCl, .min, 0),
       (.vamoMinSl, .min, 1), (.vamoMinSt, .min, 2), (.vamoMinMo, .min, 3), (.vamoMinPo, .min, 4), (.vamoMinSy, .min, 5),
       (.vamoMaxCl, .max, 0), (.vamoMaxSl, .max, 1), (.vamoMaxSt, .max, 2), (.vamoMaxMo, .max, 3), (.vamoMaxPo, .max, 4),
       (.vamoMaxSy, .max, 5), (.vamoAndCl, .and, 0), (.vamoAndSl, .and, 1), (.vamoAndSt, .and, 2), (.vamoAndMo, .and, 3),
       (.vamoAndPo, .and, 4), (.vamoAndSy, .and, 5), (.vamoOrCl, .or, 0), (.vamoOrSl, .or, 1), (.vamoOrSt, .or, 2),
       (.vamoOrMo, .or, 3), (.vamoOrPo, .or, 4), (.vamoOrSy, .or, 5)]
    (Clear s [.v d, .a a, .v b] → ∀ e ∈ forms, scatters (e.1 w d a b c) e.2.1 e.2.2 live) ∧
    (Clear s [.v d, .a a, .a (a + 1), .v b] →
      let x := s.seen.me.getA (a + 1)
      (s.ctlBad [0x40] = false → ∀ op scope : Nat, op ≤ 5 → scope ≤ 5 → a.getLsbD 0 = false →
        x = BitVec.ofNat 64 (op + 16 * scope) →
        scatters (.vamoRetry w d a b c) (([.add, .fadd, .min, .max, .and, .or] : List AmoOp)[op]?.getD .add) scope
          (live.filter (fun i => s.me.smiss.getLsbD i))) ∧
      (MayTrap s → a.getLsbD 0 = true ∨ 5 < x.toNat % 8 ∨ 6 ≤ x.toNat / 16 ∨ x.getLsbD 3 = true →
        ∃ t, exec (.vamoRetry w d a b c) s = .next t ∧ Trapped s t .illegal (s.word.setWidth 64) s.me.pc) ∧
      (MayTrap s → s.ctlBad [0x40] = true → ∀ op scope : Nat, op ≤ 5 → scope ≤ 5 → a.getLsbD 0 = false →
        x = BitVec.ofNat 64 (op + 16 * scope) → s.me.fmt ∈ (if op = 1 then [4, 5] else [2, 3] : List (BitVec 4)) →
        ∃ t, exec (.vamoRetry w d a b c) s = .next t ∧ Trapped s t .eccFatal 0 s.me.pc))

/-- R28, R138 to R142: a vector load completes when every active live element below `vl` is aligned and can be loaded, in
ascending order: those elements of `d` take what they loaded, pad elements 0, and no other element differs; the element progress
is cleared. In I4 a `vld` element is a nibble of its byte. A fault at the first element accessed traps with its address; at a later
one it trims `vl` and the live length to that element, and the load completes with the elements below it (fault-only-first).
ECC-FATAL traps at any element. With `queued` set the elements wait in their class queue, each for its place in `d` (R184): the
model's form of that, log entry 7. -/
def Obligations.VectorLoads : Prop :=
  ∀ (s u : State) (w p : BitVec 3) (d a b : Reg) (c : BitVec 4) (x : Nat → Nat), VecReady s → Unlogged s →
    Landed s → s.me.fmt ≠ 10 → Clear s ([.a a, .a b, .v b] ++ predSrc p) →
    let W := s.me.width
    let n := if s.me.fmt = 11 then 1 else W / 8
    let A := s.seen.me.getA a
    let B := s.seen.me.getA b
    let els := (List.range s.me.vl.toNat).filter (fun i => decide (i < s.me.live.toNat) && s.active p i)
    let val := fun k => (if s.me.fmt = 11 then x k / 16 ^ (k % 2) else x k) % 2 ^ W
    let gives := fun k => if s.active p k && !s.queued then some (val k) else none
    let loads := fun (i : Instr) (use : Use) (addr : Nat → Word) =>
      let got := fun (ks : List Nat) =>
        if s.queued then LateSeq c use n s.seen (ks.map (fun k => (addr k, s.seen.me.placeOf d k))) u
        else LoadSeq c use n s.seen (ks.map addr) (ks.map x) u
      ((∀ k ∈ els, (addr k).toNat % n = 0) → got els →
        ∃ t, exec i s = .next t ∧ Accessed s t w { v := [d] } (fun h => noFlight (noMarks h)) ∧ t.mem = u.mem ∧ t.me.fresh ∧
          t.me.queue = u.me.queue ∧
          GivesV s t 1 d (fun k => if k < s.me.vl.toNat then
            (if s.me.live.toNat ≤ k then some 0 else gives k) else none)) ∧
      (∀ pre k post y r, els = pre ++ k :: post → (∀ j ∈ pre, (addr j).toNat % n = 0) → got pre →
        u.loadElem c use s.seen.me (addr k) (s.seen.me.placeOf d k) = .trap y r →
        (pre ≠ [] → y ≠ .eccFatal → ∃ t, exec i s = .next t ∧
          Accessed s t w { v := [d] } (fun h => { noFlight (noMarks h) with vl := 0, live := 0 }) ∧ t.mem = r.mem ∧
          t.me.fresh ∧ t.me.queue = r.me.queue ∧ t.me.vl.toNat = k ∧ t.me.live.toNat = min s.me.live.toNat k ∧
          GivesV s t 1 d (fun j => if j < k then gives j else none)) ∧
        (pre = [] ∨ y = .eccFatal → MayTrap s → ∃ t, exec i s = .next t ∧ Trapped s t y (addr k) s.me.pc))
    loads (.vld w d a b c p) .unit (fun k => A + B + BitVec.ofNat 64 (if s.me.fmt = 11 then k / 2 else k * n)) ∧
    (s.me.fmt ≠ 11 → loads (.vlds w d a b c p) .other (fun k => A + BitVec.ofInt 64 (k * B.toInt))) ∧
    (s.me.fmt ≠ 11 → loads (.vldx w d a b c p) .elem (fun k => A + BitVec.ofInt 64 (sInt W (s.el b k) * n)))

/-- R27, R138, R139, R141, R142: a vector store completes when every active live element below `vl` that is still to be performed
is aligned and translates, in ascending order: the bytes of those elements (of I4 elements their nibbles) are stored in the class,
no other byte differs, and the element progress is cleared. A fault at an element traps with its address, with the elements below it
stored, `tstat` saying that the instruction is part-done, and the element progress at that element. That exactly the elements below
it are stored, where R141 lets lane groups slip past it, is the model's choice: log entry 32. -/
def Obligations.VectorStores : Prop :=
  ∀ (s u : State) (w p : BitVec 3) (d a b : Reg) (c : BitVec 4) (ks : List Nat), VecReady s → Unlogged s →
    s.me.fmt ≠ 10 → s.me.preempt = false → s.partly = none → Clear s ([.v d, .a a, .a b, .v b] ++ predSrc p) →
    let W := s.me.width
    let n := if s.me.fmt = 11 then 1 else W / 8
    let A := s.seen.me.getA a
    let B := s.seen.me.getA b
    let els := (List.range s.me.vl.toNat).filter (fun i => decide (i < s.me.live.toNat) && s.active p i && s.me.todo i)
    let cells := fun (ls : List Nat) => (ls.zip ks).flatMap (fun e =>
      if s.me.fmt = 11 then [(e.2, BitVec.ofNat 8 (s.el d e.1 * 16 ^ (e.1 % 2)), BitVec.ofNat 8 (15 * 16 ^ (e.1 % 2)))]
      else cellsOf e.2 n (s.el d e.1))
    let stores := fun (i : Instr) (use : Use) (addr : Nat → Word) =>
      (KeySeq c use n s.seen (els.map addr) ks u →
        ∃ t, exec i s = .next t ∧ Accessed s t w {} (fun h => noFlight (noMarks h)) ∧ Stored u t c (cells els) ∧ t.me.fresh) ∧
      (∀ pre k post y r, els = pre ++ k :: post → KeySeq c use n s.seen (pre.map addr) ks u →
        u.storeElem c use n (addr k) = .trap y r → MayTrap s → ∃ t, exec i s = .next t ∧ Trapped s t y (addr k) s.me.pc ∧
          t.me.tstat.getLsbD 1 = true ∧ t.me.estart.toNat = k ∧
          (s.queued = false → ∀ a, a < slotKey s.cur ∨ slotKey s.cur + 32 ≤ a →
            t.mem.read a = (r.mem.putCells (cells pre)).read a) ∧
          (s.queued = true → t.me.queue = r.me.queue ++ entriesOf c s.me.now (cells pre)))
    stores (.vst w d a b c p) .unit (fun k => A + B + BitVec.ofNat 64 (if s.me.fmt = 11 then k / 2 else k * n)) ∧
    (s.me.fmt ≠ 11 → stores (.vsts w d a b c p) .other (fun k => A + BitVec.ofInt 64 (k * B.toInt))) ∧
    (s.me.fmt ≠ 11 → stores (.vstx w d a b c p) .elem (fun k => A + BitVec.ofInt 64 (sInt W (s.el b k) * n)))

/-- R42 to R44, R144 to R146: the block forms complete, in a block type, when the bytes of every block that holds a live element
can be loaded, or translate. In a floating-point format `vldq` gives every live element its decoded value rounded, and joins the
flags of decoding and rounding; in the working format of Q4X it gives every live element its code and d + 1 the headers; pad
elements take 0, and the progress is cleared. `vstq` stores the encoded blocks, or those that d and d + 1 hold, in the class, and
joins their flags. A fault in a block after the first trims a load to the blocks before it, one in the first traps; that its `tval`
is the address of the block, also where the block's second page faults, is the model's reading: log entry 41. A type without blocks,
and Q4X in `v31`, trap ILLEGAL. With `queued` set the words of a load wait in their class queue: log entry 7. -/
def Obligations.BlockForms : Prop :=
  ∀ (s u : State) (w : BitVec 3) (d a b : Reg) (c : BitVec 4), VecReady s → Unlogged s → Landed s →
    s.me.preempt = false → s.partly = none → s.me.fresh → s.me.live.toNat ≤ s.me.vl.toNat → Clear s [.v d, .v (d + 1), .a a, .a b] →
    let B := blockLen s.me.blen
    let size := 2 + B / 2
    let base := s.seen.me.getA a + s.seen.me.getA b
    let addr := fun j => base + BitVec.ofNat 64 (j * size)
    let blocks := List.range ((min s.me.live.toNat s.me.vl.toNat + B - 1) / B)
    let bytesOf := fun (js : List Nat) =>
      js.flatMap (fun j => (List.range size).map (fun i => base + BitVec.ofNat 64 (j * size + i)))
    let pads := fun (f : Nat → Nat) (k : Nat) =>
      if k < s.me.vl.toNat then (if s.me.live.toNat ≤ k then some 0 else some (f k)) else none
    (1 ≤ s.me.blen → s.me.blen ≤ 4 → isFloat s.me.fmt = true ∨ (s.me.fmt = 10 ∧ d ≠ 31) → base.toNat % 2 = 0 →
      (∀ xs, s.queued = false → LoadSeq c .unit 1 s.seen (bytesOf blocks) xs u →
        let blk := fun j => Block.ofBytes ((xs.drop (j * size)).take size)
        let val := fun k => s.me.fp.round s.me.rm (fpAt (blk (k / B)).decode.1 (k % B))
        ∃ t, exec (.vldq w d a b c) s = .next t ∧ Completed s t w s.after ∧ OnlyMem s t ∧ t.me.fresh ∧ t.mem = u.mem ∧
          (isFloat s.me.fmt = true → SameHart s t { v := [d] } (fun h => noFlight (noMarksFlags h)) ∧
            GivesV s t 1 d (pads (fun k => (val k).1 % 2 ^ s.me.width)) ∧
            t.me.fstat = s.me.fstat ||| blocks.foldl (fun f j => f ||| (blk j).decode.2) 0 |||
              (List.range s.me.live.toNat).foldl (fun f k => f ||| (val k).2) 0) ∧
          (s.me.fmt = 10 → SameHart s t { v := [d, d + 1] } (fun h => noFlight (noMarks h)) ∧
            GivesV s t 1 d (pads (fun k => (blk (k / B)).code (k % B) % 16)) ∧
            ∀ T j, s.me.now < T → j ∈ blocks → (t.sees T).elem (d + 1) 16 j = (blk j).header.toNat)) ∧
      (s.queued = true → LateBlocks c s.seen.me addr d s.seen blocks u →
        ∃ t, exec (.vldq w d a b c) s = .next t ∧ Completed s t w s.after ∧ OnlyMem s t ∧ t.me.fresh ∧ t.mem = u.mem ∧
          SameHart s t { v := if s.me.fmt = 10 then [d, d + 1] else [d] } (fun h => noFlight (noMarks h)) ∧
          t.me.queue = u.me.queue ∧ t.me.gathers = u.me.gathers ∧
          GivesV s t 1 d (fun k => if k < s.me.vl.toNat ∧ s.me.live.toNat ≤ k then some 0 else none)) ∧
      (∀ j xs y r, j ∈ blocks → (if s.queued then LateBlocks c s.seen.me addr d s.seen (List.range j) u
          else LoadSeq c .unit 1 s.seen (bytesOf (List.range j)) xs u) →
        u.loadBlock c s.seen.me (addr j) d j = .trap y r →
        (j ≠ 0 → y ≠ .eccFatal → ∃ t, exec (.vldq w d a b c) s = .next t ∧ Completed s t w s.after ∧ t.mem = r.mem ∧
          t.me.fresh ∧ t.me.queue = r.me.queue ∧ t.me.vl.toNat = j * B ∧ t.me.live.toNat = min s.me.live.toNat (j * B)) ∧
        (j = 0 ∨ y = .eccFatal → MayTrap s → ∃ t, exec (.vldq w d a b c) s = .next t ∧ Trapped s t y (addr j) s.me.pc)) ∧
      (∀ ks, KeySeq c .unit 1 s.seen (bytesOf blocks) ks u →
        ∃ t, exec (.vstq w d a b c) s = .next t ∧ Completed s t w s.after ∧ OnlyMem s t ∧ t.me.fresh ∧
          SameHart s t {} (fun h => noFlight (noMarksFlags h)) ∧
          t.me.fstat = s.me.fstat ||| blocks.foldl (fun f j => f ||| (blockOf d s.seen.me j).2) 0 ∧
          Stored u t c ((ks.zip (blocks.flatMap (fun j => (blockOf d s.seen.me j).1.toBytes))).map
            (fun e => (e.1, BitVec.ofNat 8 e.2, 0xFF#8))))) ∧
    (s.me.blen = 0 ∨ (s.me.fmt = 10 ∧ d = 31) → MayTrap s →
      (∃ t, exec (.vldq w d a b c) s = .next t ∧ Trapped s t .illegal (s.word.setWidth 64) s.me.pc) ∧
      (∃ t, exec (.vstq w d a b c) s = .next t ∧ Trapped s t .illegal (s.word.setWidth 64) s.me.pc))

/-! ### Every-bank accesses -/

/-- R147 to R149 and R152: a scalar every-bank load, with nothing done before, of a valid set and an aligned offset within it,
completes when every bank can be loaded in ascending order: `d` takes their combination from left to right, and `bdone` and the
element progress are cleared. Executed again with banks marked in `bdone` it goes on from `d` over the others. Where a bank is not
permitted it traps EBANK-PARTIAL with its address and all banks done so far in `bdone`, and `d` holds their combination. Where
`queued` is set, every bank left is permitted and none carries an error, its banks wait in their class queue and `d` is still to
come (R184): the model's form of that, log entry 7. -/
def Obligations.EveryBankLoads : Prop :=
  ∀ (s r u : State) (w : BitVec 3) (d a b : Reg) (c : BitVec 4) (bs : BankSet) (x : Nat) (xs : List Nat),
    Clear s [.a a, .a b, .a d] → Unlogged s → Landed s →
    let e := s.seen.me.getA a + s.seen.me.getA b
    let off := (e.extractLsb' 0 52).toNat
    s.seen.readSet (e.extractLsb' 52 12) = .ok bs r → bs.bases.length ≤ 64 → off % 8 = 0 → off + 8 ≤ bs.size →
    let parts := bs.bases.zipIdx.map (fun b => (b.2, b.1 + BitVec.ofNat 64 off))
    let left := parts.filter (fun p => !s.me.bdone.getLsbD p.1)
    let b0 : Banks :=
      { acc := if s.me.bdone = 0 then none else some (s.seen.me.getA d).toNat, done := s.me.bdone, fl := 0, miss := false }
    let all : Place := { dst := .a d, pos := 0, w := 64, sh := 0, copy := none }
    let loads := fun (i : Instr) (op : CombOp) (f : Nat → Nat → Nat) =>
      let late := r.lateBanks c .other 8 op 4 parts b0 all
      (late = some u → ∃ t, exec i s = .next t ∧ Completed s t w s.after ∧ SameHart s t {} noBanks ∧ OnlyMem s t ∧
        t.mem = u.mem ∧ t.me.queue = u.me.queue ∧ t.me.gathers = u.me.gathers ∧ t.me.bdone = 0 ∧ t.me.fresh) ∧
      (late = none → s.me.bdone = 0 → LoadSeq c .other 8 r (bs.bases.map (fun v => v + BitVec.ofNat 64 off)) (x :: xs) u →
        ∃ t, exec i s = .next t ∧ Completed s t w s.after ∧
          SameHart s t { a := [d] } (fun h => { noBanks h with fstat := 0 }) ∧ OnlyMem s t ∧ t.mem = u.mem ∧
          t.me.bdone = 0 ∧ t.me.fresh ∧ GivesA s t 1 d (BitVec.ofNat 64 (xs.foldl f x))) ∧
      (∀ ks, late = none → s.me.bdone ≠ 0 → BankSeq c .other 8 r left xs ks u → ks.length = left.length →
        ∃ t, exec i s = .next t ∧ Completed s t w s.after ∧ t.mem = u.mem ∧ t.me.bdone = 0 ∧ t.me.fresh ∧
          GivesA s t 1 d (BitVec.ofNat 64 (xs.foldl f (s.seen.me.getA d).toNat))) ∧
      (∀ ks, late = none → BankSeq c .other 8 r left xs ks u → ks.length < left.length → MayTrap s →
        ∃ t, exec i s = .next t ∧ Trapped s t .ebankPartial e s.me.pc ∧ t.me.tstat.getLsbD 1 = true ∧ t.me.estart = 0 ∧
          (∀ k, k < 64 → t.me.bdone.getLsbD k = (s.me.bdone.getLsbD k || ks.contains k)) ∧
          (s.me.bdone = 0 → d ≠ 0 → ∀ y ys, xs = y :: ys → t.me.getA d = BitVec.ofNat 64 (ys.foldl f y)) ∧
          (s.me.bdone ≠ 0 → d ≠ 0 → t.me.getA d = BitVec.ofNat 64 (xs.foldl f (s.seen.me.getA d).toNat)))
    loads (.ldEAdd w d a b c) .add (fun m y => (m + y) % 2 ^ 64) ∧
    loads (.ldEFadd w d a b c) .fadd (fun m y => (Fmt.f64.add s.me.rm (Fmt.f64.read m) (Fmt.f64.read y)).1) ∧
    loads (.ldEMin w d a b c) .min (fun m y => if sInt 64 m ≤ sInt 64 y then m else y) ∧
    loads (.ldEMax w d a b c) .max (fun m y => if sInt 64 m < sInt 64 y then y else m) ∧
    loads (.ldEMinn w d a b c) .minn (fun m y => min m y) ∧
    loads (.ldEMaxn w d a b c) .maxn (fun m y => max m y) ∧
    loads (.ldEAnd w d a b c) .and (fun m y => m &&& y) ∧
    loads (.ldEOr w d a b c) .or (fun m y => m ||| y) ∧
    loads (.ldEXor w d a b c) .xor (fun m y => m ^^^ y)

/-- R147, R150 to R152, R187: with nothing done before, `st.e` stores `d` in every bank of a valid set, and `amo.e.*` hands one
part for every bank to the fabric, which performs it later; no register differs, and `bdone` and the progress are cleared. Where
a bank is not permitted `st.e` stores in the others and traps EBANK-PARTIAL with its address and those banks in `bdone`; with
`queued` set it stalls until they have performed, one by one: log entry 7. -/
def Obligations.EveryBankWrites : Prop :=
  ∀ (s r u : State) (w : BitVec 3) (d a b : Reg) (c : BitVec 4) (bs : BankSet) (ks : List Nat),
    Clear s [.a a, .a b, .a d] → Unlogged s → s.me.bdone = 0 → s.me.queue = [] → s.me.posted = [] →
    let e := s.seen.me.getA a + s.seen.me.getA b
    let off := (e.extractLsb' 0 52).toNat
    let vas := bs.bases.map (fun v => v + BitVec.ofNat 64 off)
    let x := s.seen.me.getA d
    s.seen.readSet (e.extractLsb' 52 12) = .ok bs r → bs.bases.length ≤ 64 → off % 8 = 0 → off + 8 ≤ bs.size →
    (XlateSeq .store .other r vas ks u → ∃ t, exec (.stE w d a b c) s = .next t ∧ Completed s t w s.after ∧
      SameHart s t {} noBanks ∧ OnlyMem s t ∧ t.me.bdone = 0 ∧ t.me.fresh ∧
      (s.queued = false → t.mem = s.mem.putCells (ks.flatMap (fun k => cellsOf k 8 x.toNat))) ∧
      (s.queued = true → t.mem = s.mem ∧ t.me.queue =
        ks.flatMap (fun k => entriesOf c s.me.now (cellsOf k 8 x.toNat)))) ∧
    (∀ ls, BankKeySeq .store .other r (bs.bases.zipIdx.map (fun b => (b.2, b.1 + BitVec.ofNat 64 off))) ls u →
      ls.length < bs.bases.length →
      let done := fun (t : State) => ∀ k, k < 64 → t.me.bdone.getLsbD k = (ls.map (fun l => l.1)).contains k
      (s.queued = false → MayTrap s → ∃ t, exec (.stE w d a b c) s = .next t ∧ Trapped s t .ebankPartial e s.me.pc ∧
        t.me.tstat.getLsbD 1 = true ∧ t.me.estart = 0 ∧ done t ∧ ∀ j, j < slotKey s.cur ∨ slotKey s.cur + 32 ≤ j →
          t.mem.read j = (s.mem.putCells (ls.flatMap (fun l => cellsOf l.2 8 x.toNat))).read j) ∧
      (s.queued = true → ls ≠ [] → ∃ t, exec (.stE w d a b c) s = .next t ∧ t.me.status = .stalled ∧ t.me.pc = s.me.pc ∧
        done t ∧ t.mem = s.mem ∧ t.me.queue = ls.flatMap (fun l => entriesOf c s.me.now (cellsOf l.2 8 x.toNat)))) ∧
    (XlateSeq .atomic .other r vas ks u →
      ∀ i ∈ [(Instr.amoEAdd w d a b c, AmoOp.add), (Instr.amoEOr w d a b c, .or), (Instr.amoEAnd w d a b c, .and),
        (Instr.amoEMax w d a b c, .max)], ∃ t, exec i.1 s = .next t ∧ Completed s t w s.after ∧
        SameHart s t {} noBanks ∧ OnlyMem s t ∧ t.me.bdone = 0 ∧ t.me.fresh ∧ t.mem = s.mem ∧
        t.me.posted = (ks.zip vas).map (fun p => { cls := c, key := p.1, op := i.2, operand := x, va := p.2 }))

/-- R147 to R150: a vector every-bank form, with nothing done before, of a valid set whose offsets are aligned and within it,
completes when every bank of every live element it takes up can be loaded, or translates, element by element: `vld.e.*` gives
each such element the combination of its banks, and pad elements 0; `vst.e` stores each such element in every bank. Where a bank
of an element is not permitted (R152) the form traps EBANK-PARTIAL with that element's address: `estart` is its number and `bdone`
holds its banks done; `d` holds the combinations of the elements below it and that of its own banks done, and is otherwise as
before; memory holds the elements below it in every bank and its own in the banks done. With `queued` set the banks of a load wait
in their class queue (R184): the model's form of that, log entry 7. -/
def Obligations.EveryBankVectors : Prop :=
  ∀ (s r u : State) (w : BitVec 3) (d a b : Reg) (c : BitVec 4) (bs : BankSet) (x : Nat → List Nat)
    (cells : List (Nat × Byte × Byte)), VecReady s → Clear s [.a a, .a b, .v d] → Unlogged s → Landed s →
    s.me.bdone = 0 → s.me.preempt = false → s.partly = none → s.me.fmt ≠ 10 → s.me.fmt ≠ 11 →
    let W := s.me.width
    let n := W / 8
    let e := s.seen.me.getA a + s.seen.me.getA b
    let off := (e.extractLsb' 0 52).toNat
    let els := (List.range s.me.vl.toNat).filter (fun i => decide (i < s.me.live.toNat) && s.me.todo i)
    let vas := fun i => bs.bases.map (fun v => v + BitVec.ofNat 64 (off + i * n))
    let parts := fun i => (vas i).zipIdx.map (fun b => (b.2, b.1))
    s.seen.readSet (e.extractLsb' 52 12) = .ok bs r → bs.bases ≠ [] → bs.bases.length ≤ 64 →
    (∀ i ∈ els, (off + i * n) % n = 0 ∧ off + i * n + n ≤ bs.size) → (∀ i, (x i).length = bs.bases.length) →
    let combined := fun (f : Nat → Nat → Nat) (xs : List Nat) => xs.tail.foldl f (xs.headD 0) % 2 ^ W
    let ends := fun (i : Instr) (got : State → Prop) => ∃ t, exec i s = .next t ∧ Completed s t w s.after ∧
      SameHart s t { v := [d] } (fun h => { noBanks h with fstat := 0 }) ∧ OnlyMem s t ∧ t.mem = u.mem ∧ t.me.bdone = 0 ∧
      t.me.fresh ∧ t.me.queue = u.me.queue ∧ t.me.gathers = u.me.gathers ∧ got t
    let stops := fun (i : Instr) (k : Nat) (ks : List Nat) (left : State → Prop) => ∃ t, exec i s = .next t ∧
      Trapped s t .ebankPartial (e + BitVec.ofNat 64 (k * n)) s.me.pc ∧ t.me.tstat.getLsbD 1 = true ∧
      t.me.estart.toNat = k ∧ (∀ j, j < 64 → t.me.bdone.getLsbD j = ks.contains j) ∧ left t
    let loads := fun (i : Instr) (op : CombOp) (f : Nat → Nat → Nat) =>
      (s.queued = false → LoadSeq c .other n r (els.flatMap vas) (els.flatMap x) u → ends i fun t =>
        GivesV s t 1 d (fun k => if s.takes k then
          (if s.me.live.toNat ≤ k then some 0 else some (combined f (x k))) else none)) ∧
      (s.queued = true → LateBanks c n op s.me.fmt parts (s.seen.me.placeOf d) r els u → ends i fun t =>
        GivesV s t 1 d (fun k => if s.takes k ∧ s.me.live.toNat ≤ k then some 0 else none)) ∧
      (∀ pre k post xs ks v, els = pre ++ k :: post → s.queued = false → MayTrap s →
        LoadSeq c .other n r (pre.flatMap vas) (pre.flatMap x) u → BankSeq c .other n u (parts k) xs ks v →
        ks.length < bs.bases.length → stops i k ks fun t => ∀ j, j < s.me.vlmax W → t.me.elem d W j =
          if j ∈ pre then combined f (x j) else if j = k ∧ xs ≠ [] then combined f xs else s.seen.me.finish.elem d W j)
    loads (.vldEAdd w d a b c) .add (fun m y => (m + y) % 2 ^ W) ∧
    (isFloat s.me.fmt = true → loads (.vldEFadd w d a b c) .fadd (fun m y =>
      (s.me.fp.add s.me.rm (s.me.fp.read m) (s.me.fp.read y)).1)) ∧
    loads (.vldEMin w d a b c) .min (fun m y => if sInt W m ≤ sInt W y then m else y) ∧
    loads (.vldEMax w d a b c) .max (fun m y => if sInt W m < sInt W y then y else m) ∧
    loads (.vldEMinn w d a b c) .minn (fun m y => min m y) ∧
    loads (.vldEMaxn w d a b c) .maxn (fun m y => max m y) ∧
    loads (.vldEAnd w d a b c) .and (fun m y => m &&& y) ∧
    loads (.vldEOr w d a b c) .or (fun m y => m ||| y) ∧
    loads (.vldEXor w d a b c) .xor (fun m y => m ^^^ y) ∧
    (BankStoreSeq c n r (els.map (fun i => (vas i, s.el d i))) cells u →
      ∃ t, exec (.vstE w d a b c) s = .next t ∧ Completed s t w s.after ∧ SameHart s t {} noBanks ∧ OnlyMem s t ∧
        t.me.bdone = 0 ∧ t.me.fresh ∧ t.mem = u.mem ∧ t.me.queue = u.me.queue ∧
        (s.me.posted = [] → s.me.queue = [] → ∀ k, (∀ cell ∈ cells, cell.1 ≠ k) → t.mem.read k = s.mem.read k)) ∧
    (∀ pre k post ls v, els = pre ++ k :: post → s.queued = false → MayTrap s →
      BankStoreSeq c n r (pre.map (fun i => (vas i, s.el d i))) cells u → BankKeySeq .store .other u (parts k) ls v →
      ls.length < bs.bases.length → stops (.vstE w d a b c) k (ls.map (fun l => l.1)) fun t =>
        s.me.posted = [] → s.me.queue = [] → ∀ j, j < slotKey s.cur ∨ slotKey s.cur + 32 ≤ j →
          t.mem.read j = (s.mem.putCells (cells ++ ls.flatMap (fun l => cellsOf l.2 n (s.el d k)))).read j)

/-! ### Major SPIN -/

/-- R201 to R206, R213, R214 and R220: on a vector hart with a valid type, each form that opens streams completes with the streams
that the rules give, after the class-0 accesses before it: `sp.open` walks a level of a well-formed descriptor, `sp.bind` an array,
`sp.gath` a fibre's coordinates in an array, `sp.isect` and `sp.union` close two fibre streams and open a pair, `sp.rest` opens what a
record says, `cx.drain` the skein, and `sp.close` closes; a stream keeps the mode of its hart and the backings of the regions it sees
(R191, R397). No other register differs. Of `sp.open`, level 0 with a parent other than 0 traps ILLEGAL before anything else (R35); then
a misaligned address traps MISALIGN with it, and a descriptor that fails a check, or lacks the level, ILLEGAL. -/
def Obligations.StreamsOpened : Prop :=
  ∀ (s r u : State) (w : BitVec 3) (d x y : SReg) (a b : Reg) (k : BitVec 3), s.cur % 16 ≠ 8 → s.me.vbad = false →
    Clear s [.a a, .a b] → Unlogged s → Landed s →
    let A := s.seen.me.getA a
    let B := s.seen.me.getA b
    let early := B.toNat / 2 ^ 62 = 0 ∧ B.toNat % 2 ^ 62 ≠ 0
    let o := s.seen.startStream
    let new := s.fresh
    let opens := fun (i : Instr) (k : StreamCore) (m : Memory) => ∃ t, exec i s = .next t ∧
      Accessed s t w { st := [d] } ∧ t.me.getS d = Stream.at k ∧ t.mem = m
    let traps := fun (i : Instr) (c : Cause) (v : Word) => MayTrap s → ∃ t, exec i s = .next t ∧ Trapped s t c v s.me.pc
    let pairs := fun (i : Instr) (ka kb : StreamKind) (pk : BitVec 3) =>
      d.toNat % 2 = 0 → x ≠ y → (s.me.getS x).core.kind = .fibre → (s.me.getS y).core.kind = .fibre →
      let c := { new with ca := (s.me.getS x).core.ca, cb := (s.me.getS y).core.ca, pk := pk }
      ∃ t, exec i s = .next t ∧ Accessed s t w { st := [d, d + 1, x, y] } ∧ t.mem = o.mem ∧
        t.me.getS d = Stream.at { c with kind := ka, fmt := (s.me.getS x).core.fmt } ∧
        t.me.getS (d + 1) = Stream.at { c with kind := kb, fmt := (s.me.getS y).core.fmt } ∧
        ∀ z ∈ [x, y], z ≠ d → z ≠ d + 1 → t.me.getS z = Stream.closed
    (A.toNat % 64 = 0 → ∀ ws, o.loadWords A 20 = .ok ws r →
      (∀ q c, descOf ws = some q → q.cursor A (B.toNat / 2 ^ 62) (B.toNat % 2 ^ 62) = some c →
        ¬early → opens (.spOpen w d a b) { new with kind := .fibre, fmt := q.fmt, ca := c } r.mem) ∧
      ((∀ q, descOf ws = some q → q.cursor A (B.toNat / 2 ^ 62) (B.toNat % 2 ^ 62) = none) →
        traps (.spOpen w d a b) .illegal (s.word.setWidth 64))) ∧
    (early → traps (.spOpen w d a b) .illegal (s.word.setWidth 64)) ∧
    (A.toNat % 64 ≠ 0 → (¬early → traps (.spOpen w d a b) .misalign A) ∧ traps (.spRest w d a) .misalign A) ∧
    (s.me.fmt.toNat < 10 → B.toNat < 2 ^ 32 → A.toNat % (s.me.width / 8) = 0 → opens (.spBind w d a b)
      { new with kind := .bind, fmt := s.me.fmt, ca := { Cursor.idle with vbase := A, endp := B.toNat } } o.mem) ∧
    (s.me.fmt.toNat < 10 → A.toNat % (s.me.width / 8) = 0 → (s.me.getS x).core.kind = .fibre → d ≠ x →
      opens (.spGath w d a x)
        { new with kind := .gather, fmt := s.me.fmt, ca := (s.me.getS x).core.ca, xbase := A } o.mem) ∧
    pairs (.spIsect w d x y) .isectA .isectB 0 ∧
    (k ≠ 0 → pairs (.spUnion w d x y k) .unionA .unionB k) ∧
    (k = 0 → traps (.spUnion w d x y k) .illegal (s.word.setWidth 64)) ∧
    (A.toNat % 64 = 0 → ∀ ws q, o.loadWords A 8 = .ok ws r → restoreStream (s.reader s.cur) ws r = .ok q u →
      opens (.spRest w d a) q u.mem) ∧
    (∃ t, exec (.cxDrain w d) s = .next t ∧ Registers s t w s.after { st := [d] } ∧
      t.me.getS d = Stream.at { new with kind := .drain, fmt := s.myFast.skfmt }) ∧
    (∃ t, exec (.spClose w d) s = .next t ∧ Registers s t w s.after { st := [d] } ∧ t.me.getS d = Stream.closed)

/-- R207, R210 to R213: on an open stream, `sp.skip` leaves it at its first element not below the target; `sp.crd` and `sp.pos` write
the coordinates and positions of the elements to come, all ones beyond the end and 0 in a pad, and of a union the bits that say which
fibre has the element, without moving it; `sp.take` gives the smaller of b and the elements left; `sp.save` stores its record. While
the spindle of a pair has produced nothing and may yet fetch, and accesses perform apart, `sp.take` waits: log entry 7. -/
def Obligations.StreamsRead : Prop :=
  ∀ (s r u : State) (w p : BitVec 3) (d a : Reg) (x : SReg) (es : List (Option StreamElem)), VecReady s →
    Clear s ([.a a] ++ predSrc p) → Unlogged s → s.me.preempt = false → s.partly = none → s.bufferBad s.cur x = false →
    let A := s.seen.me.getA a
    let v := s.me.getS x
    let W := s.me.width
    let looks := fun (i : Instr) (f : StreamElem → Nat) => ∃ t, exec i s = .next t ∧
      SameHart s t { v := [d], m := if v.core.kind.isUnion then [0#1 ++ v.core.pk, 1#1 ++ v.core.pk] else [] } noMarks ∧
      Completed s t w s.after ∧ OnlyMem s t ∧ t.mem = s.mem ∧ t.me.fresh ∧
      GivesV s t 1 d (fun i => if s.takes i && s.active p i then some (if s.me.live.toNat ≤ i then 0 else
        match es[i]? with | some (some e) => f e % 2 ^ W | _ => 2 ^ W - 1) else none) ∧
      (v.core.kind.isUnion = true → ∀ h ∈ [((0#1 : BitVec 1), StreamElem.inA), (1#1, StreamElem.inB)],
        GivesM s t 1 (h.1 ++ v.core.pk) (fun i => if s.takes i && s.active p i then
          some (decide (i < s.me.live.toNat) && match es[i]? with | some (some e) => h.2 e | _ => false) else none))
    (v.isOpen = true → ∀ n v', n < 2 ^ 34 → SkipSeq s.cur (A.toNat % 2 ^ 32) n s.seen v u v' →
      ∃ t, exec (.spSkip w x a) s = .next t ∧ Accessed s t w { st := [x] } noMarks ∧ t.me.getS x = v' ∧ t.mem = s.mem ∧
        t.me.fresh) ∧
    (v.isOpen = true → PeekSeq s.cur s.seen v es u → es.length = min s.me.live.toNat s.me.vl.toNat →
      (W = 32 ∨ W = 64 → looks (.spCrd w d x p) (fun e => e.crd)) ∧
      (W = 64 → looks (.spPos w d x p) (fun e => e.pos.toNat))) ∧
    (v.isOpen = true → (A = 0 → ∃ t, exec (.spTake w d x a) s = .next t ∧ Registers s t w s.after { a := [d] } ∧
        GivesA s t 1 d 0) ∧
      (A ≠ 0 → ∀ n, streamLeft s.cur v s.seen = .ok n u →
        (v.awaits s = false ∨ n = 0 → ∃ t, exec (.spTake w d x a) s = .next t ∧
          Accessed s t w { a := [d] } id ∧ GivesA s t 1 d (BitVec.ofNat 64 (min A.toNat n)) ∧ t.mem = s.mem) ∧
        (v.awaits s = true → 0 < n → ∃ t, exec (.spTake w d x a) s = .next t ∧ t.me.status = .waiting ∧
          t.me.pc = s.me.pc ∧ SameHart s t {} ∧ OnlyMem s t ∧ t.mem = s.mem))) ∧
    (A.toNat % 64 = 0 → ∀ key ws, s.seen.xlate (s.seen.who s.cur) .store .other A = .ok key r →
      recordOf s.cur v.core (r.drainPosted s.cur (fun p => p.cls == 0 && p.key / 64 == key / 64)) = .ok ws u →
      ∃ t, exec (.spSave w x a) s = .next t ∧ Accessed s t w {} ∧ Stored u t 0 (cellsOfWords key ws) ∧ ws.length = 8) ∧
    (v.isOpen = false → MayTrap s → ∀ i ∈ [Instr.spSkip w x a, .spTake w d x a],
      ∃ t, exec i s = .next t ∧ Trapped s t .illegal (s.word.setWidth 64) s.me.pc)

/-- R216 to R219, R222 and R223: with the skein at hand and in the hart's format, and where one turn takes every element (log
entry 6), `cx.acc` adds the active live elements it
takes up to their coordinates, in order, and tells which did not fit; `cx.get` reads the coordinates of the active elements
it takes up and tells which are present; `cx.clr` empties the skein, gives it the hart's format, and ends the drains of its
cluster's harts and no other stream (R221). `vprune` keeps, or makes zero, each active live element it takes up by the next integer
of the generator. -/
def Obligations.SkeinAndPrune : Prop :=
  ∀ (s u : State) (w p : BitVec 3) (d : MReg) (v a n : Reg) (b : VOp) (os : List Nat) (fl : BitVec 8), VecReady s →
    Unlogged s → s.me.preempt = false → s.partly = none → s.skeinOut s.myCluster = false →
    let W := s.me.width
    let todo := (List.range s.me.vl.toNat).filter s.me.todo
    let whole := s.queued = false ∨ todo.length ≤ 1
    let crd := fun i => s.el a i % 2 ^ 32
    let pops : List SReg := match b with | .str r => [r] | _ => []
    let ends := fun (id : Nat) (h : Hart) => if id / 16 = s.myCluster ∧ id % 16 < 9 then h.endDrains else h
    (s.me.fmt = s.myFast.skfmt → whole → (∀ x, b = .str x → (s.me.getS x).isOpen = true ∧ (s.me.getS x).core.fmt = s.me.fmt) →
      Clear s ([.v a] ++ opSrcs b ++ predSrc p) → AccSeq a b (s.active p) s.seen.me s.seen todo os fl u →
      ∃ t, exec (.cxAcc w d a b p) s = .next t ∧ Completed s t w s.after ∧
        SameHart s t { m := [d], st := pops } noMarksFlags ∧
        OnlyCluster s t { s.myFast with skein := u.myFast.skein } s.myQueue ∧ t.mem = s.mem ∧ t.me.fresh ∧
        t.me.fstat = s.me.fstat ||| fl ∧
        GivesM s t 1 d (fun i => if s.takes i && s.active p i then
          some (decide (i < s.me.live.toNat) && os.contains i) else none)) ∧
    (s.me.fmt = s.myFast.skfmt → whole → Clear s ([.v a] ++ predSrc p) →
      (∀ i, s.takes i = true → s.active p i = true → s.sharedBad s.myCluster 3 (crd i) = false) →
      ∃ t, exec (.cxGet w v a d p) s = .next t ∧ Registers s t w s.after { v := [v], m := [d] } noMarks ∧ t.me.fresh ∧
        GivesV s t 1 v (fun i => if s.takes i && s.active p i then
          some (((tget s.myFast.skein (crd i)).getD 0).toNat % 2 ^ W) else none) ∧
        GivesM s t 1 d (fun i => if s.takes i && s.active p i then
          some (tget s.myFast.skein (crd i)).isSome else none)) ∧
    (s.me.fmt ∈ ([2, 3, 4, 5] : List (BitVec 4)) → Clear s [] → ∃ t, exec (.cxClr w) s = .next t ∧
      Completed s t w s.after ∧ SameHart s t { st := (List.range 16).map (BitVec.ofNat 4) } ∧
      OnlyCluster s t { s.myFast with skein := [], skfmt := s.me.fmt } s.myQueue ends ∧ t.mem = s.mem ∧
      (∀ x : SReg, t.me.getS x = (ends s.cur s.me).getS x) ∧
      ∀ (h : Hart) (x : SReg), h.endDrains.getS x = (let k := (h.getS x).core
        { h.getS x with core := if k.kind = .drain then { k with low := max k.low (2 ^ 32) } else k })) ∧
    (s.me.fmt ≠ 10 → s.ctlBad [0x31, 0x32] = false → Clear s ([.v a, .a n] ++ predSrc p) →
      let wants := fun i => s.takes i && s.active p i && decide (i < s.me.live.toNat)
      let g := fun i => rngAfter ((List.range i).filter wants).length (s.me.rng0, s.me.rng1)
      let kept := fun i => pruneElem s.me.fmt ((s.seen.me.getA n).toNat % 2 ^ W) (s.el a i) (rngNext (g i).1 (g i).2).2.2
      ∃ t, exec (.vprune w v a n p) s = .next t ∧
        Registers s t w s.after { v := [v] } (fun h => { noMarksFlags h with rng0 := 0, rng1 := 0 }) ∧ t.me.fresh ∧
        (t.me.rng0, t.me.rng1) = g s.me.vl.toNat ∧
        GivesV s t 4 v (fun i => if s.takes i && s.active p i then
          some (if i < s.me.live.toNat then (kept i).1 % 2 ^ W else s.el a i) else none) ∧
        t.me.fstat = s.me.fstat ||| s.flagged (fun i => if wants i then (kept i).2 else 0))

/-- R247 to R254: with the words of a well-formed descriptor at an aligned address and rules below `nrules` in its row map,
`grm.bind` binds the grammar with no rule valid; `grm.eval` of a range within it evaluates the rules from the element progress on, in
order, in the turn that takes them all (log entry 6), and clears the progress; `grm.out` writes the values of the rows' rules, rounded to the hart's format, and zero beyond the last
row. With no grammar bound the last two trap ILLEGAL. While another hart of the cluster has the engine, each waits (R171). -/
def Obligations.GrammarResults : Prop :=
  ∀ (s r u : State) (w p : BitVec 3) (d a b : Reg) (fl : BitVec 8), s.cur % 16 ≠ 8 → Clear s ([.a a, .a b] ++ predSrc p) →
    Unlogged s → s.me.preempt = false → Landed s →
    let A := s.seen.me.getA a
    let B := s.seen.me.getA b
    (s.engineBusy = true → A.toNat % 64 = 0 → ∃ t, exec (.grmBind w a) s = .next t ∧ t.me.status = .waiting ∧
      t.me.pc = s.me.pc ∧ t.myFast = s.myFast ∧ t.mem = s.mem) ∧
    (s.engineBusy = false →
    (A.toNat % 64 = 0 → ∀ ws g n rows, s.seen.loadWords A 8 = .ok ws r → grammarOf ws = some (g, n) →
      r.loadHalves g.omap n = .ok rows u → (∀ x ∈ rows, x < g.nrules) →
      ∃ t, exec (.grmBind w a) s = .next t ∧ Completed s t w s.after ∧ SameHart s t {} noFlight ∧ t.mem = u.mem ∧
        OnlyCluster s t { s.myFast with gram := some { g with rows := rows }, rvalid := 0 } s.myQueue) ∧
    (∀ g, s.myFast.gram = some g → A.toNat < 2 ^ 32 → A.toNat / 2 ^ 25 % 8 = 0 → B.toNat % 4 = 0 →
      A.toNat % 2 ^ 12 + A.toNat / 2 ^ 12 % 2 ^ 13 ≤ g.nrules →
      let todo := (List.range' (A.toNat % 2 ^ 12) (A.toNat / 2 ^ 12 % 2 ^ 13)).filter (fun ρ => decide (s.me.estart.toNat ≤ ρ))
      let begun := match s.me.engaged with | some (.evaluating _) => true | _ => false
      s.queued = false ∨ todo.length ≤ 1 →
      EvalSeq { id := s.cur, reader := { priv := s.me.priv, views := s.evalViews }, g := g, x := B, nb := A.toNat / 2 ^ 28 + 1,
                rm := s.me.rm, journal := s.journal, begun := begun, floor := s.me.floor } s.seen.startStream todo fl u →
      ∃ t, exec (.grmEval w a b) s = .next t ∧ Completed s t w s.after ∧ t.me.engaged = none ∧
        SameHart s t {} (fun h => { noFlight (noMarksFlags h) with engaged := none }) ∧ OnlyCluster s t u.myFast s.myQueue ∧
        t.mem = s.seen.startStream.mem ∧ t.me.fresh ∧ t.me.fstat = s.me.fstat ||| fl) ∧
    (VecReady s → isFloat s.me.fmt = true → ∀ g, s.myFast.gram = some g → B.toNat < 16 →
      let rule := fun i => if A.toNat + i < g.nrow then g.rows[A.toNat + i]? else none
      let val := fun i => match rule i with
        | some ρ => s.me.fp.round s.me.rm (Fmt.f32.read (laneOf (s.myFast.rvf.toList[ρ]?.getD 0) B.toNat))
        | none => (0, 0)
      (∀ i ρ, i < s.me.vl.toNat → s.active p i = true → rule i = some ρ →
        s.myFast.rvalid.getLsbD ρ = true ∧ s.sharedBad s.myCluster 2 ρ = false) →
      ∃ t, exec (.grmOut w d a b p) s = .next t ∧ Registers s t w s.after { v := [d] } noMarksFlags ∧ t.me.fresh ∧
        GivesV s t 1 d (fun i => if decide (i < s.me.vl.toNat) && s.active p i then some ((val i).1 % 2 ^ s.me.width)
          else none) ∧
        t.me.fstat = s.me.fstat ||| (List.range s.me.vl.toNat).foldl
          (fun f i => if s.active p i then f ||| (val i).2 else f) 0) ∧
    (s.myFast.gram = none → MayTrap s → ∃ t, exec (.grmEval w a b) s = .next t ∧
      Trapped s t .illegal (s.word.setWidth 64) s.me.pc))

/-! ### Major MX -/

/-- R226 to R230, R234, R236, R237, R239, R241, R242, R244, R245: on the control core, with the conditions of its rule met and room
in the loom queue, each MX form completes with the change of claims, configuration, membership, tile modes and queue that the rule
gives, and no other: all but `mx.claim` and `mx.wait` enter the queue, and a cooperative operation calls the members that stand at
theirs. A full queue, a loom at work, or members not there yet, hold it. -/
def Obligations.LoomIssue : Prop :=
  ∀ (s : State) (w k : BitVec 3) (d a : Reg) (z : ZReg) (x y : OReg), s.cur % 16 = 8 → Clear s [.a a, .m (0#1 ++ k)] →
    let A := s.seen.me.getA a
    let f := s.myFast
    let q := s.myQueue
    let changes := fun (i : Instr) (f : Fast) (q : List LoomOp) => ∃ t, exec i s = .next t ∧ Completed s t w s.after ∧
      SameHart s t {} ∧ OnlyCluster s t f q ∧ t.mem = s.mem
    let holds := fun (i : Instr) => ∃ t, exec i s = .next t ∧ t.me.status = .stalled ∧ t.me.pc = s.me.pc ∧
      t.myFast = f ∧ t.myQueue = q ∧ t.mem = s.mem
    let free := unclaimed f.claimed
    let multiplies := fun (i : Instr) (km : Option (BitVec 4096)) => ∀ cw, f.cfg = some cw → mmBad f z x y km = false →
      let c := mxCfgOf cw
      let g := setModes (tileSet z.toNat c.tiles) (if c.int then .integer else .floating) f
      (f.coop = 0 → q.length < 8 → changes i g (q ++ [mmOp z x y cw km none 0])) ∧
      (f.coop ≠ 0 → q.length < 8 →
        let s' := s.setMyFast { f with coopAt := true }
        (s'.coopReady s.myCluster = true → ∃ t, exec i s = .next t ∧ Completed s t w s.after ∧ SameHart s t {} ∧
          t.mem = s.mem ∧ t.myFast = { g with coopAt := false, coopGo := false, seqn := f.seqn + 1 } ∧
          t.myQueue = q ++ [mmOp z x y cw km (some (s.leader s.myCluster)) f.coop] ∧
          ∀ m, m ≠ s.myCluster → t.cluster m = { s.cluster m with fast := { s.fast m with coopGo := (s.fast m).coopGo ||
            (m / 4 == s.myCluster / 4 && f.coop.getLsbD (m % 4) && (s.fast m).coopAt && (s.fast m).seqn == f.seqn) } }) ∧
        (s'.coopReady s.myCluster = false → s.me.preempt = false → ∃ t, exec i s = .next t ∧ t.me.status = .waiting ∧
          t.me.pc = s.me.pc ∧ t.myFast = { f with coopAt := true } ∧ t.myQueue = q)) ∧
      (8 ≤ q.length → holds i)
    (1 ≤ A.toNat → A.toNat ≤ free.length → (∀ o ∈ free.take A.toNat, s.slotBusy s.myCluster o = false) →
      ∃ t, exec (.mxClaim w d a) s = .next t ∧ Completed s t w s.after ∧ SameHart s t { a := [d] } ∧
        OnlyCluster s t { f with claimed := f.claimed ||| slotSet (free.take A.toNat) } q ∧ t.mem = s.mem ∧
        GivesA s t 1 d ((slotSet (free.take A.toNat)).setWidth 64)) ∧
    (A.toNat < 2 ^ 16 → q.length < 8 → changes (.mxRel w a) { f with claimed := f.claimed &&& ~~~(A.setWidth 16) }
      (q ++ [plainOp (.rel (f.claimed &&& A.setWidth 16))])) ∧
    (A.toNat < 16 → q.length < 8 → changes (.mxZero w a) (setModes (A.setWidth 4) .empty f)
      (q ++ [plainOp (.zero (A.setWidth 4))])) ∧
    (mxCfgBad A = false → q.length < 8 → changes (.mxCfg w a) { f with cfg := some A } (q ++ [plainOp .cfg])) ∧
    (coopBad A (s.myCluster % 4) = false → q.length < 8 → changes (.mxCoop w a)
      { f with coop := A.setWidth 4, seqn := 0, coopAt := false, coopGo := false } (q ++ [plainOp .coop])) ∧
    (q = [] → ∃ t, exec (.mxWait w) s = .next t ∧ Registers s t w s.after {}) ∧
    (q ≠ [] → holds (.mxWait w)) ∧
    (cvtIll f A = false → q.length < 8 → changes (.mxCvt w a)
      (setModes (A.setWidth 4) (.converted (A.extractLsb' 4 4)) f)
      (q ++ [plainOp (.cvt (A.setWidth 4) (A.extractLsb' 4 4) s.me.rm f.tmode.toList)])) ∧
    (8 ≤ q.length → (A.toNat < 16 → holds (.mxRel w a) ∧ holds (.mxZero w a)) ∧ (mxCfgBad A = false → holds (.mxCfg w a)) ∧
      (coopBad A (s.myCluster % 4) = false → holds (.mxCoop w a)) ∧ (cvtIll f A = false → holds (.mxCvt w a))) ∧
    multiplies (.mxMm w z x y) none ∧
    multiplies (.mxMms w z x y k) (some (s.seen.me.getM (0#1 ++ k)))

/-- R231 to R233 and R243: on a vector hart `vto` writes a row of a claimed slot that no operation reads, element by element, and no
other bit, in one turn, or while accesses perform apart (log entry 7) in two, between which each 8-byte granule is old or new;
`vfrom` reads a row of a converted tile that no operation queued at its issue changes, each entry old or as one of the operations
queued since leaves it. A slot or tile in use holds them; a `vto` that waits for its slot has made its checks, and writes the slot
also where that is released meanwhile. -/
def Obligations.SlotsAndTiles : Prop :=
  ∀ (s : State) (w p : BitVec 3) (d a b : Reg) (o : OReg) (z : ZReg), VecReady s → Clear s ([.v a, .v (a + 1), .a b] ++ predSrc p) →
    let W := s.me.width
    let row := (s.seen.me.getA b).toNat
    let f := s.myFast
    let loose := fun (h : Hart) => { noMarks h with engaged := none }
    let half := s.me.engaged = some .writing
    let bad := decide (s.me.engaged ≠ some .taking) && vtoBad (s.cluster s.myCluster).claimed s.seen.me o a b p
    let busy := s.slotBusy s.myCluster o.toNat
    let old := f.slots[o.toNat]'(o.isLt)
    let mark := s.readMark s.seen.me z
    let entry := fun (T : Vector (Vector (BitVec 80) 8192) 4) (i : Nat) =>
      (((T.toList[z.toNat]?).bind (fun u => u.toList[64 * row + i]?)).getD 0).toNat % 2 ^ W
    (half ∨ (bad = false ∧ busy = false ∧ s.queued = false) →
      ∃ t x, exec (.vto w o a b p) s = .next t ∧ Completed s t w s.after ∧ SameHart s t {} loose ∧ t.me.engaged = none ∧
        OnlyCluster s t { f with slots := f.slots.set o.toNat x } s.myQueue ∧ t.mem = s.mem ∧
        (s.me.fmt ≠ 10 → ∀ j, j < 262144 → x.getLsbD j =
          let e := (j - 2048 * row) / W
          if decide (2048 * row ≤ j ∧ e < s.me.vl.toNat) && s.active p e then (s.el a e).testBit ((j - 2048 * row) % W)
          else old.getLsbD j) ∧
        (s.me.fmt = 10 → x = vtoSlot s.seen.me (s.actives p) a b old)) ∧
    (¬half → bad = false → busy = false → s.queued = true →
      ∃ t x, exec (.vto w o a b p) s = .next t ∧ t.me.status = .stalled ∧ t.me.pc = s.me.pc ∧ t.me.engaged = some .writing ∧
        t.myFast = { f with slots := f.slots.set o.toNat x } ∧ t.mem = s.mem ∧ ∀ g, g < 4096 →
          x.extractLsb' (64 * g) 64 = old.extractLsb' (64 * g) 64 ∨
          x.extractLsb' (64 * g) 64 = (vtoSlot s.seen.me (s.actives p) a b old).extractLsb' (64 * g) 64) ∧
    (¬half → bad = false → busy = true →
      ∃ t, exec (.vto w o a b p) s = .next t ∧ t.me.status = .stalled ∧ t.me.pc = s.me.pc ∧ t.me.engaged = some .taking ∧
        t.myFast = f) ∧
    ((s.cluster s.myCluster).onTile z.toNat mark.1 = false → mark.2 = .converted s.me.fmt → row < 128 →
      64 * row + s.me.vl.toNat ≤ 8192 → (∀ i, i < s.me.vl.toNat → s.active p i = true →
        s.sharedBad s.myCluster 1 (8192 * z.toNat + 64 * row + i) = false) →
      ∃ (t : State) (g : Nat → Nat), exec (.vfrom w d z b p) s = .next t ∧ Completed s t w s.after ∧ SameHart s t { v := [d] } loose ∧
        t.me.engaged = none ∧ t.mem = s.mem ∧ OnlyCluster s t f s.myQueue ∧
        GivesV s t 1 d (fun i => if decide (i < s.me.vl.toNat) && s.active p i then some (g i) else none) ∧
        (∀ i, i < s.me.vl.toNat → g i = entry f.tiles i ∨ ∃ T ∈ tilesAfter s.myQueue f.tiles, g i = entry T i) ∧
        (s.myQueue.any (fun q => q.started && q.onTile z.toNat) = false → ∀ i, g i = entry f.tiles i)) ∧
    ((s.cluster s.myCluster).onTile z.toNat mark.1 = true → ∃ t, exec (.vfrom w d z b p) s = .next t ∧
      t.me.status = .stalled ∧ t.me.pc = s.me.pc ∧ t.me.engaged = some (.reading mark.1 mark.2))

/-! ### Major ENG -/

/-- R257 to R260, R193: on the control core `fork` starts each hart of its set from its entry of an aligned table, after every
earlier access, and adds them to the open party; on a vector hart `rdv` ends the run once its accesses have performed; on the control
core `rdv` waits for the party, empties it, and with bit 0 of a ends the iteration (R307). -/
def Obligations.ForkAndRendezvous : Prop :=
  ∀ (s r : State) (w : BitVec 3) (a b : Reg), Clear s [.a a, .a b] → Unlogged s → Landed s →
    let A := s.seen.me.getA a
    let B := s.seen.me.getA b
    let f := s.myFast
    (s.cur % 16 = 8 → 1 ≤ B.toNat → B.toNat < 256 → A.toNat % 64 = 0 → f.party &&& B.setWidth 8 = 0 →
      ∀ es, (s.seen.drainHart s.cur).forkEntries A (harts8 (B.setWidth 8)) = .ok es r → (∀ e ∈ es, forkBad e.2 = false) →
      ∃ t, exec (.fork w a b) s = .next t ∧ Completed s t w s.after ∧ SameHart s t {} noFlight ∧ t.mem = r.mem ∧
        t.myFast = { f with party := f.party ||| B.setWidth 8 } ∧
        (∀ e ∈ es, let h := t.hart (16 * s.myCluster + e.1)
          h.status = .running ∧ h.pc = e.2[0]?.getD 0 ∧ h.priv = false ∧ h.tb = false ∧ h.rm = s.me.rm ∧ h.chk = s.me.chk ∧
          h.vl = 0 ∧ h.vbad = true ∧ h.fresh ∧ h.lent = none ∧ h.pend = [] ∧
          ∀ k, k < 4 → h.getA (BitVec.ofNat 5 (k + 1)) = e.2[k + 1]?.getD 0) ∧
        ∀ id, id ≠ s.cur → (∀ e ∈ es, id ≠ 16 * s.myCluster + e.1) → t.hart id = s.hart id) ∧
    (s.cur % 16 ≠ 8 → ∃ t, exec (.rdv w 0) s = .next t ∧ t.me.status = .idle ∧ t.me.pc = s.after ∧
      SameHart s t {} (fun h => { noFlight h with preempt := false, expired := false }) ∧ t.me.queue = [] ∧
      t.me.posted = [] ∧ t.myFast = { f with arrived := f.arrived ||| (1#8 <<< (s.cur % 16)) } ∧
      t.mem = (s.seen.drainHart s.cur).mem ∧ ∀ id, id ≠ s.cur → t.hart id = s.hart id) ∧
    (s.cur % 16 = 8 → A.toNat < 2 → f.party &&& ~~~f.arrived = 0 →
      let g := if f.party = 0 then f else { f with party := 0, arrived := 0 }
      (A = 0 → ∃ t, exec (.rdv w a) s = .next t ∧ Completed s t w s.after ∧ SameHart s t {} ∧
        OnlyCluster s t g s.myQueue ∧ t.mem = s.mem) ∧
      (A = 1 → ∃ t, exec (.rdv w a) s = .next t ∧ t.me.status = .idle ∧ t.me.pc = s.after ∧
        t.myFast = { g with iter := none } ∧ t.mem = s.mem ∧
        ∀ i x, f.iter = some i → s.ctx i.part i.ctx = some x → t.ctx i.part i.ctx = some { x with
          launches := x.launches.map (fun l => if l.num == i.launch then { l with ended := l.ended + 1 } else l) })) ∧
    (s.cur % 16 = 8 → A.toNat < 2 → f.party &&& ~~~f.arrived ≠ 0 → s.me.preempt = false → ∃ t, exec (.rdv w a) s = .next t ∧
      t.me.status = .waiting ∧ t.me.pc = s.me.pc ∧ t.myFast = f ∧ t.mem = s.mem)

/-- R190, R271, R273 to R277: at an aligned barrier word that translates, with no reserved bit set, `bar.init` begins phase 0 with a
count; `bar.arr` takes bytes off the count, and at its end begins the next phase, keeping the excess; both after the hart's queued
accesses, whose word they check (with a reserved bit it is ILLEGAL); `bar.wait` gives the phase once it is not b, and waits till then;
no other byte differs. `pub` swaps a region's backings once no transfer of the hart may write it; memory changes only by what
accesses to the region that harts and transfers of the partition have in hand make of it, which perform first (R191, R273). -/
def Obligations.BarriersAndPublish : Prop :=
  ∀ (s r : State) (w : BitVec 3) (d a b : Reg) (key : Nat), Clear s [.a a, .a b] → Unlogged s → Landed s →
    let A := s.seen.me.getA a
    let B := s.seen.me.getA b
    let u := r.drain s.cur (fun _ => true)
    let sound := fun (x : State) => x.badAt key = false ∧ x.badAt (key + 8) = false
    let m := u.mem
    let apart := fun (t : State) => ∀ k, k < key ∨ key + 16 ≤ k → t.mem.read k = m.read k
    (A.toNat % 16 = 0 → s.seen.xlate (s.seen.who s.cur) .atomic .other A = .ok key r → sound u → 2 ^ 105 ≤ m.readLE key 16 →
      MayTrap s → 1 ≤ B.toNat → B.toNat < 2 ^ 40 → ∀ i ∈ [Instr.barInit w a b, .barArr w a b],
        ∃ t, exec i s = .next t ∧ Trapped s t .illegal (s.word.setWidth 64) s.me.pc) ∧
    (A.toNat % 16 = 0 → s.seen.xlate (s.seen.who s.cur) .atomic .other A = .ok key r → sound u → m.readLE key 16 < 2 ^ 105 →
      B.toNat < 2 ^ 40 →
      (B ≠ 0 → ∃ t, exec (.barInit w a b) s = .next t ∧ Accessed s t w {} ∧ apart t ∧
        BarHas t.mem key B.toNat B.toNat 0 0 false) ∧
      (∀ p e ph x o, BarHas m key p e ph x o → ∃ t, exec (.barArr w a b) s = .next t ∧ Accessed s t w {} ∧ apart t ∧
        (if B = 0 then BarHas t.mem key p e ph x o
          else if B.toNat < p then BarHas t.mem key (p - B.toNat) e ph x o
          else BarHas t.mem key e e ((ph + 1) % 256) (min (x + (B.toNat - p)) 65535) (o || decide (p < B.toNat))))) ∧
    (A.toNat % 16 = 0 → sound r → s.seen.xlate (s.seen.who s.cur) .load .other A = .ok key r → B.toNat < 256 →
      ∀ p e ph x o, BarHas r.mem key p e ph x o →
      (ph ≠ B.toNat → ∃ t, exec (.barWait w d a b) s = .next t ∧ Accessed s t w { a := [d] } id ∧ t.mem = s.mem ∧
        GivesA s t 1 d (BitVec.ofNat 64 (ph + 2 ^ 8 * x + 2 ^ 24 * o.toNat))) ∧
      (ph = B.toNat → s.me.preempt = false → ∃ t, exec (.barWait w d a b) s = .next t ∧ t.me.status = .waiting ∧
        t.me.pc = s.me.pc ∧ t.mem = s.mem)) ∧
    (A.toNat % 16 ≠ 0 → A.toNat < 2 ^ 40 → MayTrap s → ∃ t, exec (.barInit w a a) s = .next t ∧
      Trapped s t .misalign A s.me.pc) ∧
    (A.toNat < 16 → (∃ g ∈ s.myRegions, g.n = A.toNat) →
      (s.pubWaits A.toNat = false → ∃ t, exec (.pub w a) s = .next t ∧ Completed s t w s.after ∧ SameHart s t {} noFlight ∧
        (∀ n p g, s.partOf s.myCluster = some (n, p) → p.regions.find? (fun g => g.n == A.toNat) = some g →
          (∀ e ∈ s.transfersOn p.clusters, e.2.2.burst = none) →
          let q := (hartsOf p.clusters).foldl (fun q id => q.drainAt id (regionTakes g)) s.seen
          t.mem = q.mem ∧ t.me.queue = q.me.queue ∧ (∀ id, id ≠ s.cur → t.hart id = q.hart id) ∧
          ((∀ id ∈ hartsOf p.clusters, (s.hart id).queue = []) → t.mem = s.mem ∧ ∀ id, id ≠ s.cur → t.hart id = s.hart id)) ∧
        t.myRegions = s.myRegions.map (fun g =>
          if g.n = A.toNat then { g with visible := g.shadow, shadow := g.visible } else g) ∧
        (∀ k, k ≠ (s.spaceOf s.myCluster).1 → tget t.parts k = tget s.parts k)) ∧
      (s.pubWaits A.toNat = true → s.me.preempt = false → ∃ t, exec (.pub w a) s = .next t ∧ t.me.status = .waiting ∧
        t.me.pc = s.me.pc ∧ t.parts = s.parts))

/-- R261 to R264, R267, R268, R351 to R355, R360: with a well-formed element or descriptor and room on the channel, each transfer form
gives `d` the channel's next id and adds the transfer, as yet not started; 64 that are not complete hold it. `dma.wait` and
`net.wait` complete when the transfer has, `net.wait` with what became of it; `dma.st` reads the channel; `tick.wait` completes at its
tick with the module time. -/
def Obligations.TransferForms : Prop :=
  ∀ (s r : State) (w : BitVec 3) (d a b : Reg) (ch : BitVec 3), ch.toNat < 6 → Clear s [.a a] → Unlogged s → Landed s →
    let A := s.seen.me.getA a
    let C := s.chan s.myCluster ch.toNat
    let issues := fun (i : Instr) (kind : XferKind) (e : Option Element) (f : Option FabDesc) (m : Memory) =>
      (C.xfers.length < 64 → ∃ t x, exec i s = .next t ∧ Completed s t w s.after ∧ SameHart s t { a := [d] } noFlight ∧
        OnlyCluster s t (issuedOn s ch.toNat x) s.myQueue ∧ t.mem = m ∧ GivesA s t 1 d (C.next.setWidth 64) ∧
        x.id = C.next ∧ x.kind = kind ∧ x.hart = s.cur ∧ x.elem = e ∧ x.desc = f ∧ x.started = false ∧
        x.who = { s.who s.cur with chan := true }) ∧
      (64 ≤ C.xfers.length → s.me.preempt = false → ∃ t, exec i s = .next t ∧ t.me.status = .waiting ∧ t.me.pc = s.me.pc ∧
        t.myFast = s.myFast)
    let traps := fun (i : Instr) (c : Cause) (v : Word) => MayTrap s → ∃ t, exec i s = .next t ∧ Trapped s t c v s.me.pc
    let rs := (s.who s.cur).regions
    let net := fun (i : Instr) (kind : XferKind) => A.toNat % 64 = 0 → ∀ ws, s.seen.loadWords A 8 = .ok ws r →
      (fabDescOf (kind == .mist) ws = none → traps i .illegal (s.word.setWidth 64)) ∧
      (∀ f, fabDescOf (kind == .mist) ws = some f →
        (s.routed f.route = true → issues i kind none (some f) r.mem) ∧ (s.routed f.route = false → traps i .perm A))
    let waits := fun (i : Instr) (x : List Reg) (v : Word) => idBad s ch A = false →
      ((C.find (A.setWidth 32)).isNone → ∃ t, exec i s = .next t ∧ Registers s t w s.after { a := x } ∧
        ∀ r ∈ x, GivesA s t 1 r v) ∧
      ((C.find (A.setWidth 32)).isSome → s.me.preempt = false → ∃ t, exec i s = .next t ∧ t.me.status = .waiting ∧
        t.me.pc = s.me.pc ∧ t.myFast = s.myFast)
    (A.toNat % 32 = 0 → ∀ ws, s.seen.loadWords A 12 = .ok ws r →
      (elementOf A ws = none → traps (.dmaSg w d a ch) .illegal (s.word.setWidth 64)) ∧
      (∀ e, elementOf A ws = some e → (e.fault rs = none → issues (.dmaSg w d a ch) .list (some e) none r.mem) ∧
        (∀ c v, e.fault rs = some (c, v) → traps (.dmaSg w d a ch) c v))) ∧
    (Clear s [.a a, .a (a + 1), .a (a + 2), .v b] → layBad s.seen.me a b = false → ∀ e,
      elementOf 0 (layWords s.seen.me a b) = some e → e.fault rs = none → issues (.dmaLay w d a b ch) .list (some e) none s.mem) ∧
    net (.netSend w d a ch) .send ∧ net (.netMist w d a ch) .mist ∧ net (.netFetch w d a ch) .fetch ∧
    waits (.dmaWait w a ch) [] 0 ∧ waits (.netWait w d a ch) [d] (C.endStatus (A.setWidth 32)) ∧
    (∀ e ∈ [((0 : Word), C.doneId.setWidth 64), (1, C.frec), (2, C.faddr)], A = e.1 → ∃ t, exec (.dmaSt w d a ch) s = .next t ∧
      Registers s t w s.after { a := [d] } ∧ GivesA s t 1 d e.2) ∧
    (A = 3 → ∃ t, exec (.dmaSt w d a ch) s = .next t ∧ Completed s t w s.after ∧ SameHart s t { a := [d] } ∧
      GivesA s t 1 d C.frec ∧ t.chan s.myCluster ch.toNat = { C with frec := 0, faddr := 0 } ∧
      (∀ k, k ≠ ch.toNat → t.chan s.myCluster k = s.chan s.myCluster k) ∧ t.mem = s.mem) ∧
    (A.toNat ≤ 2 ^ 44 → (A.toNat * 1000 ≤ s.mtime → ∃ t, exec (.tickWait w d a) s = .next t ∧
        Registers s t w s.after { a := [d] } ∧ GivesA s t 1 d (BitVec.ofNat 64 s.mtime)) ∧
      (s.mtime < A.toNat * 1000 → s.me.preempt = false → ∃ t, exec (.tickWait w d a) s = .next t ∧ t.me.status = .waiting ∧
        t.me.pc = s.me.pc ∧ t.mem = s.mem))

/-! ### What acts beside the instruction stream -/

/-- R29, R96, R103, R181 to R184, R186, R332 to R334: the steps that act on a hart from outside. A pending asynchronous cause of a
hart that may take it enters the handler; a sleeping `wfe` is woken; a request reaches every live hart of its set, one
that waits stops, and the window counts from the first request; once the window is over, and not before, a hart stops with its
results complete; results reach their registers without a difference to any later instruction. Where nothing before it in its class
has to come first, and its granule is exchanged (R338), a queued store performs, a queued load gives its place, or the block or
combination that it is part of, what it finds, and a queued atomic does what its form does; a posted part with none before it on its
word performs. When such a step comes, and that of several asynchronous causes the first is taken, is the model's choice: log
entries 6, 7 and 42. -/
def Obligations.HartEvents : Prop :=
  ∀ (s : State) (h : Nat),
    let H := s.hart h
    let calm := ∀ q ∈ H.queue, q.load = none
    let plain := ∀ c, s.ctx (s.spaceOf (clusterOf h)).1 (s.spaceOf (clusterOf h)).2 = some c → c.mode = .plain
    (∀ c cs, H.async = c :: cs → H.status = .running ∨ H.status = .waiting → H.tb = false → H.asleep = false → calm →
      s.slotAway h = false → (h % 16 = 8 → s.coopReady (clusterOf h) = false) →
      ∃ t, exec (.trapEntry h) s = .next t ∧ (t.hart h).tcause = c.cause.code.setWidth 64 ∧ (t.hart h).tval = c.tval ∧
        (t.hart h).tpc = H.pc ∧ (t.hart h).tstat.getLsbD 1 = H.midway ∧ (t.hart h).tstat.getLsbD 0 = H.priv ∧
        (t.hart h).pc = H.tvec ∧ (t.hart h).priv = true ∧ (t.hart h).tb = true ∧ (t.hart h).async = cs ∧
        ∀ id, id ≠ h → t.hart id = s.hart id) ∧
    (H.async = [] ∨ H.tb = true → calm → exec (.trapEntry h) s = .next s) ∧
    (H.asleep = true → ∃ t, exec (.wfeWake h) s = .next t ∧ t.hart h = { H with woken := true } ∧
      ∀ id, id ≠ h → t.hart id = s.hart id) ∧
    (∀ hs : List Nat, ∃ t, exec (.preemptionRequest hs) s = .next t ∧ t.mem = s.mem ∧
      (∀ id ∈ hs, (s.hart id).live? = true → (t.hart id).status = .stopped ∨ ((t.hart id).preempt = true ∧
        (t.hart id).asked = if (s.hart id).preempt then (s.hart id).asked else s.mtime)) ∧
      (∀ id ∈ hs, (s.hart id).status = .waiting → id % 16 ≠ 8 → (t.hart id).status = .stopped ∧
        (t.hart id).stop.why = 2 ∧ (t.hart id).stop.spc = (s.hart id).pc ∧ (t.hart id).pend = []) ∧
      ∀ id, id ∉ hs → t.hart id = s.hart id) ∧
    (∀ e ∈ [(Instr.graceWindowExpiry h, 0), (.graceWindowForcedStop h, 1000)], H.preempt = true → calm →
      s.windowEnd h + e.2 ≤ s.mtime → H.status = .running ∨ H.status = .waiting → s.mayStop h = true →
      ∃ t, exec e.1 s = .next t ∧ (t.hart h).status = .stopped ∧ (t.hart h).stop.why = 3 ∧ (t.hart h).stop.spc = H.pc ∧
        (t.hart h).stop.spfx = lentWord H.lent ∧ (t.hart h).stop.mid = H.midway ∧ (t.hart h).stop.full = decide (h % 16 ≠ 8) ∧
        (t.hart h).pend = [] ∧ (t.hart h).a = H.finish.a ∧ (t.hart h).tcause = H.tcause ∧ t.mem = s.mem ∧
        ∀ id, id ≠ h → t.hart id = s.hart id) ∧
    (H.preempt = false ∨ s.mtime < s.windowEnd h →
      exec (.graceWindowExpiry h) s = .next s ∧ exec (.graceWindowForcedStop h) s = .next s) ∧
    (∃ t, exec (.fixedLatencyResult h) s = .next t ∧ (∀ p ∈ (t.hart h).pend, H.now < p.ready) ∧
      (∀ T, H.now ≤ T → (∀ x, ((t.hart h).settle T).getA x = (H.settle T).getA x) ∧
        (∀ x, ((t.hart h).settle T).getV x = (H.settle T).getV x) ∧ ∀ x, ((t.hart h).settle T).getM x = (H.settle T).getM x) ∧
      t.mem = s.mem ∧ ∀ id, id ≠ h → t.hart id = s.hart id) ∧
    (∀ (c : BitVec 4) (k : Nat) (q : Issued),
      let l := H.queue.filter (fun q => q.cls == c)
      let r := { H with queue := H.queue.erase q }
      l[k]? = some q →
      let may := q.free (l.take k) = true ∧ ∀ j ∈ q.keys, s.away j = false
      (¬may → exec (.accessPerformsAtHome h (.queued c k)) s = .next s) ∧
      (may → ∃ t, exec (.accessPerformsAtHome h (.queued c k)) s = .next t ∧ (∀ id, id ≠ h → t.hart id = s.hart id) ∧
        (q.load = none → t.mem = s.mem.putCells q.cells ∧ t.hart h = r) ∧
        (∀ x, q.load = some x →
          let v := s.mem.readLE x.key x.n
          (s.badAt x.key = true → t.mem = s.mem ∧ (t.hart h).queue = r.queue ∧
            (t.hart h).async = H.async ++ [{ cause := .eccFatal, tval := x.va }]) ∧
          (s.badAt x.key = false → (∀ p, x.use = .place p → t.mem = s.mem ∧ t.hart h = r.reach p v ∧
              ∀ d, p = { dst := .a d, pos := 0, w := 64, sh := 0, copy := none } → ∀ T, H.now ≤ T →
                ((t.hart h).settle T).getA d = if d = 0 then 0 else BitVec.ofNat 64 v) ∧
            (∀ g j, x.use = .part g j → t.mem = s.mem ∧ t.hart h = r.gather g (r.partOf g j x.n v)) ∧
            (∀ op fmt rm b cmp old logged, x.use = .rmw op fmt rm b cmp old logged → logged = false ∨ plain →
              let z := amoVal op (8 * x.n) (Fmt.ofCode fmt) rm v b cmp
              t.mem = s.mem.putCells (cellsOf x.key x.n z.1) ∧
              t.hart h = match old with | some p => (r.flag z.2).reach p v | none => r.flag z.2))))) ∧
    (∀ (k : Nat) (p : Posted), H.posted[k]? = some p →
      (∀ q ∈ H.posted.take k, q.cls = p.cls → q.key / 8 ≠ p.key / 8) → s.badAt p.key = false → s.away p.key = false →
      plain →
      ∃ t, exec (.postedPartPerform h k) s = .next t ∧
        t.mem = s.mem.putCells (cellsOf p.key 8
          (amoVal p.op 64 .f64 0 (s.mem.readLE p.key 8) p.operand.toNat 0).1) ∧
        t.hart h = { H with posted := H.posted.eraseIdx k } ∧ ∀ id, id ≠ h → t.hart id = s.hart id)

/-- R32, R66, R68, R34, R35, R93, R208, R226, R228, R233 to R235, R238, R360: of a hart that runs, a word that no form assigns, and a
fetch that fails, trap at their address, and a word that may not follow a prefix at the prefix; a spindle reads one element ahead,
and holds a fault that it meets on the first element that depends on it; the loom starts the next operation with the operands of that moment, ends
the reading of a slot, and completes its oldest operation, whose entries are then final; a hart whose tick has come runs its
`tick.wait` again. That an operation reads its operands when it starts is the model's reading: log entry 33. -/
def Obligations.UnitEvents : Prop :=
  ∀ (s r u : State) (c : Nat),
    let k := s.cluster c
    (MayTrap s → s.me.live? = true → ∀ x : BitVec 32,
      ((∀ l, s.me.lent = some l → l.viaTret = true ∨ pairWordBad l x = false) → ∃ t, exec (.illegalWord x) s = .next t ∧
        Trapped s t .illegal (x.setWidth 64) s.me.pc ∧ TrapFrame s t) ∧
      (∀ l, s.me.lent = some l → l.viaTret = false → pairWordBad l x = true → ∃ t, exec (.illegalWord x) s = .next t ∧
        Trapped s t .illegal ((prefixWord l).setWidth 64) (s.me.pc - 4) ∧ TrapFrame s t)) ∧
    (MayTrap s → s.me.live? = true → ∀ (f : FetchCause) (va : Word), ∃ t, exec (.instructionFetchFault f va) s = .next t ∧
      Trapped s t (fetchCauseOf f) va s.me.pc ∧ TrapFrame s t) ∧
    (s.me.live? = false → ∀ (x : BitVec 32) (f : FetchCause) (va : Word), exec (.illegalWord x) s = .next s ∧
      exec (.instructionFetchFault f va) s = .next s) ∧
    (∀ (h : Nat) (x : SReg) (e e' : StreamElem) (f : Cause) (va : Word), let v := (s.hart h).getS x
      (s.hart h).mayFetch v = true →
      let gives := fun (v' : Stream) => ∃ t, exec (.spindleFetch h x) s = .next t ∧ t.hart h = (s.hart h).setS x v' ∧
        t.mem = s.mem ∧ ∀ id, id ≠ h → t.hart id = s.hart id
      (v.ahead.step h s = .ok (some e) r → fetchVal h v.ahead e r = .ok e' u → gives { v with buf := v.buf ++ [e'] }) ∧
      (v.ahead.step h s = .ok (some e) r → fetchVal h v.ahead e r = .fault f va u →
        gives { v with buf := v.buf ++ [{ e with held := some { cause := f, tval := va, bounds := false } }] }) ∧
      (v.ahead.step h s = .fault f va r →
        gives { v with held := some { cause := f, tval := va, bounds := boundsFault h v.ahead va s } })) ∧
    (∀ (i : Nat) (o : LoomOp), s.coopHead c = false → nextStart k.queue = some i → k.queue[i]? = some o → o.coop = false →
      (o.last = true → i = 0) → ∃ t o', exec (.loomOpStart c) s = .next t ∧ (t.cluster c).queue = k.queue.set i o' ∧ o'.started = true ∧
        o'.what = o.what ∧ o'.reading = o.reading ∧ (t.cluster c).fast = k.fast ∧ t.mem = s.mem ∧
        ∀ z x y cw km int m, o.what = .mm z x y cw km int none m → o'.snapA = k.fast.slots[x.toNat]'(x.isLt) ∧
          o'.snapB = k.fast.slots[y.toNat]'(y.isLt) ∧ o'.snapB1 = k.fast.slots.toList[y.toNat + 1]?.getD 0) ∧
    (∀ o : OReg, ∃ t, exec (.slotBusyEnd c o) s = .next t ∧ t.mem = s.mem ∧
      (t.cluster c).queue.map (fun p => p.what) = k.queue.map (fun p => p.what) ∧
      ∀ p ∈ (t.cluster c).queue, p.started = true → p.reading.getLsbD o.toNat = false) ∧
    (∀ o os, k.queue = o :: os → o.started = true → ∃ t, exec (.loomOpComplete c) s = .next t ∧
      (t.cluster c).queue = os ∧ (t.cluster c).fast = { k.fast with tiles := (o.effect k.fast.tiles).1 } ∧
      t.hart (16 * c + 8) = (s.hart (16 * c + 8)).flag (o.effect k.fast.tiles).2 ∧ t.mem = s.mem) ∧
    (∀ (h key : Nat) (w : BitVec 3) (d a : Reg), (s.hart h).status = .waiting →
      ({ s with cur := h } : State).xlate (s.who h) .fetch .other (s.hart h).pc = .ok key r → r.badAt key = false →
      encode (.tickWait w d a) = some (BitVec.ofNat 32 (r.mem.readLE key 4)) →
      ∃ t, exec (.tickWait w d a) { r with word := BitVec.ofNat 32 (r.mem.readLE key 4) } = .next t ∧
        exec (.frontTickReached h) s = .next { t with cur := s.cur })

/-- R301, R303, R312, R313, R332, R337, R349, R350, R359, R381, R383, R386, R387: how Aczar answers a request of a partition, each
reply with the header of its request, after those to the earlier requests of the connection. Before firmware and links are up none
is taken, nor one from a source that no filter admits; an ill-formed one has status 16, and one from a sender that is not
permitted, or for no partition, 17. A launch is refused by the first check it fails, else queued; a replay and a patch take their turn in their
graph's queue; a context save posts a request to every hart of the running context; a gang switch is accepted, or refused
with 16, 19 or 20; a query gives its value, a free one where the manual lists none, or the divergence; attestation gives the
signed report. The ranges of a request, the bounds of its body, the order of the checks, that the save of a context which does not run
touches no hart, and what the reply of a diverged replay holds are the model's readings: log entries 20, 27, 34 and 45. -/
def Obligations.ServiceRequests : Prop :=
  (∀ (s : State) (m : Msg) (rec : BitVec 512) (n k : Nat) (bs : List (BitVec 8)) (r : MapReq) (v : UnmapReq) (log : LogSetup)
      (nonce : BitVec 256),
    ∀ e ∈ [(Instr.launch m rec, 1, m.blen = 64), (.graphReplay m n, 2, 8 ≤ m.blen), (.patch m n k n bs, 3, bs.length ≤ m.blen),
      (.map m r, 4, 0 < m.blen), (.unmap m v, 5, 0 < m.blen), (.contextLoad m n log, 6, 8 ≤ m.blen), (.contextSave m, 7, 0 < m.blen),
      (.gangSwitch m n k n, 8, 0 < m.blen), (.query m n, 9, 0 < m.blen), (.attestation m nonce, 10, 32 ≤ m.blen),
      (.partitionReset m, 0, True)],
    let good := m.wellFormed = true ∧ (e.2.1 = 0 ∨ m.kind = e.2.1) ∧ m.ctx < 8 ∧ m.blen ≤ 65536 ∧ e.2.2
    (s.accepting = false ∨ s.hears m.src = false → exec e.1 s = .next s) ∧
    (s.accepting = true → s.hears m.src = true → ¬good → exec e.1 s = .next (s.reply m 16 .none)) ∧
    (s.accepting = true → s.hears m.src = true → good → tget s.parts m.part = none ∨ m.permitted = false →
      exec e.1 s = .next (s.reply m 17 .none))) ∧
  (∀ (s : State) (m : Msg) (st : Nat) (b : ReplyBody), let t := s.reply m st b
    let r : Reply := { conn := m.conn, seq := m.seq, kind := m.kind, part := m.part, ctx := m.ctx, status := st, body := b }
    ((∀ u ∈ s.unsent, u.conn ≠ m.conn) → t = { s with replies := s.replies ++ [r] }) ∧
    ((∃ u ∈ s.unsent, u.conn = m.conn) →
      t = { s with unsent := s.unsent ++ [{ conn := m.conn, seq := m.seq, reply := some r }] })) ∧
  (∀ (s : State) (m : Msg) (p : Part), s.accepting = true → s.hears m.src = true → m.wellFormed = true → m.ctx < 8 → m.blen ≤ 65536 →
    m.permitted = true → tget s.parts m.part = some p → (∀ u ∈ s.unsent, u.conn ≠ m.conn) →
    let refuses := fun (i : Instr) (status : Nat) => exec i s = .next (s.reply m status .none)
    let ok := fun (t : State) (b : ReplyBody) => t.replies = s.replies ++ [replyTo m 0 b]
    (m.kind = 1 → m.blen = 64 → ∀ rec, (∀ code, s.checkLaunch m.part p rec = .inl code → refuses (.launch m rec) code) ∧
      (p.running ≠ none → (lrecOf rec).bad = true → refuses (.launch m rec) 1) ∧
      (p.running ≠ none → (lrecOf rec).bad = false → (lrecOf rec).part ≠ m.part → refuses (.launch m rec) 2) ∧
      (∀ e x c, s.checkLaunch m.part p rec = .inr e → p.running = some x → tget p.ctxs x = some c →
        ∃ t l c', exec (.launch m rec) s = .next t ∧ ok t .none ∧ t.mem = s.mem ∧ t.harts = s.harts ∧
          t.ctx m.part x = some c' ∧ c'.launches = c.launches ++ [l] ∧ c'.nextLaunch = c.nextLaunch + 1 ∧
          l.num = c.nextLaunch ∧ l.record = rec ∧ l.entry = e ∧ l.param = (lrecOf rec).params ∧ l.counter = 0 ∧ l.ended = 0 ∧
          l.prio = (lrecOf rec).prio ∧ l.last = none)) ∧
    (∀ a x c, p.running = some x → tget p.ctxs x = some c →
      let g := c.graph a
      (∀ code, m.kind = 2 → 8 ≤ m.blen → s.readGraph m.part x p (BitVec.ofNat 64 a) g.nextReplay = .inl code →
        refuses (.graphReplay m a) code) ∧
      (∀ r, m.kind = 2 → 8 ≤ m.blen → s.readGraph m.part x p (BitVec.ofNat 64 a) g.nextReplay = .inr r → g.queue = [] → g.running ≠ none →
        ∃ t c', exec (.graphReplay m a) s = .next t ∧ ok t (.value (BitVec.ofNat 64 r.num)) ∧ t.mem = s.mem ∧
          t.ctx m.part x = some c' ∧ (c'.graph a).queue = [.replay r] ∧ (c'.graph a).running = g.running ∧
          (c'.graph a).nextReplay = g.nextReplay + 1) ∧
      (∀ node dst bs, m.kind = 3 → bs.length ≤ m.blen → 64 ≤ node ∨ 4096 < bs.length → refuses (.patch m a node dst bs) 16) ∧
      (∀ node dst bs s2, m.kind = 3 → bs.length ≤ m.blen → node < 64 → bs.length ≤ 4096 → g.queue = [] →
        (∀ b ∈ g.blocks ++ s.tableBlocks m.part x a,
          overlaps b.1.toNat b.2 (BitVec.ofNat 64 dst : Word).toNat bs.length = false) →
        (s.setCtx m.part x (c.putGraph { g with queue := [] })).writeBytes m.part x (BitVec.ofNat 64 dst) bs = some s2 →
        ∃ t c', exec (.patch m a node dst bs) s = .next t ∧ ok t .none ∧ t.mem = s2.mem ∧ t.ctx m.part x = some c' ∧
          (c'.graph a).gen = g.gen + 1 ∧ (c'.graph a).versions = g.kept ++ [(node, g.gen + 1, BitVec.ofNat 64 dst, bs.length)])) ∧
    (p.running = none → ∀ a node dst bs, (m.kind = 2 → 8 ≤ m.blen → refuses (.graphReplay m a) (if a % 64 = 0 then 2 else 1)) ∧
      (m.kind = 3 → bs.length ≤ m.blen → refuses (.patch m a node dst bs) 2)) ∧
    (m.kind = 7 → 0 < m.blen → tget p.ctxs m.ctx = none → refuses (.contextSave m) 16) ∧
    (m.kind = 7 → 0 < m.blen → ∀ c, tget p.ctxs m.ctx = some c → ∃ t, exec (.contextSave m) s = .next t ∧ ok t .none ∧ t.mem = s.mem ∧
      (p.running = some m.ctx → ∀ id ∈ hartsOf p.clusters, (s.hart id).live? = true →
        (t.hart id).preempt = true ∨ (t.hart id).status = .stopped) ∧
      (p.running ≠ some m.ctx → t.harts = s.harts)) ∧
    (m.kind = 8 → 0 < m.blen → ∀ out inc tick,
      (p.running ≠ some out ∨ out = inc ∨ tget p.ctxs inc = none → refuses (.gangSwitch m out inc tick) 16) ∧
      (p.running = some out → out ≠ inc → tget p.ctxs inc ≠ none →
        (s.synced = false → refuses (.gangSwitch m out inc tick) 20) ∧
        (s.synced = true → tick * 1000 < s.mtime + 50000 ∨ p.switch ≠ none ∨ s.writingBack p = true →
          refuses (.gangSwitch m out inc tick) 19) ∧
        (s.synced = true → s.mtime + 50000 ≤ tick * 1000 → p.switch = none → s.writingBack p = false →
          ∃ t, exec (.gangSwitch m out inc tick) s = .next t ∧ ok t .none ∧ t.harts = s.harts ∧ tget t.parts m.part =
            some { p with switch := some { out := out, inc := inc, tick := tick, under := false, left := [] } }))) ∧
    (m.kind = 9 → 0 < m.blen → ∀ item, ((∀ c, tget p.ctxs m.ctx = some c → c.diverged = none) → ∃ t v, exec (.query m item) s = .next t ∧
        ok t (.value v) ∧ t.mem = s.mem) ∧
      (∀ c d, tget p.ctxs m.ctx = some c → c.diverged = some d → ∃ t, exec (.query m item) s = .next t ∧
        ok t (.diverged d.1 d.2))) ∧
    (m.kind = 10 → 32 ≤ m.blen → ∀ nonce, ∃ t sig, exec (.attestation m nonce) s = .next t ∧ ok t (.report (s.report nonce ++ sig)) ∧
      (s.report nonce).length = 208 ∧ sig.length = 64 + 3309))

/-- R271, R315, R325 to R329, R332, R345, R346, R350, R354, R380: what mappings do. A mapped page covers its range alone and
resolves the misses in it; unmapping leaves no page, and no cached translation, of the range; neither comes while an element under
way uses it; a region, the reset area, a
route and more log room are entered; a context load makes a context known and, where none runs, the running one; a reset
leaves the partition's harts idle, its scratchpads zero and no context; a partition is made of free clusters. Aczar maps a
page for a miss that waits, or refuses it; migration copies a page into HBM4, in the stack of a cluster that waits for it, with no
value changed and no line poisoned; eviction takes the page of lowest use state, then age. The stage-2 records, the bounds of mappings,
reset area and backings, when a loaded context becomes the running one and that the load ends a halt, the zeros that a reset leaves in
the scalar registers, and the length of a body are the model's choices: log entries 3, 11, 16, 20, 21, 22, 31 and 45. -/
def Obligations.MappingsAndPages : Prop :=
  (∀ (s : State) (m : Msg) (p : Part), s.accepting = true → s.hears m.src = true → m.wellFormed = true → m.ctx < 8 → m.blen ≤ 65536 →
    m.permitted = true → tget s.parts m.part = some p → (∀ u ∈ s.unsent, u.conn ≠ m.conn) →
    let refuses := fun (i : Instr) (status : Nat) => exec i s = .next (s.reply m status .none)
    let done := fun (i : Instr) (f : State → Part → Prop) => ∃ t q, exec i s = .next t ∧
      t.replies.getLast? = some (replyTo m 0 .none) ∧ tget t.parts m.part = some q ∧ f t q
    (m.kind = 4 → 0 < m.blen → ∀ ia size count r w x res pinned,
      let i := Instr.map m (.range ia size count r w x res pinned)
      let e := fun k b => { newPage m.part (ia + k * size) size r w x (pageRes res (k * size)) pinned with born := b }
      let good := 0 < count ∧ ∀ k, k < count → pageGood (ia + k * size) size (pageRes res (k * size)) = true
      (¬good → refuses i 16) ∧
      (good → s.heldAt m.part ia (count * size) = true → refuses i 18) ∧
      (good → s.heldAt m.part ia (count * size) = false → done i fun t _ =>
        (∀ k, k < count → ∃ b, e k b ∈ t.s2) ∧
        (∀ d ∈ t.s2, d.part = m.part → overlaps d.ia d.size ia (count * size) = true → ∃ k b, k < count ∧ d = e k b) ∧
        ∀ q ∈ t.s2miss, q.part = m.part → overlaps q.ia 4096 ia (count * size) = false)) ∧
    (m.kind = 5 → 0 < m.blen → ∀ ia size, (s.heldAt m.part ia size = true → refuses (.unmap m (.range ia size)) 18) ∧
      (s.heldAt m.part ia size = false → done (.unmap m (.range ia size)) fun t _ =>
        (∀ d ∈ t.s2, d.part = m.part → overlaps d.ia d.size ia size = false) ∧
        (∀ c, ∀ e ∈ (t.cluster c).tlb, e.part = m.part → overlaps e.ia e.size ia size = false) ∧
        ∀ d ∈ t.dieTlb, ∀ e ∈ d.2, e.part = m.part → overlaps e.ia e.size ia size = false)) ∧
    (m.kind = 4 → 0 < m.blen → ∀ g : Region, regionGood p g = true → done (.map m (.region g.n g.lo g.size g.visible g.shadow)) fun _ q =>
      q.regions = p.regions.filter (fun x => x.n != g.n) ++ [g]) ∧
    (m.kind = 5 → 0 < m.blen → ∀ n, done (.unmap m (.region n)) fun _ q => ∀ x ∈ q.regions, x.n ≠ n) ∧
    (m.kind = 4 → 0 < m.blen → ∀ a, a % 64 = 0 → mappable a (64 * 4096) = true → done (.map m (.resetArea a)) fun _ q => q.resetArea = some a) ∧
    (m.kind = 5 → 0 < m.blen → done (.unmap m .resetArea) fun _ q => q.resetArea = none) ∧
    (m.kind = 4 → 0 < m.blen → ∀ n d, n < 4096 → done (.map m (.route n d)) fun _ q => tget q.routes n = some d) ∧
    (m.kind = 5 → 0 < m.blen → ∀ n, done (.unmap m (.route n)) fun _ q => tget q.routes n = none) ∧
    (m.kind = 4 → 0 < m.blen → ∀ base words c, tget p.ctxs m.ctx = some c → logGood base words = true →
      done (.map m (.logRegion base words)) fun t _ =>
        t.ctx m.part m.ctx = some { c with region := c.region ++ [(base, words)] }) ∧
    (m.kind = 6 → 8 ≤ m.blen → ∀ root log, let i := Instr.contextLoad m root log
      let bad := 8 ≤ m.ctx ∨ root % 4096 ≠ 0 ∨ 2 ^ 52 ≤ root ∨ (log.mode ≠ .plain ∧ logGood log.base log.words = false)
      (bad → refuses i 16) ∧ (¬bad → p.switch ≠ none → refuses i 18) ∧
      (¬bad → p.switch = none →
        (∀ c, tget p.ctxs m.ctx = some c → c.root ≠ root → refuses i 16) ∧
        (tget p.ctxs m.ctx = none → done i fun _ q =>
          q.running = (if p.running = none ∨ p.halted = true then some m.ctx else p.running) ∧ q.halted = false ∧
          ∃ c, tget q.ctxs m.ctx = some c ∧ c.root = root ∧ c.mode = log.mode ∧
            c.region = if log.mode = .plain then [] else [(log.base, log.words)]))) ∧
    done (.partitionReset m) (fun t q => q.ctxs = [] ∧ q.running = none ∧ q.switch = none ∧ q.clusters = p.clusters ∧
      ∀ c ∈ p.clusters, (∀ k, k < 9 → (t.hart (16 * c + k)).status = .idle ∧ (t.hart (16 * c + k)).priv = false ∧
          ∀ r, (t.hart (16 * c + k)).getA r = 0) ∧
        (t.fast c) = Fast.reset ∧ ∀ k, k < scratchSize → t.mem.read (scratchBase c + k) = 0)) ∧
  (∀ (s : State) (part : Nat) (cl : List Nat) (grace : Nat) (journal : Bool), s.boot.stage = .service → part < 16 →
    10 ≤ grace → grace ≤ 10000 →
    (tget s.parts part ≠ none → exec (.partitionCreate part cl grace journal) s = .next s) ∧
    (tget s.parts part = none → (∀ c ∈ cl, c < 256 ∧ s.defects.getLsbD c = false ∧ s.partOf c = none) →
      ∃ t q, exec (.partitionCreate part cl grace journal) s = .next t ∧ tget t.parts part = some q ∧ q.clusters = cl ∧
        q.grace = grace ∧ q.journal = journal ∧ q.running = none ∧ q.ctxs = [] ∧ t.mem = s.mem ∧ t.harts = s.harts)) ∧
  (∀ (s : State) (part ia : Nat),
    let waits := fun (s : State) => ∃ m ∈ s.s2miss, m.part = part ∧ m.ia = ia / 4096 * 4096
    (¬waits s → ∀ ans, exec (.stage2Fault part ia ans) s = .next s) ∧
    (waits s → ∃ t, exec (.stage2Fault part ia .refuse) s = .next t ∧ t.s2 = s.s2 ∧
      ∃ m ∈ t.s2miss, m.part = part ∧ m.ia = ia / 4096 * 4096 ∧ m.refused = true) ∧
    (waits s → ∀ size r w x res pinned, pageGood (ia / size * size) size res = true →
      let i := Instr.stage2Fault part ia (.mapTo size r w x res pinned)
      (s.heldAt part (ia / size * size) size = true → exec i s = .next s) ∧
      (s.heldAt part (ia / size * size) size = false → ∃ t b, exec i s = .next t ∧
        { newPage part (ia / size * size) size r w x res pinned with born := b } ∈ t.s2 ∧ ¬waits t))) ∧
  (∀ (s : State) (part ia pa : Nat) (e : S2Page) (r : Residency), s.mem.wf = true → s.s2page part ia = some e → e.hbm = none →
    e.holder = some r → e.pinned = false → e.size ≤ 2 ^ 20 → s.roomAt pa e.size = true →
    s.wantedAt e pa = true → ∃ t, exec (.pageMigration part ia pa) s = .next t ∧
      t.s2page part ia = some { e with hbm := some pa, use := .ordinary, fill := 0, born := s.fills + 1 } ∧
      (∀ l, pa ≤ 64 * l → 64 * l < pa + e.size → l ∉ t.poisoned) ∧
      (∀ k, k < e.size → t.mem.read (pa + k) = s.mem.read (resKey r + k)) ∧
      ∀ k, k < pa ∨ pa + e.size ≤ k → t.mem.read k = s.mem.read k) ∧
  (∀ (s : State) (part pa : Nat) (e : S2Page) (r : Residency), s.mem.wf = true →
    firstEvicted (s.s2.filter (s.evictable part)) = some e → e.hbm = some pa → e.holder = some r →
    s.heldIn part (fun k => decide (pa ≤ k ∧ k < pa + e.size)) = false →
    let m := (s.drainPart part).mem
    (∀ d ∈ s.s2, s.evictable part d = true → d.sooner e = false) ∧ ∃ t, exec (.pageEviction part) s = .next t ∧
      { e with hbm := none, fill := 0 } ∈ t.s2 ∧
      (∀ c, ∀ x ∈ (t.cluster c).tlb, x.part = part → overlaps x.ia x.size e.ia e.size = false) ∧
      ∀ k, k < e.size → resKey r + k < pa ∨ pa + e.size ≤ resKey r + k → t.mem.read (resKey r + k) = m.read (pa + k))

/-- R303, R305 to R308, R310, R335 to R344: the walker starts the chosen launch's next iteration on the free aligned set of
its group size, or reserves it, but not while a member of the set still runs the outgoing context of a switch; a launch whose iterations and transfers are over leaves its completion record; aging keeps
every effective priority; a gang launch counts its periods from its tick. At the tick of a gang switch the incoming context
becomes the running one and every hart is asked to stop; banks are preloaded, clusters flip, granules are exchanged and the
outgoing state goes back to its image; in a halted partition the harts stay as they are. `ctx.save` and `ctx.load` do a section a turn, and end by closing, or restoring, the
open party, with LANE-RETIRE for a hart whose lanes have changed. The points that R336 to R340 leave open are the model's readings: log entries 15, 34, 35 and 36. -/
def Obligations.Scheduling : Prop :=
  (∀ (s : State) (c p x : Nat) (q : Part) (k : Ctx) (l : Launch), s.partOf c = some (p, q) → q.halted = false →
    s.leaving c = false → s.free? c = true → q.running = some x → tget q.ctxs x = some k → (s.cluster c).reserved = none →
    chooseLaunch s.mtime (k.launches.filter (fun l => l.open? s.mtime && q.serves c l)) none = some l →
    let set := groupOf c (lrecOf l.record).size
    let r := lrecOf l.record
    ((∃ d ∈ set, s.leaving d = true) → exec (.walkerDispatch c) s = .next s) ∧
    ((∀ d ∈ set, s.leaving d = false) →
      (∀ d ∈ set, (s.cluster d).reserved = none ∨ (s.cluster d).reserved = some (p, x, l.num)) →
    ((∀ d ∈ set, s.free? d = true) → ∃ t, exec (.walkerDispatch c) s = .next t ∧ t.mem = s.mem ∧
      t.ctx p x = some (k.dispatched l s.mtime) ∧ ∀ d ∈ set, let h := t.hart (16 * d + 8)
        h.status = .running ∧ h.pc = l.entry ∧ h.priv = false ∧ h.tb = false ∧ h.rm = r.rm ∧ h.chk = r.chk ∧
        (∀ j, j < 4 → h.getA (BitVec.ofNat 5 (j + 1)) = r.index l.counter j) ∧ h.getA 5 = l.param ∧
        h.getA 6 = BitVec.ofNat 64 l.counter ∧ h.getA 7 = groupWord d set ∧ h.getA 8 = r.ftab ∧
        (t.fast d).iter = some { part := p, ctx := x, launch := l.num, n := l.counter }) ∧
    ((∃ d ∈ set, s.free? d = false) → ∃ t, exec (.walkerDispatch c) s = .next t ∧ t.harts = s.harts ∧
      (set.length ≠ 1 → ∀ d ∈ set, (t.cluster d).reserved = some (p, x, l.num))))) ∧
  (∀ (s r : State) (part ctx l key : Nat) (q : Part) (c : Ctx) (k : Launch), tget s.parts part = some q →
    s.ctx part ctx = some c → c.launches.find? (fun k => k.num == l) = some k →
    let rec_ := lrecOf k.record
    (k.counter < rec_.total ∨ k.ended < rec_.total * rec_.size ∨ s.busyLaunch part ctx l q c = true →
      exec (.launchCompletion part ctx l) s = .next s) ∧
    (rec_.total ≤ k.counter → rec_.total * rec_.size ≤ k.ended → s.busyLaunch part ctx l q c = false → k.node = none →
      s.inPlace.inKey part ctx .store rec_.done = .ok key r → (∀ j, j < 16 → s.imageAt part ctx (key + j) = none) → ∃ t, exec (.launchCompletion part ctx l) s = .next t ∧
        t.mem.readLE key 8 = 0 ∧ t.mem.readLE (key + 8) 8 = s.mtime % 2 ^ 64 ∧
        (∀ j, j < key ∨ key + 16 ≤ j → t.mem.read j = s.mem.read j) ∧
        t.ctx part ctx = some { c with launches := c.launches.filter (fun k => k.num != l) })) ∧
  (∀ (s : State) (part ctx l : Nat) (c : Ctx), s.ctx part ctx = some c →
    (s.serves part ctx = false → exec (.priorityAging part ctx l) s = .next s) ∧
    (s.serves part ctx = true → ∃ t c', exec (.priorityAging part ctx l) s = .next t ∧ t.ctx part ctx = some c' ∧ t.mem = s.mem ∧
      ∀ (i : Nat) (k : Launch), c.launches[i]? = some k → ∃ k' : Launch, c'.launches[i]? = some k' ∧ k'.num = k.num ∧
        (∀ now, s.mtime ≤ now → k'.effective now = k.effective now) ∧
        (k.num = l → k.open? s.mtime = true → k'.prio = k.effective s.mtime)) ∧
    (∃ t c', exec (.gangLaunchTick part ctx l) s = .next t ∧ t.ctx part ctx = some c' ∧ t.mem = s.mem ∧
      ∀ (i : Nat) (k : Launch), c.launches[i]? = some k → ∃ k' : Launch, c'.launches[i]? = some k' ∧ k'.prio = k.prio ∧
        (k.num = l → (lrecOf k.record).gang = true → (lrecOf k.record).tick * 1000 ≤ s.mtime → k.last = none →
          k'.since = max k.since ((lrecOf k.record).tick * 1000)))) ∧
  (∀ (s : State) (part : Nat) (p : Part) (g : GangSwitch), tget s.parts part = some p → p.switch = some g → g.under = false →
    (s.mtime < g.tick * 1000 → exec (.gangSwitchTick part) s = .next s) ∧
    (g.tick * 1000 ≤ s.mtime → ∃ t q, exec (.gangSwitchTick part) s = .next t ∧ tget t.parts part = some q ∧
      q.running = some g.inc ∧ q.switch = some { g with under := true, left := p.clusters } ∧ t.mem = s.mem ∧
      ∀ id ∈ hartsOf p.clusters, (s.hart id).live? = true → (t.hart id).preempt = true ∨ (t.hart id).status = .stopped)) ∧
  (∀ (s : State) (c p : Nat) (q : Part) (g : GangSwitch), s.partOf c = some (p, q) → q.switch = some g →
    ((s.cluster c).shadow = none → (g.under = true → c ∈ g.left) → ∃ t b, exec (.shadowPreload c) s = .next t ∧
      (t.cluster c).shadow = some b ∧ b.ctx = g.inc ∧ b.outgoing = false ∧ b.fast = (s.imageOf p g.inc c).fast ∧
      b.harts = (s.imageOf p g.inc c).harts ∧ t.fast c = s.fast c ∧ t.harts = s.harts) ∧
    (∀ b, (s.cluster c).shadow = some b → b.outgoing = false → g.under = true → c ∈ g.left → s.quiesced c = true →
      (s.cluster c).exch = [] → let u := s.drainPart p
      ∃ t, exec (.clusterFlip c) s = .next t ∧ t.fast c = b.fast ∧ t.mem = u.mem ∧
        (t.cluster c).shadow = some { ctx := g.out, outgoing := true, fast := u.fast c, harts := u.hartsAt c } ∧
        (t.cluster c).exch = List.range 112 ∧
        ∀ h, b.harts[8]? = some h → t.hart (16 * c + 8) =
          if q.halted = true then h else if h.status = .stopped ∧ h.bySave = false then h.resumed else { h with banks := [] }) ∧
    (∀ n, n ∈ (s.cluster c).exch → n < 96 → (s.cluster c).exchIn ≠ (s.cluster c).exchOut →
      ∃ t, exec (.granuleExchange c n) s = .next t ∧ (t.cluster c).exch = (s.cluster c).exch.erase n ∧ t.harts = s.harts ∧
        t.mem = s.mem.splice (scratchBase c + 65536 * n) 65536
          ((s.imageOf p (s.cluster c).exchIn c).scratch.slice (65536 * n) 65536) ∧
        ∀ o, s.ctx p (s.cluster c).exchOut = some o →
          t.imageOf p (s.cluster c).exchOut c = (s.imageOf p (s.cluster c).exchOut c).takeGranule s.mem c n) ∧
    (∀ b o, (s.cluster c).shadow = some b → b.outgoing = true → s.ctx p b.ctx = some o →
      ∃ t, exec (.shadowWritebackComplete c) s = .next t ∧ (t.cluster c).shadow = none ∧ t.mem = s.mem ∧
        t.imageOf p b.ctx c = { s.imageOf p b.ctx c with fast := b.fast, harts := b.harts })) ∧
  (∀ (s r u x v : State) (w : BitVec 3) (a : Reg) (ws hs ms : List Word), Clear s [.a a] → s.me.priv = true → s.cur % 16 = 8 →
    s.me.preempt = false → Unlogged s →
    let A := s.seen.me.getA a
    let head := wordAt ws 0
    A.toNat % 4096 = 0 → s.seen.loadWords A 4 = .ok ws r → r.loadWords (A + 8) 1 = .ok hs u →
    (r.ownHead false head = true → 7 < headSect head → r.saveReady = true →
      u.storeRun A [saveHead false true (headClid head) (headLmask head) 8 (headLret head) false] = .ok () v →
      ∃ t, exec (.ctxSave w a) s = .next t ∧ Completed s t w s.after ∧ t.mem = v.mem ∧
        t.myFast = { s.myFast with party := 0, arrived := 0 } ∧ ∀ id, id ≠ s.cur → t.hart id = s.hart id) ∧
    (r.ownHead true head = true → 7 < headSect head → s.myQueue = [] → u.savedMasks A (List.range 8) = .ok ms x →
      x.storeRun A [saveHead false (headDone head) (headClid head) (headLmask head) 8 (headLret head) true] = .ok () v →
      ∃ t, exec (.ctxLoad w a) s = .next t ∧ Completed s t w s.after ∧ t.mem = v.mem ∧
        t.myFast.party = (wordAt hs 0).setWidth 8 ∧ t.myFast.arrived = (wordAt hs 0).extractLsb' 8 8 ∧
        ∀ k, k < 8 → let h := s.hart (16 * s.myCluster + k); let h' := t.hart (16 * s.myCluster + k)
          (if (wordAt hs 0).getLsbD k = true ∧ h.stop.stopped = true then h'.status = .running ∧ h'.pc = h.stop.spc ∧
            h'.lent = lentOf h.stop.spfx ∧ h'.live = h.stop.live
          else h'.status = .idle) ∧
          ((wordAt ms k).setWidth 16 ≠ (s.cluster s.myCluster).marked.toList[k]?.getD 0xFFFF →
            ∃ a ∈ h'.async, a.cause = .laneRetire)) ∧
    (r.ownHead true head = false → headDone head = false → MayTrap s →
      ∃ t, exec (.ctxLoad w a) s = .next t ∧ Trapped s t .illegal (s.word.setWidth 64) s.me.pc))

/-- R192, R261 to R263, R266, R269, R270, R353, R355, R356: the channels and the fabric. A channel starts its earliest
waiting transfer, four at most at once; an element is read, checked and moved chunk by chunk, in one turn, or while accesses perform
apart (log entry 6) an aligned word at a time; it arrives at its barrier, and the list goes on or is complete; a packet leaves with
the bytes at its place, an acknowledgement or a fault ends its transfer, a
response fills a fetch. A packet from a source that no filter admits is dropped (R387). An inbound transfer is checked as a whole
before its first byte lands, each word at its home as it lands; when all have landed it is acknowledged; a mist block lands before its
deadline only, its words at once or one at a time (R181), and what is not settled then is missed. Frames of a peer that no filter
admits are dropped. That words perform apart only while the state says so, which words a response carries, and that inbound traffic
walks the tables without the TLBs are the model's: log entries 7, 9 and 37. -/
def Obligations.ChannelsAndFabric : Prop :=
  (∀ (s : State) (c ch : Nat) (x : Transfer), ch < 6 → (s.chan c ch).xfers.find? (fun t => !t.started) = some x →
    (s.leaving c = false → ((s.chan c ch).xfers.filter (fun t => t.started)).length < 4 →
      ∃ t, exec (.channelTransferStart c ch) s = .next t ∧ t.chan c ch = (s.chan c ch).put { x with started := true } ∧
        t.mem = s.mem ∧ t.harts = s.harts) ∧
    (4 ≤ ((s.chan c ch).xfers.filter (fun t => t.started)).length → exec (.channelTransferStart c ch) s = .next s)) ∧
  (∀ (s r r' u : State) (c ch : Nat) (id : BitVec 32) (x : Transfer), ch < 6 → (s.chan c ch).find id = some x →
    x.started = true →
    let now := { x with who := { x.who with regions := s.regionsOf x.who.part } }
    let ends := fun (t : State) (code missed : Nat) => (t.chan c ch).find id = none ∧
      { id := id, cause := code, missed := missed } ∈ (t.chan c ch).ends
    let free := ∀ e ∈ (s.chan c ch).wrote, precedes id e.1 = false
    (x.kind = .list → x.running = false →
      let as := if x.burst.isSome then x else now
      (s.reading as = false → ∀ e sk b, s.nextElement ch as = .ok e r → r.skips ch as.who e = .ok sk r' →
        r'.barrierOf ch as.who e = .ok b u → ∃ t y, exec (.listElementStart c ch id) s = .next t ∧ t.mem = s.mem ∧
          (t.chan c ch).find id = some y ∧ y.elem = some e ∧ y.running = true ∧ y.skip = sk ∧ y.chunk = 0 ∧ y.who = as.who ∧
          y.barKey = b.map (fun k => k.1) ∧ y.barPage = b.map (fun k => k.2)) ∧
      (∀ ks, s.queued = true → x.elem = none → x.burst = none → s.chanKeys ch now.who .load .other x.next 96 = .ok ks r →
        (∀ k ∈ ks, r.badAt k = false) → ∃ t, exec (.listElementStart c ch id) s = .next t ∧ t.mem = s.mem ∧
          (t.chan c ch).find id = some { now with burst := some (Burst.start x.next ks []) }) ∧
      (∀ b, x.elem = none → x.burst = some b → b.over = false → b.unwritten = [] →
        (∀ w ∈ b.unread, ∀ e ∈ placesIn b.src w, s.badAt e.2 = false) →
        ∃ t, exec (.listElementStart c ch id) s = .next t ∧ t.mem = s.mem ∧ ∃ w ∈ b.unread,
          (t.chan c ch).find id = some { x with burst := some (s.burstRead x b w) })) ∧
    (∀ e ks ds, x.desc = none → x.elem = some e → x.running = true → x.skip = false → x.chunk < e.chunks → x.burst = none →
      s.chunkKeys ch x (e.srcAt x.chunk) (some (e.dstAt x.chunk)) e.len = .ok (ks, ds) u → 0 < e.len →
      (s.queued = false → free → ∃ t, exec (.chunkTransfer c ch id) s = .next t ∧
        (t.chan c ch).find id = some { x with chunk := x.chunk + 1 } ∧ t.harts = s.harts ∧
        ∀ k, t.mem.read k = (s.mem.putCells ((ds.zip (ks.map (s.sourceByte x))).map (fun p => (p.1, p.2, 0xFF#8)))).read k) ∧
      (s.queued = true → ∃ t, exec (.chunkTransfer c ch id) s = .next t ∧ t.mem = s.mem ∧ t.harts = s.harts ∧
        (t.chan c ch).find id = some { x with burst := some (Burst.start (e.srcAt x.chunk) ks ds) })) ∧
    (∀ e b, x.desc = none → x.elem = some e → x.running = true → x.skip = false → x.chunk < e.chunks → x.burst = some b →
      b.over = false → ∃ t, exec (.chunkTransfer c ch id) s = .next t ∧
        (t.mem = s.mem ∨ ∃ w ∈ b.unwritten, b.ready w = true ∧ ∀ k, k / 8 ≠ w → t.mem.read k = s.mem.read k)) ∧
    (∀ d off n ks, x.desc = some d → x.nextPacket d s.mtime = some (off, n) → x.burst = none → s.queued = false →
      s.chunkKeys ch x (d.lva + BitVec.ofNat 64 off) none n = .ok (ks, []) u → ∃ t, exec (.chunkTransfer c ch id) s = .next t ∧
        t.sent = s.sent ++ [{ cluster := c, chan := ch, id := x.id, desc := d, off := off, bytes := ks.map (s.sourceByte x) }] ∧
        (t.chan c ch).find id = some { x with chunk := x.chunk + 1 } ∧ t.mem = s.mem) ∧
    (∀ e, x.elem = some e → x.running = true → x.skip = true ∨ e.chunks ≤ x.chunk → (x.barKey.map s.barWordBad).getD false = false →
      ∃ t, exec (.listElementComplete c ch id) s = .next t ∧
        (e.next = 0 → ends t 0 0) ∧
        (e.next ≠ 0 → ∃ y, (t.chan c ch).find id = some y ∧ y.elem = none ∧ y.running = false ∧ y.next = e.next) ∧
        t.mem = match x.barKey with | some k => (s.arrive k (e.chunks * e.len)).mem | none => s.mem) ∧
    (∀ d n, x.desc = some d → x.allSent d = true → s.answers x d = true → ∃ t, exec (.transferAck c ch id n) s = .next t ∧ t.mem = s.mem ∧
      ends t 0 (if x.kind = .mist then n else 0)) ∧
    (∀ d, x.desc = some d → ∃ t, exec (.retryLimit c ch id 0) s = .next t ∧ ends t 0x14 0 ∧ t.mem = s.mem ∧
      ((s.chan c ch).frec = 0 → (t.chan c ch).frec = faultRecord id 0x14 ∧ (t.chan c ch).faddr = d.rva) ∧
      ((s.chan c ch).frec ≠ 0 → (t.chan c ch).frec = (s.chan c ch).frec) ∧
      (t.hart x.hart).async = (s.hart x.hart).async ++ [{ cause := .fabric, tval := BitVec.ofNat 32 ch ++ id }]) ∧
    (∀ d, x.desc = some d → s.answers x d = false → ∀ (n : Nat) (k : BitVec 8) (data : List (BitVec 8)), k ≠ 0 →
      ∀ i ∈ [Instr.transferAck c ch id n, .retryLimit c ch id k, .rmaReadResponse c ch id data], exec i s = .next s) ∧
    (∀ d ks, x.desc = some d → x.kind = .fetch → x.chunk ≠ 0 → s.answers x d = true → free →
      s.drawn.fetchKeys ch now d = .ok (ks, none) u → ∀ data : List (BitVec 8), data ≠ [] → data.length % 8 = 0 →
      let n := data.length / 8
      x.gaps d.len n ≠ [] → ∃ t, exec (.rmaReadResponse c ch id data) s = .next t ∧ ∃ o ∈ x.gaps d.len n,
        t.mem = s.mem.putCells ((((ks.drop (8 * o)).take data.length).zip data).map (fun p => (p.1, p.2, 0xFF#8))) ∧
        (d.len ≤ (x.came.length + n) * 8 → ends t 0 0) ∧
        ((x.came.length + n) * 8 < d.len → (t.chan c ch).find id =
          some { now with chunk := x.chunk + data.length, came := x.came ++ List.range' o n }))) ∧
  (∀ (s : State) (x : Nat) (pk : Packet), s.hears pk.src = false ∨ s.answered x = true →
    ∀ i ∈ [Instr.fabricWritePacket x pk, .mistAnnounce x pk, .fabricReadRequest x pk], exec i s = .next s) ∧
  (∀ (s u v : State) (x : Nat) (pk : Packet), s.hears pk.src = true → s.answered x = false → s.inboundOf x = none →
    let i := inboundFrom pk x false
    let j := inboundFrom pk x true
    let bs := pk.data.take (pk.len - pk.off)
    (∀ ks, s.admission i = .ok () u → pk.bar = 0 →
      u.inKeys pk.part pk.ctx .store (addrAt pk.rva (pk.off / 8) 8) ((pk.off % 8 + bs.length + 7) / 8) = .ok ks v →
      (∀ k ∈ ks, ∀ n, n < 8 → s.imageAt pk.part pk.ctx (k + n) = none) →
      ∃ t, exec (.fabricWritePacket x pk) s = .next t ∧
        t.mem = s.mem.putCells (bs.zipIdx.map (fun e =>
          (ks[(pk.off % 8 + e.2) / 8]?.getD 0 + (pk.off + e.2) % 8, e.1, 0xFF#8))) ∧
        (pk.len ≤ bs.length → t.acks = s.acks ++ [{ x := x, cause := 0, missed := 0 }] ∧ t.inboundOf x = none) ∧
        (bs.length < pk.len → t.acks = s.acks ∧ t.inboundOf x = some { i with got := bs.length })) ∧
    (∀ k, s.admission i = .trap k u → ∃ t, exec (.fabricWritePacket x pk) s = .next t ∧ t.mem = s.mem ∧
      t.acks = s.acks ++ [{ x := x, cause := k.code.toNat, missed := 0 }]) ∧
    (s.admission j = .ok () u → ∃ t, exec (.mistAnnounce x pk) s = .next t ∧ t.inboundOf x = some j ∧ t.mem = s.mem) ∧
    (∀ ks, s.inKeys pk.part pk.ctx .load pk.rva ((pk.len + 7) / 8) = .ok ks u → (∀ k ∈ ks, u.badAt k = false) →
      ∃ t, exec (.fabricReadRequest x pk) s = .next t ∧ t.mem = s.mem ∧
        t.reads = s.reads ++ [(x, (ks.flatMap (fun k => leBytes 8 (s.readIn pk.part pk.ctx k 8))).take pk.len)])) ∧
  (∀ (s : State) (x : Nat) (i : Inbound), s.inboundOf x = some i → i.mist = true → i.len < 2 ^ 24 → i.bar = 0 →
    (∀ c, s.ctx i.part i.ctx = some c → c.mode = .plain) →
    let missing := (List.range i.blocks).filter (fun b => !i.settled.contains b)
    let home := fun (ks : List Nat) => ∀ k ∈ ks, ∀ n, n < 8 → s.imageAt i.part i.ctx (k + n) = none
    let wordsOf := fun (data : BitVec 2048) => (List.range 32).map (fun k => (k, ((data >>> (64 * k)).setWidth 64 : Word)))
    let settles := fun (t : State) (b : Nat) (valid : Bool) =>
      let j := { i with settled := i.settled ++ [b], missed := if valid then i.missed else i.missed + 1, writing := none }
      (i.settled.length + 1 < i.blocks → t.inboundOf x = some j ∧ t.acks = s.acks) ∧
      (i.blocks ≤ i.settled.length + 1 → t.inboundOf x = none ∧ t.acks = s.acks ++ [{ x := x, cause := 0, missed := j.missed }])
    let whole := fun (r : State) (w : BlockWrite) (t : State) => ∀ ks u bs v, LandSeq i w.blk r w.left ks u → home ks →
      u.bitKeys i w.blk = .ok bs v → home bs → settles t w.blk w.valid ∧
        t.mem = (s.mem.putCells ((ks.zip w.left).flatMap (fun e => cellsOf e.1 8 e.2.2.toNat))).putCells
          (i.bitCells bs w.blk w.valid)
    let lands := fun (r : State) (w : BlockWrite) => ∀ e ∈ w.left, ∃ key u,
      r.inKey i.part i.ctx .store (addrAt i.rva (32 * w.blk + e.1) 8) = .ok key u ∧ home [key]
    let one := fun (r : State) (w : BlockWrite) (t : State) => ∃ e ∈ w.left, ∃ key u,
      r.inKey i.part i.ctx .store (addrAt i.rva (32 * w.blk + e.1) 8) = .ok key u ∧
      t.mem = s.mem.putCells (cellsOf key 8 e.2.toNat) ∧ t.acks = s.acks ∧
      t.inboundOf x = some { i with writing := some { w with left := w.left.filter (fun y => y != e) } }
    (∀ w, i.writing = some w → ∃ t, exec (.mistDeadline x) s = .next t ∧
      (∀ b good data, exec (.mistBlock x b good data) s = .next t) ∧ (s.queued = false → whole s.drawn w t) ∧
      (s.queued = true → 2 ≤ w.left.length → w.left.Nodup → lands s.drawn w → one s.drawn w t)) ∧
    (i.writing = none → ∀ b data, b ∈ missing →
      let w : BlockWrite := { blk := b, valid := true, left := wordsOf data }
      (s.mtime < i.dl → ∀ bk r, s.bitKeys i b = .ok bk r → ∃ t, exec (.mistBlock x b true data) s = .next t ∧
        (s.queued = false → whole r.drawn w t) ∧ (s.queued = true → lands r.drawn w → one r.drawn w t)) ∧
      (i.dl ≤ s.mtime → exec (.mistBlock x b true data) s = .next s) ∧ exec (.mistBlock x b false data) s = .next s) ∧
    (i.writing = none → s.mtime < i.dl → exec (.mistDeadline x) s = .next s) ∧
    (i.writing = none → i.dl ≤ s.mtime → s.queued = false → ∀ j u, missBlocks (List.range i.blocks) i s = .ok j u →
      ∃ t, exec (.mistDeadline x) s = .next t ∧ t.inboundOf x = none ∧ t.mem = u.mem ∧
        t.acks = s.acks ++ [{ x := x, cause := 0, missed := i.missed + missing.length }]) ∧
    (i.writing = none → i.dl ≤ s.mtime → s.queued = true → ∀ b bk r, missing.head? = some b → s.bitKeys i b = .ok bk r →
      let w : BlockWrite := { blk := b, valid := false, left := wordsOf 0 }
      lands r.drawn w → ∃ t, exec (.mistDeadline x) s = .next t ∧ one r.drawn w t))

/-- R358, R359, R367 to R370, R374, R375, R383, R387 to R394: the steps of the module as a whole. Scrubbing marks what is bad
and counts what it corrects: the third correction within 24 hours marks a lane group for retirement, or the cluster when the
hart has lost one already; refreshes are owed or pulled in, 8 at most; a cold reset leaves memory of the module zero and
every hart at its reset values, and boots the first slot that verifies; a warm reset keeps HBM4 when the retain flag is set;
firmware's ceiling stays below the fused one, and its cores never write the fuses, the store of trust or the locked region; a
token opens debug access only when it names module and challenge and both its signatures verify; links train, with the limits
of the image, only where one verified; a transfer cut by a warm reset is never answered; grants of current never exceed the
limit, a request is granted or skipped, and none is left after a revocation; discipline of the module time is lost and
regained. A channel that fails retraining and full training is marked, and every line on it is poisoned. What a reset keeps, that
memory is 0 where nothing is kept, and the zeros of the scalar registers are the model's: log entries 1, 3, 38 and 39. -/
def Obligations.ModuleEvents : Prop :=
  (∀ (s : State) (loc : SramLoc), ∃ t u, exec (.sramScrub loc .clean) s = .next t ∧
    exec (.sramScrub loc .uncorrectable) s = .next u ∧ (∀ l, l ∈ t.badSram ↔ l ∈ s.badSram ∧ l ≠ loc) ∧
    (∀ l, l ∈ u.badSram ↔ l ∈ s.badSram ∨ l = loc) ∧ t.mem = s.mem ∧ u.mem = s.mem) ∧
  (∀ (s : State) (h r granule : Nat), h % 16 < 8 → granule < 256 →
    let g := granule / 16
    let k := s.cluster (clusterOf h)
    let seen := (k.corr.filter (fun e => recent s.mtime e.2.2)).filter (fun e => e.1 == h % 16 && e.2.1 == g)
    let mask := k.marked.toList[h % 16]?.getD 0xFFFF
    ∃ t, exec (.sramScrub (.lane h r granule) .corrected) s = .next t ∧
      (2 ≤ seen.length → mask = 0xFFFF → (t.cluster (clusterOf h)).marked.toList[h % 16]? = some (mask &&& ~~~(1#16 <<< g)) ∧
        (t.cluster (clusterOf h)).retire = k.retire) ∧
      (2 ≤ seen.length → mask ≠ 0xFFFF → mask.getLsbD g = true → (t.cluster (clusterOf h)).retire = true) ∧
      (seen.length < 2 → (t.cluster (clusterOf h)).marked = k.marked ∧ (t.cluster (clusterOf h)).retire = k.retire)) ∧
  (∀ (s : State) (unit : Nat), unit < 2 ^ 35 → exec (.hbmPatrolScrub unit .clean) s = .next s ∧
    (∃ t, exec (.hbmPatrolScrub unit .uncorrectable) s = .next t ∧ unit / 2 ∈ t.poisoned ∧ t.mem = s.mem) ∧
    let place := dramPlace (32 * unit)
    let ch := 32 * place.stack + place.channel
    let row := 32768 * place.bank + place.row
    let r := s.refCh ch
    ∃ t, exec (.hbmPatrolScrub unit .corrected) s = .next t ∧ t.mem = s.mem ∧ t.poisoned = s.poisoned ∧
      (inFilter r.f32 row = true → t.refCh ch = r) ∧
      (inFilter r.f32 row = false → inFilter r.f64 row = true → t.refCh ch = { r with f32 := r.f32 ++ [row] }) ∧
      (inFilter r.f32 row = false → inFilter r.f64 row = false → t.refCh ch = { r with f64 := r.f64 ++ [row] }) ∧
      ∀ k, k ≠ ch → t.refCh k = s.refCh k) ∧
  (∀ (s : State) (st ch : Nat), let k := 32 * st + ch; let r := s.refCh k
    let puts := fun (how : RefreshKind) (x : RefCh) => ∃ t, exec (.allBankRefresh st ch how) s = .next t ∧ t.refCh k = x ∧
      t.mem = s.mem
    puts .due r.cover ∧
    puts .postpone (if r.owed < 8 then { r with owed := r.owed + 1 } else r) ∧
    puts .catchUp (if 0 < r.owed then { r.cover with owed := r.owed - 1 } else r) ∧
    puts .pullIn (if -8 < r.owed then { r.cover with owed := r.owed - 1 } else r)) ∧
  (∀ s : State, ∃ t, exec .coldReset s = .next t ∧ (∀ k, k < 2 ^ 52 → t.mem.read k = 0) ∧
    (∀ k, 2 ^ 52 ≤ k → t.mem.read k = s.mem.read k) ∧ t.parts = [] ∧ t.poisoned = [] ∧ t.boot.fwcap = s.boot.fcap ∧
    t.boot.debug = false ∧ (∀ id, (t.hart id).pend = [] ∧ (t.hart id).status = .idle ∧ (t.hart id).hctl = 0 ∧
      ∀ x, (t.hart id).getA x = 0) ∧
    (match s.boot.chosen with
      | some l => t.boot.stage = .service ∧ t.boot.region = imageBytes l ∧ t.boot.locked = true ∧ t.boot.rollback = raised s.boot l ∧
        t.boot.ports = trainedPorts l
      | none => t.boot.stage = .dead ∧ t.boot.region = [] ∧ t.boot.ports = [])) ∧
  (∀ (s : State) (retrain : List (Nat × Bool)), ∃ t, exec (.warmReset retrain) s = .next t ∧
    exec (.watchdogExpiry retrain) s = .next t ∧
    t.boot.failedCh = s.boot.failedCh ++ (retrain.filter (fun e => !e.2)).map (fun e => e.1) ∧
    (∀ l, l ∈ t.poisoned ↔ (s.boot.retain = true ∧ l ∈ s.cutFlight.poisoned) ∨
      (l < 2 ^ 34 ∧ ∃ ch, (ch, false) ∈ retrain ∧ lineOn ch l = true)) ∧
    (s.boot.retain = true → ∀ k, k < 2 ^ 40 → t.mem.read k = s.cutFlight.mem.read k) ∧
    (s.boot.retain = false → ∀ k, k < 2 ^ 40 → t.mem.read k = 0) ∧
    (∀ k, 2 ^ 40 ≤ k → k < 2 ^ 52 → t.mem.read k = 0) ∧ t.parts = [] ∧ t.boot.retain = false ∧ t.boot.fwcap = s.boot.fcap ∧
    t.boot.region = s.boot.region ∧ (∀ i ∈ s.inbound, i.x ∈ t.deaf) ∧ t.inbound = [] ∧
    (s.boot.stage = .service → (s.boot.chosen = none → t.boot.stage = .dead ∧ t.boot.ports = []) ∧
      (∀ l, s.boot.chosen = some l → t.boot.stage = .service ∧
        t.boot.ports = s.boot.ports.map (fun p => { p with trained := true }))) ∧
    (∀ c, (∀ e ∈ s.cutFlight.clusters, e.1 = c → e.2.retire = false) → t.defects.getLsbD c = s.defects.getLsbD c) ∧
    (∀ e ∈ s.cutFlight.clusters, e.1 < 256 → e.2.retire = true → t.defects.getLsbD e.1 = true) ∧
    ∀ id, (t.hart id).status = .idle ∧ ∀ x, (t.hart id).getA x = 0) ∧
  (∀ (s : State) (tok : DebugToken),
    (∃ t, exec (.debugUnlock tok) s = .next t ∧ t.mem = s.mem ∧ (t.boot.debug = true ↔ s.boot.debug = true ∨
      (tok.identity = s.boot.identity ∧ tok.nonce = s.boot.challenge ∧
        let signed := leBytes 64 tok.identity.toNat ++ leBytes 32 tok.nonce.toNat
        Config.ed25519 s.boot.debugE signed (leBytes 64 tok.sigE.toNat) = true ∧
          Config.mldsa65 s.boot.debugM signed tok.sigM = true))) ∧
    (∃ t, exec .retainFlagSet s = .next t ∧ t.boot = { s.boot with retain := true } ∧ t.mem = s.mem) ∧
    (∀ n, (n ≤ s.boot.fcap → ∃ t, exec (.fwcapWrite n) s = .next t ∧ t.boot = { s.boot with fwcap := n }) ∧
      (s.boot.fcap < n → exec (.fwcapWrite n) s = .next s)) ∧
    (∃ t u, exec .syncLoss s = .next t ∧ exec .syncRegain s = .next u ∧ t = { s with synced := false } ∧
      u = { s with synced := true })) ∧
  (∀ b : Boot, b.mayWrite .fuses = false ∧ b.mayWrite .trust = false ∧ (b.mayWrite .region = true ↔ b.locked = false) ∧
    b.mayWrite .other = true ∧ ∀ r, mayFetch r = true ↔ r = .region) ∧
  (∀ (s : State) (amps : Nat), ∃ t, exec (.powerRound amps) s = .next t ∧ t.mem = s.mem ∧ t.harts = s.harts ∧ t.power.amps = amps ∧
    t.power.above = (if s.boot.fcap < amps then s.power.above + 1 else 0) ∧
    t.power.total ≤ s.boot.grantable ∧ t.power.total ≤ s.power.total + 400 ∧ (s.power.revoked = true → t.power.total = 0) ∧
    ∀ c, c < 256 → (t.cluster c).fast = (s.cluster c).fast ∧ (t.cluster c).queue = (s.cluster c).queue ∧
      (t.cluster c).vfp = false ∧
      let loom := (s.cluster c).queue ≠ [] ∨ c ∈ s.power.againLoom
      let vec := (s.cluster c).vfp = true ∨ c ∈ s.power.again
      let inGroup := (s.fast c).coop = 0 ∨ (s.fast c).coop.getLsbD (c % 4) = true
      ((t.cluster c).loomGrant = true → loom) ∧ ((t.cluster c).vecGrant = true → vec) ∧
      (inGroup → loom → (t.cluster c).loomGrant = true ∨ c ∈ t.power.againLoom) ∧
      (inGroup → vec → (t.cluster c).vecGrant = true ∨ c ∈ t.power.again)) ∧
  (∀ s : State,
    (s.power.above < 2 → exec .overcurrentRevoke s = .next s) ∧
    (2 ≤ s.power.above → ∃ t, exec .overcurrentRevoke s = .next t ∧ t.power.revoked = true ∧ t.power.total = 0 ∧
      (∀ c, (t.cluster c).loomGrant = false ∧ (t.cluster c).vecGrant = false) ∧ t.mem = s.mem) ∧
    (95 * s.boot.fcap ≤ 100 * s.power.amps → exec .grantRestore s = .next s) ∧
    (100 * s.power.amps < 95 * s.boot.fcap → exec .grantRestore s = .next { s with power := { s.power with revoked := false } }))

/-! ### Encoding, the step, the invariant, reset -/

/-- R55 to R66: the decoder reads from the word of a well-formed instruction that instruction, every operand at every value; and a word
that it accepts is the word of what it gives, which is well-formed. -/
def Obligations.EncodeDecode : Prop :=
  (∀ (i : Instr) (x : BitVec 32), i.wellFormed = true → encode i = some x → Decode.word x = .ok i) ∧
  (∀ (i : Instr) (x : BitVec 32), Decode.word x = .ok i → i.wellFormed = true ∧ encode i = some x)

/-- R26, R35, R66: with no agenda, a hart that runs takes the cause or the stop that is due at its boundary, or else executes what the
word at its pc decodes to, or takes the trap of a word that no form assigns; a fetch that faults is the trap of the fetch, and one
that misses in stage 2 a stall. Loads and atomics that the word must wait for perform first, all of them where it traps or stops
(R29, R103). A turn of the agenda is that of its hart, or its event's. A turn that asks for a posted part before
that part's turn in a replay is undone (R381). The agenda and accesses that perform late are the model's choices: log entries 6 and 7. -/
def Obligations.StepRunsTurn : Prop :=
  (∀ (s : State), s.agenda = [] → s.cur < 4096 → s.cur % 16 < 9 → s.me.status = .running →
    let due := (s.land s.cur).atBoundary
    (s.me.async = [] → s.me.preempt = false → Landed s → due = none) ∧
    (∀ v, due = some v → v.early = s.early → step s = .next v) ∧
    (∀ x t, due = none → s.fetchWord = .word x t →
      (∀ i, Decode.word x = .ok i →
        let u : State := { (t.interlock x) with word := x }
        let goes := fun (v : State) => (v.early = s.early → step s = .next (t.noteIssue x v)) ∧
          (v.early ≠ s.early → step s = .next (s.setMe { s.me with status := .stalled }))
        (t.me.late = false → u = { t with word := x }) ∧ (floatWord x = false → ∀ v, t.noteIssue x v = v) ∧
        (∀ v, exec i u = .next v → (u.broke v = true → u.me.late = false) → goes v) ∧
        (∀ v v', exec i u = .next v → u.broke v = true → u.me.late = true → exec i (u.land u.cur) = .next v' → goes v') ∧
        (∀ f, exec i u = .fault f → step s = .fault f) ∧ ∀ r, exec i u = .refused r → step s = .refused r) ∧
      (∀ e, Decode.word x = .error e → step s = stallEarly s (exec (.illegalWord x) { (t.land t.cur) with word := x }))) ∧
    (∀ c va t, due = none → s.fetchWord = .fault c va t → step s = stallEarly s (exec (.instructionFetchFault c va) (t.land t.cur))) ∧
    (∀ t, due = none → s.fetchWord = .stall t → step s = .next (t.setMe { t.me with status := .stalled }))) ∧
  (∀ (s : State) (ts : List Turn) (dt : Nat) (i : Instr), s.agenda = { dt := dt, act := .event i } :: ts → i.isEvent = true →
    let u : State := { s with agenda := ts, mtime := s.mtime + dt }
    (∀ v, exec i u = .next v → v.early = u.early → step s = .next v) ∧
    (∀ v, exec i u = .next v → v.early ≠ u.early → step s = .next u)) ∧
  (∀ (s : State) (ts : List Turn) (dt h : Nat), s.agenda = { dt := dt, act := .hart h } :: ts →
    step s = turn { s with agenda := ts, mtime := s.mtime + dt, cur := h }) ∧
  (∀ (s v : State) (ts : List Turn) (dt h k : Nat), s.agenda = { dt := dt, act := .partly h k } :: ts →
    turn { s with agenda := ts, mtime := s.mtime + dt, cur := h, partly := some k } = .next v →
    step s = .next { v with partly := none })

/-- R57 to R65: words written out from the encodings decode to the instructions they stand for. -/
def Obligations.DecodeWords : Prop :=
  Decode.word 0x00000000 = .ok (.nop 0) ∧
  Decode.word 0x02110C00 = .ok (.add 0 1 2 3) ∧
  Decode.word 0x44528FFF = .ok (.addi 2 5 5 0xFFF) ∧
  Decode.word 0x06C20003 = .ok (.bge 0 1 0 3) ∧
  Decode.word 0x08A30083 = .ok (.ldD 0 10 6 0 2) ∧
  Decode.word 0x10110EC0 = .ok (.vadd 0 1 2 (.str 3) 3) ∧
  Decode.word 0x1E0C4000 = .ok (.pfx 0 0 24 1) ∧
  Decode.word 0x00008000 = .error .reserved

/-- The invariant of a run: from every state in which memory is in its canonical form and firmware's ceiling is not above the fused one
(R387), a step that goes on leaves such a state. -/
def Obligations.StepKeepsInv : Prop := ∀ s t : State, s.Inv → step s = .next t → t.Inv

/-- R16, R201, R224, R389: the module at reset meets the invariant; the registers of every hart have the values that R16 gives, its
streams are closed, no slot is claimed, every tile is empty and no membership is set. (What R16 gives no value for, `a`, `v`, `m` and
`scpwin`, and every byte of memory, is 0 by the model's choice: log entries 1 and 3.) -/
def Obligations.ResetState : Prop :=
  State.reset.Inv ∧
  (∀ id, let h := State.reset.hart id
    h.hctl = 0 ∧ h.vl = 0 ∧ h.vtype = 0x8000000000000000 ∧ h.estart = 0 ∧ (∀ k : Fin 16, h.lgp[k] = 0) ∧ h.tcause = 0 ∧
    h.tval = 0 ∧ h.tpc = 0 ∧ h.tpfx = 0 ∧ h.tstat = 0 ∧ h.fstat = 0 ∧ h.rng0 = 0x9E3779B97F4A7C15 ∧
    h.rng1 = BitVec.ofNat 64 id ∧ h.smiss = 0 ∧ h.bdone = 0 ∧ (∀ k : Fin 32, h.hwm[k] = 0) ∧ h.lmap = 0x40FFFF ∧
    h.tvec = 0 ∧ h.bstp = 0 ∧ (∀ r, h.getS r = Stream.closed) ∧ (∀ r, h.getA r = 0)) ∧
  (∀ c, (State.reset.fast c).claimed = 0 ∧ (∀ t : Fin 4, (State.reset.fast c).tmode[t] = .empty) ∧
    (State.reset.fast c).cfg = none ∧ (State.reset.fast c).coop = 0 ∧ (State.reset.fast c).skein = [] ∧
    (State.reset.fast c).skfmt = 3) ∧
  State.reset.parts = [] ∧ ∀ k, State.reset.mem.read k = 0
end

