-- ==== Sys2Proof/Laws/Dispatch.lean ====
section
/-! SUPPORT. Laws of dispatch: the meaning of each instruction by name, so that no proof unfolds `exec`. -/

namespace Sys2Proof.Machine

variable (s : State)

theorem exec_nop (w) : exec (.nop w) s = execNop w s := rfl
theorem exec_jr (w a) : exec (.jr w a) s = execJr w a s := rfl
theorem exec_svc (w code) : exec (.svc w code) s = execSvc w code s := rfl
theorem exec_tret (w) : exec (.tret w) s = execTret w s := rfl
theorem exec_brk (w code) : exec (.brk w code) s = execBrk w code s := rfl
theorem exec_halt (w) : exec (.halt w) s = execHalt w s := rfl
theorem exec_mfc (w d csr) : exec (.mfc w d csr) s = execMfc w d csr s := rfl
theorem exec_mtc (w d csr) : exec (.mtc w d csr) s = execMtc w d csr s := rfl
theorem exec_mtcHctl (w d) : exec (.mtcHctl w d) s = execMtcHctl w d s := rfl
theorem exec_mtcVl (w d) : exec (.mtcVl w d) s = execMtcVl w d s := rfl
theorem exec_mtcVtype (w d) : exec (.mtcVtype w d) s = execMtcVtype w d s := rfl
theorem exec_mtcEstart (w d) : exec (.mtcEstart w d) s = execMtcEstart w d s := rfl
theorem exec_mtcBstp (w d) : exec (.mtcBstp w d) s = execMtcBstp w d s := rfl
theorem exec_fenceC (w a sc) : exec (.fenceC w a sc) s = execFenceC w a sc s := rfl
theorem exec_fenceAll (w sc) : exec (.fenceAll w sc) s = execFenceAll w sc s := rfl
theorem exec_wfe (w d a b) : exec (.wfe w d a b) s = execWfe w d a b s := rfl
theorem exec_rdtime (w d) : exec (.rdtime w d) s = execRdtime w d s := rfl
theorem exec_rdcyc (w d) : exec (.rdcyc w d) s = execRdcyc w d s := rfl
theorem exec_ctxSave (w a) : exec (.ctxSave w a) s = execCtxSave w a s := rfl
theorem exec_ctxLoad (w a) : exec (.ctxLoad w a) s = execCtxLoad w a s := rfl
theorem exec_tlbInv (w a b) : exec (.tlbInv w a b) s = execTlbInv w a b s := rfl
theorem exec_wait (w n) : exec (.wait w n) s = execWait w n s := rfl
theorem exec_lanemap (w a) : exec (.lanemap w a) s = execLanemap w a s := rfl
theorem exec_add (w d a b) : exec (.add w d a b) s = execAdd w d a b s := rfl
theorem exec_sub (w d a b) : exec (.sub w d a b) s = execSub w d a b s := rfl
theorem exec_and (w d a b) : exec (.and w d a b) s = execAnd w d a b s := rfl
theorem exec_or (w d a b) : exec (.or w d a b) s = execOr w d a b s := rfl
theorem exec_xor (w d a b) : exec (.xor w d a b) s = execXor w d a b s := rfl
theorem exec_andn (w d a b) : exec (.andn w d a b) s = execAndn w d a b s := rfl
theorem exec_shl (w d a b) : exec (.shl w d a b) s = execShl w d a b s := rfl
theorem exec_shr (w d a b) : exec (.shr w d a b) s = execShr w d a b s := rfl
theorem exec_sar (w d a b) : exec (.sar w d a b) s = execSar w d a b s := rfl
theorem exec_rol (w d a b) : exec (.rol w d a b) s = execRol w d a b s := rfl
theorem exec_slt (w d a b) : exec (.slt w d a b) s = execSlt w d a b s := rfl
theorem exec_sltn (w d a b) : exec (.sltn w d a b) s = execSltn w d a b s := rfl
theorem exec_min (w d a b) : exec (.min w d a b) s = execMin w d a b s := rfl
theorem exec_max (w d a b) : exec (.max w d a b) s = execMax w d a b s := rfl
theorem exec_minn (w d a b) : exec (.minn w d a b) s = execMinn w d a b s := rfl
theorem exec_maxn (w d a b) : exec (.maxn w d a b) s = execMaxn w d a b s := rfl
theorem exec_mul (w d a b) : exec (.mul w d a b) s = execMul w d a b s := rfl
theorem exec_mulh (w d a b) : exec (.mulh w d a b) s = execMulh w d a b s := rfl
theorem exec_mulhn (w d a b) : exec (.mulhn w d a b) s = execMulhn w d a b s := rfl
theorem exec_div (w d a b) : exec (.div w d a b) s = execDiv w d a b s := rfl
theorem exec_divn (w d a b) : exec (.divn w d a b) s = execDivn w d a b s := rfl
theorem exec_rem (w d a b) : exec (.rem w d a b) s = execRem w d a b s := rfl
theorem exec_remn (w d a b) : exec (.remn w d a b) s = execRemn w d a b s := rfl
theorem exec_clz (w d a) : exec (.clz w d a) s = execClz w d a s := rfl
theorem exec_ctz (w d a) : exec (.ctz w d a) s = execCtz w d a s := rfl
theorem exec_popc (w d a) : exec (.popc w d a) s = execPopc w d a s := rfl
theorem exec_sext (w d a k) : exec (.sext w d a k) s = execSext w d a k s := rfl
theorem exec_zext (w d a k) : exec (.zext w d a k) s = execZext w d a k s := rfl
theorem exec_addi (w d a imm) : exec (.addi w d a imm) s = execAddi w d a imm s := rfl
theorem exec_andi (w d a imm) : exec (.andi w d a imm) s = execAndi w d a imm s := rfl
theorem exec_ori (w d a imm) : exec (.ori w d a imm) s = execOri w d a imm s := rfl
theorem exec_xori (w d a imm) : exec (.xori w d a imm) s = execXori w d a imm s := rfl
theorem exec_shli (w d a sh) : exec (.shli w d a sh) s = execShli w d a sh s := rfl
theorem exec_shri (w d a sh) : exec (.shri w d a sh) s = execShri w d a sh s := rfl
theorem exec_sari (w d a sh) : exec (.sari w d a sh) s = execSari w d a sh s := rfl
theorem exec_ldk (w d k imm) : exec (.ldk w d k imm) s = execLdk w d k imm s := rfl
theorem exec_beq (w a b off) : exec (.beq w a b off) s = execBeq w a b off s := rfl
theorem exec_bne (w a b off) : exec (.bne w a b off) s = execBne w a b off s := rfl
theorem exec_blt (w a b off) : exec (.blt w a b off) s = execBlt w a b off s := rfl
theorem exec_bge (w a b off) : exec (.bge w a b off) s = execBge w a b off s := rfl
theorem exec_bltn (w a b off) : exec (.bltn w a b off) s = execBltn w a b off s := rfl
theorem exec_bgen (w a b off) : exec (.bgen w a b off) s = execBgen w a b off s := rfl
theorem exec_ssb (w a b off) : exec (.ssb w a b off) s = execSsb w a b off s := rfl
theorem exec_jal (w d off) : exec (.jal w d off) s = execJal w d off s := rfl
theorem exec_ldB (w d a b c) : exec (.ldB w d a b c) s = execLdB w d a b c s := rfl
theorem exec_ldH (w d a b c) : exec (.ldH w d a b c) s = execLdH w d a b c s := rfl
theorem exec_ldW (w d a b c) : exec (.ldW w d a b c) s = execLdW w d a b c s := rfl
theorem exec_ldD (w d a b c) : exec (.ldD w d a b c) s = execLdD w d a b c s := rfl
theorem exec_stB (w d a b c) : exec (.stB w d a b c) s = execStB w d a b c s := rfl
theorem exec_stH (w d a b c) : exec (.stH w d a b c) s = execStH w d a b c s := rfl
theorem exec_stW (w d a b c) : exec (.stW w d a b c) s = execStW w d a b c s := rfl
theorem exec_stD (w d a b c) : exec (.stD w d a b c) s = execStD w d a b c s := rfl
theorem exec_ldEAdd (w d a b c) : exec (.ldEAdd w d a b c) s = execLdEAdd w d a b c s := rfl
theorem exec_ldEFadd (w d a b c) : exec (.ldEFadd w d a b c) s = execLdEFadd w d a b c s := rfl
theorem exec_ldEMin (w d a b c) : exec (.ldEMin w d a b c) s = execLdEMin w d a b c s := rfl
theorem exec_ldEMax (w d a b c) : exec (.ldEMax w d a b c) s = execLdEMax w d a b c s := rfl
theorem exec_ldEMinn (w d a b c) : exec (.ldEMinn w d a b c) s = execLdEMinn w d a b c s := rfl
theorem exec_ldEMaxn (w d a b c) : exec (.ldEMaxn w d a b c) s = execLdEMaxn w d a b c s := rfl
theorem exec_ldEAnd (w d a b c) : exec (.ldEAnd w d a b c) s = execLdEAnd w d a b c s := rfl
theorem exec_ldEOr (w d a b c) : exec (.ldEOr w d a b c) s = execLdEOr w d a b c s := rfl
theorem exec_ldEXor (w d a b c) : exec (.ldEXor w d a b c) s = execLdEXor w d a b c s := rfl
theorem exec_stE (w d a b c) : exec (.stE w d a b c) s = execStE w d a b c s := rfl
theorem exec_amoEAdd (w d a b c) : exec (.amoEAdd w d a b c) s = execAmoEAdd w d a b c s := rfl
theorem exec_amoEOr (w d a b c) : exec (.amoEOr w d a b c) s = execAmoEOr w d a b c s := rfl
theorem exec_amoEAnd (w d a b c) : exec (.amoEAnd w d a b c) s = execAmoEAnd w d a b c s := rfl
theorem exec_amoEMax (w d a b c) : exec (.amoEMax w d a b c) s = execAmoEMax w d a b c s := rfl
theorem exec_amoAddCl (w d a b c) : exec (.amoAddCl w d a b c) s = execAmoAddCl w d a b c s := rfl
theorem exec_amoAddSl (w d a b c) : exec (.amoAddSl w d a b c) s = execAmoAddSl w d a b c s := rfl
theorem exec_amoAddSt (w d a b c) : exec (.amoAddSt w d a b c) s = execAmoAddSt w d a b c s := rfl
theorem exec_amoAddMo (w d a b c) : exec (.amoAddMo w d a b c) s = execAmoAddMo w d a b c s := rfl
theorem exec_amoAddPo (w d a b c) : exec (.amoAddPo w d a b c) s = execAmoAddPo w d a b c s := rfl
theorem exec_amoAddSy (w d a b c) : exec (.amoAddSy w d a b c) s = execAmoAddSy w d a b c s := rfl
theorem exec_amoFaddCl (w d a b c) : exec (.amoFaddCl w d a b c) s = execAmoFaddCl w d a b c s := rfl
theorem exec_amoFaddSl (w d a b c) : exec (.amoFaddSl w d a b c) s = execAmoFaddSl w d a b c s := rfl
theorem exec_amoFaddSt (w d a b c) : exec (.amoFaddSt w d a b c) s = execAmoFaddSt w d a b c s := rfl
theorem exec_amoFaddMo (w d a b c) : exec (.amoFaddMo w d a b c) s = execAmoFaddMo w d a b c s := rfl
theorem exec_amoFaddPo (w d a b c) : exec (.amoFaddPo w d a b c) s = execAmoFaddPo w d a b c s := rfl
theorem exec_amoFaddSy (w d a b c) : exec (.amoFaddSy w d a b c) s = execAmoFaddSy w d a b c s := rfl
theorem exec_amoMinCl (w d a b c) : exec (.amoMinCl w d a b c) s = execAmoMinCl w d a b c s := rfl
theorem exec_amoMinSl (w d a b c) : exec (.amoMinSl w d a b c) s = execAmoMinSl w d a b c s := rfl
theorem exec_amoMinSt (w d a b c) : exec (.amoMinSt w d a b c) s = execAmoMinSt w d a b c s := rfl
theorem exec_amoMinMo (w d a b c) : exec (.amoMinMo w d a b c) s = execAmoMinMo w d a b c s := rfl
theorem exec_amoMinPo (w d a b c) : exec (.amoMinPo w d a b c) s = execAmoMinPo w d a b c s := rfl
theorem exec_amoMinSy (w d a b c) : exec (.amoMinSy w d a b c) s = execAmoMinSy w d a b c s := rfl
theorem exec_amoMaxCl (w d a b c) : exec (.amoMaxCl w d a b c) s = execAmoMaxCl w d a b c s := rfl
theorem exec_amoMaxSl (w d a b c) : exec (.amoMaxSl w d a b c) s = execAmoMaxSl w d a b c s := rfl
theorem exec_amoMaxSt (w d a b c) : exec (.amoMaxSt w d a b c) s = execAmoMaxSt w d a b c s := rfl
theorem exec_amoMaxMo (w d a b c) : exec (.amoMaxMo w d a b c) s = execAmoMaxMo w d a b c s := rfl
theorem exec_amoMaxPo (w d a b c) : exec (.amoMaxPo w d a b c) s = execAmoMaxPo w d a b c s := rfl
theorem exec_amoMaxSy (w d a b c) : exec (.amoMaxSy w d a b c) s = execAmoMaxSy w d a b c s := rfl
theorem exec_amoAndCl (w d a b c) : exec (.amoAndCl w d a b c) s = execAmoAndCl w d a b c s := rfl
theorem exec_amoAndSl (w d a b c) : exec (.amoAndSl w d a b c) s = execAmoAndSl w d a b c s := rfl
theorem exec_amoAndSt (w d a b c) : exec (.amoAndSt w d a b c) s = execAmoAndSt w d a b c s := rfl
theorem exec_amoAndMo (w d a b c) : exec (.amoAndMo w d a b c) s = execAmoAndMo w d a b c s := rfl
theorem exec_amoAndPo (w d a b c) : exec (.amoAndPo w d a b c) s = execAmoAndPo w d a b c s := rfl
theorem exec_amoAndSy (w d a b c) : exec (.amoAndSy w d a b c) s = execAmoAndSy w d a b c s := rfl
theorem exec_amoOrCl (w d a b c) : exec (.amoOrCl w d a b c) s = execAmoOrCl w d a b c s := rfl
theorem exec_amoOrSl (w d a b c) : exec (.amoOrSl w d a b c) s = execAmoOrSl w d a b c s := rfl
theorem exec_amoOrSt (w d a b c) : exec (.amoOrSt w d a b c) s = execAmoOrSt w d a b c s := rfl
theorem exec_amoOrMo (w d a b c) : exec (.amoOrMo w d a b c) s = execAmoOrMo w d a b c s := rfl
theorem exec_amoOrPo (w d a b c) : exec (.amoOrPo w d a b c) s = execAmoOrPo w d a b c s := rfl
theorem exec_amoOrSy (w d a b c) : exec (.amoOrSy w d a b c) s = execAmoOrSy w d a b c s := rfl
theorem exec_amoSwapCl (w d a b c) : exec (.amoSwapCl w d a b c) s = execAmoSwapCl w d a b c s := rfl
theorem exec_amoSwapSl (w d a b c) : exec (.amoSwapSl w d a b c) s = execAmoSwapSl w d a b c s := rfl
theorem exec_amoSwapSt (w d a b c) : exec (.amoSwapSt w d a b c) s = execAmoSwapSt w d a b c s := rfl
theorem exec_amoSwapMo (w d a b c) : exec (.amoSwapMo w d a b c) s = execAmoSwapMo w d a b c s := rfl
theorem exec_amoSwapPo (w d a b c) : exec (.amoSwapPo w d a b c) s = execAmoSwapPo w d a b c s := rfl
theorem exec_amoSwapSy (w d a b c) : exec (.amoSwapSy w d a b c) s = execAmoSwapSy w d a b c s := rfl
theorem exec_amoCasCl (w d a b c) : exec (.amoCasCl w d a b c) s = execAmoCasCl w d a b c s := rfl
theorem exec_amoCasSl (w d a b c) : exec (.amoCasSl w d a b c) s = execAmoCasSl w d a b c s := rfl
theorem exec_amoCasSt (w d a b c) : exec (.amoCasSt w d a b c) s = execAmoCasSt w d a b c s := rfl
theorem exec_amoCasMo (w d a b c) : exec (.amoCasMo w d a b c) s = execAmoCasMo w d a b c s := rfl
theorem exec_amoCasPo (w d a b c) : exec (.amoCasPo w d a b c) s = execAmoCasPo w d a b c s := rfl
theorem exec_amoCasSy (w d a b c) : exec (.amoCasSy w d a b c) s = execAmoCasSy w d a b c s := rfl
theorem exec_vldEAdd (w d a b c) : exec (.vldEAdd w d a b c) s = execVldEAdd w d a b c s := rfl
theorem exec_vldEFadd (w d a b c) : exec (.vldEFadd w d a b c) s = execVldEFadd w d a b c s := rfl
theorem exec_vldEMin (w d a b c) : exec (.vldEMin w d a b c) s = execVldEMin w d a b c s := rfl
theorem exec_vldEMax (w d a b c) : exec (.vldEMax w d a b c) s = execVldEMax w d a b c s := rfl
theorem exec_vldEMinn (w d a b c) : exec (.vldEMinn w d a b c) s = execVldEMinn w d a b c s := rfl
theorem exec_vldEMaxn (w d a b c) : exec (.vldEMaxn w d a b c) s = execVldEMaxn w d a b c s := rfl
theorem exec_vldEAnd (w d a b c) : exec (.vldEAnd w d a b c) s = execVldEAnd w d a b c s := rfl
theorem exec_vldEOr (w d a b c) : exec (.vldEOr w d a b c) s = execVldEOr w d a b c s := rfl
theorem exec_vldEXor (w d a b c) : exec (.vldEXor w d a b c) s = execVldEXor w d a b c s := rfl
theorem exec_vstE (w d a b c) : exec (.vstE w d a b c) s = execVstE w d a b c s := rfl
theorem exec_vamoAddCl (w d a b c) : exec (.vamoAddCl w d a b c) s = execVamoAddCl w d a b c s := rfl
theorem exec_vamoAddSl (w d a b c) : exec (.vamoAddSl w d a b c) s = execVamoAddSl w d a b c s := rfl
theorem exec_vamoAddSt (w d a b c) : exec (.vamoAddSt w d a b c) s = execVamoAddSt w d a b c s := rfl
theorem exec_vamoAddMo (w d a b c) : exec (.vamoAddMo w d a b c) s = execVamoAddMo w d a b c s := rfl
theorem exec_vamoAddPo (w d a b c) : exec (.vamoAddPo w d a b c) s = execVamoAddPo w d a b c s := rfl
theorem exec_vamoAddSy (w d a b c) : exec (.vamoAddSy w d a b c) s = execVamoAddSy w d a b c s := rfl
theorem exec_vamoFaddCl (w d a b c) : exec (.vamoFaddCl w d a b c) s = execVamoFaddCl w d a b c s := rfl
theorem exec_vamoFaddSl (w d a b c) : exec (.vamoFaddSl w d a b c) s = execVamoFaddSl w d a b c s := rfl
theorem exec_vamoFaddSt (w d a b c) : exec (.vamoFaddSt w d a b c) s = execVamoFaddSt w d a b c s := rfl
theorem exec_vamoFaddMo (w d a b c) : exec (.vamoFaddMo w d a b c) s = execVamoFaddMo w d a b c s := rfl
theorem exec_vamoFaddPo (w d a b c) : exec (.vamoFaddPo w d a b c) s = execVamoFaddPo w d a b c s := rfl
theorem exec_vamoFaddSy (w d a b c) : exec (.vamoFaddSy w d a b c) s = execVamoFaddSy w d a b c s := rfl
theorem exec_vamoMinCl (w d a b c) : exec (.vamoMinCl w d a b c) s = execVamoMinCl w d a b c s := rfl
theorem exec_vamoMinSl (w d a b c) : exec (.vamoMinSl w d a b c) s = execVamoMinSl w d a b c s := rfl
theorem exec_vamoMinSt (w d a b c) : exec (.vamoMinSt w d a b c) s = execVamoMinSt w d a b c s := rfl
theorem exec_vamoMinMo (w d a b c) : exec (.vamoMinMo w d a b c) s = execVamoMinMo w d a b c s := rfl
theorem exec_vamoMinPo (w d a b c) : exec (.vamoMinPo w d a b c) s = execVamoMinPo w d a b c s := rfl
theorem exec_vamoMinSy (w d a b c) : exec (.vamoMinSy w d a b c) s = execVamoMinSy w d a b c s := rfl
theorem exec_vamoMaxCl (w d a b c) : exec (.vamoMaxCl w d a b c) s = execVamoMaxCl w d a b c s := rfl
theorem exec_vamoMaxSl (w d a b c) : exec (.vamoMaxSl w d a b c) s = execVamoMaxSl w d a b c s := rfl
theorem exec_vamoMaxSt (w d a b c) : exec (.vamoMaxSt w d a b c) s = execVamoMaxSt w d a b c s := rfl
theorem exec_vamoMaxMo (w d a b c) : exec (.vamoMaxMo w d a b c) s = execVamoMaxMo w d a b c s := rfl
theorem exec_vamoMaxPo (w d a b c) : exec (.vamoMaxPo w d a b c) s = execVamoMaxPo w d a b c s := rfl
theorem exec_vamoMaxSy (w d a b c) : exec (.vamoMaxSy w d a b c) s = execVamoMaxSy w d a b c s := rfl
theorem exec_vamoAndCl (w d a b c) : exec (.vamoAndCl w d a b c) s = execVamoAndCl w d a b c s := rfl
theorem exec_vamoAndSl (w d a b c) : exec (.vamoAndSl w d a b c) s = execVamoAndSl w d a b c s := rfl
theorem exec_vamoAndSt (w d a b c) : exec (.vamoAndSt w d a b c) s = execVamoAndSt w d a b c s := rfl
theorem exec_vamoAndMo (w d a b c) : exec (.vamoAndMo w d a b c) s = execVamoAndMo w d a b c s := rfl
theorem exec_vamoAndPo (w d a b c) : exec (.vamoAndPo w d a b c) s = execVamoAndPo w d a b c s := rfl
theorem exec_vamoAndSy (w d a b c) : exec (.vamoAndSy w d a b c) s = execVamoAndSy w d a b c s := rfl
theorem exec_vamoOrCl (w d a b c) : exec (.vamoOrCl w d a b c) s = execVamoOrCl w d a b c s := rfl
theorem exec_vamoOrSl (w d a b c) : exec (.vamoOrSl w d a b c) s = execVamoOrSl w d a b c s := rfl
theorem exec_vamoOrSt (w d a b c) : exec (.vamoOrSt w d a b c) s = execVamoOrSt w d a b c s := rfl
theorem exec_vamoOrMo (w d a b c) : exec (.vamoOrMo w d a b c) s = execVamoOrMo w d a b c s := rfl
theorem exec_vamoOrPo (w d a b c) : exec (.vamoOrPo w d a b c) s = execVamoOrPo w d a b c s := rfl
theorem exec_vamoOrSy (w d a b c) : exec (.vamoOrSy w d a b c) s = execVamoOrSy w d a b c s := rfl
theorem exec_vamoRetry (w d a b c) : exec (.vamoRetry w d a b c) s = execVamoRetry w d a b c s := rfl
theorem exec_setvl (w d a b) : exec (.setvl w d a b) s = execSetvl w d a b s := rfl
theorem exec_mand (w d a b p) : exec (.mand w d a b p) s = execMand w d a b p s := rfl
theorem exec_mor (w d a b p) : exec (.mor w d a b p) s = execMor w d a b p s := rfl
theorem exec_mxor (w d a b p) : exec (.mxor w d a b p) s = execMxor w d a b p s := rfl
theorem exec_mandn (w d a b p) : exec (.mandn w d a b p) s = execMandn w d a b p s := rfl
theorem exec_mnot (w d a p) : exec (.mnot w d a p) s = execMnot w d a p s := rfl
theorem exec_mshl (w d a b) : exec (.mshl w d a b) s = execMshl w d a b s := rfl
theorem exec_mshr (w d a b) : exec (.mshr w d a b) s = execMshr w d a b s := rfl
theorem exec_mpop (w d a p) : exec (.mpop w d a p) s = execMpop w d a p s := rfl
theorem exec_mfirst (w d a p) : exec (.mfirst w d a p) s = execMfirst w d a p s := rfl
theorem exec_mget (w d p) : exec (.mget w d p) s = execMget w d p s := rfl
theorem exec_mput (w d a b) : exec (.mput w d a b) s = execMput w d a b s := rfl
theorem exec_mset (w d p) : exec (.mset w d p) s = execMset w d p s := rfl
theorem exec_mclr (w d p) : exec (.mclr w d p) s = execMclr w d p s := rfl
theorem exec_vadd (w d a b p) : exec (.vadd w d a b p) s = execVadd w d a b p s := rfl
theorem exec_vsub (w d a b p) : exec (.vsub w d a b p) s = execVsub w d a b p s := rfl
theorem exec_vadc (w d a b k) : exec (.vadc w d a b k) s = execVadc w d a b k s := rfl
theorem exec_vsbc (w d a b k) : exec (.vsbc w d a b k) s = execVsbc w d a b k s := rfl
theorem exec_vmul (w d a b p) : exec (.vmul w d a b p) s = execVmul w d a b p s := rfl
theorem exec_vmulh (w d a b p) : exec (.vmulh w d a b p) s = execVmulh w d a b p s := rfl
theorem exec_vmulhn (w d a b p) : exec (.vmulhn w d a b p) s = execVmulhn w d a b p s := rfl
theorem exec_vmacc (w d a b p) : exec (.vmacc w d a b p) s = execVmacc w d a b p s := rfl
theorem exec_vand (w d a b p) : exec (.vand w d a b p) s = execVand w d a b p s := rfl
theorem exec_vor (w d a b p) : exec (.vor w d a b p) s = execVor w d a b p s := rfl
theorem exec_vxor (w d a b p) : exec (.vxor w d a b p) s = execVxor w d a b p s := rfl
theorem exec_vshl (w d a b p) : exec (.vshl w d a b p) s = execVshl w d a b p s := rfl
theorem exec_vshr (w d a b p) : exec (.vshr w d a b p) s = execVshr w d a b p s := rfl
theorem exec_vsar (w d a b p) : exec (.vsar w d a b p) s = execVsar w d a b p s := rfl
theorem exec_vmin (w d a b p) : exec (.vmin w d a b p) s = execVmin w d a b p s := rfl
theorem exec_vmax (w d a b p) : exec (.vmax w d a b p) s = execVmax w d a b p s := rfl
theorem exec_vminn (w d a b p) : exec (.vminn w d a b p) s = execVminn w d a b p s := rfl
theorem exec_vmaxn (w d a b p) : exec (.vmaxn w d a b p) s = execVmaxn w d a b p s := rfl
theorem exec_vceq (w d a b p) : exec (.vceq w d a b p) s = execVceq w d a b p s := rfl
theorem exec_vcne (w d a b p) : exec (.vcne w d a b p) s = execVcne w d a b p s := rfl
theorem exec_vclt (w d a b p) : exec (.vclt w d a b p) s = execVclt w d a b p s := rfl
theorem exec_vcle (w d a b p) : exec (.vcle w d a b p) s = execVcle w d a b p s := rfl
theorem exec_vcltn (w d a b p) : exec (.vcltn w d a b p) s = execVcltn w d a b p s := rfl
theorem exec_vclen (w d a b p) : exec (.vclen w d a b p) s = execVclen w d a b p s := rfl
theorem exec_vsel (w d a b p) : exec (.vsel w d a b p) s = execVsel w d a b p s := rfl
theorem exec_vabsd (w d a b p) : exec (.vabsd w d a b p) s = execVabsd w d a b p s := rfl
theorem exec_vsadd (w d a b p) : exec (.vsadd w d a b p) s = execVsadd w d a b p s := rfl
theorem exec_vssub (w d a b p) : exec (.vssub w d a b p) s = execVssub w d a b p s := rfl
theorem exec_vgen (w d a b p) : exec (.vgen w d a b p) s = execVgen w d a b p s := rfl
theorem exec_vmov (w d b p) : exec (.vmov w d b p) s = execVmov w d b p s := rfl
theorem exec_vfadd (w d a b p) : exec (.vfadd w d a b p) s = execVfadd w d a b p s := rfl
theorem exec_vfsub (w d a b p) : exec (.vfsub w d a b p) s = execVfsub w d a b p s := rfl
theorem exec_vfmul (w d a b p) : exec (.vfmul w d a b p) s = execVfmul w d a b p s := rfl
theorem exec_vfma (w d a b p) : exec (.vfma w d a b p) s = execVfma w d a b p s := rfl
theorem exec_vfms (w d a b p) : exec (.vfms w d a b p) s = execVfms w d a b p s := rfl
theorem exec_vfnma (w d a b p) : exec (.vfnma w d a b p) s = execVfnma w d a b p s := rfl
theorem exec_vfdiv (w d a b p) : exec (.vfdiv w d a b p) s = execVfdiv w d a b p s := rfl
theorem exec_vfsqrt (w d b p) : exec (.vfsqrt w d b p) s = execVfsqrt w d b p s := rfl
theorem exec_vfmin (w d a b p) : exec (.vfmin w d a b p) s = execVfmin w d a b p s := rfl
theorem exec_vfmax (w d a b p) : exec (.vfmax w d a b p) s = execVfmax w d a b p s := rfl
theorem exec_vfceq (w d a b p) : exec (.vfceq w d a b p) s = execVfceq w d a b p s := rfl
theorem exec_vfclt (w d a b p) : exec (.vfclt w d a b p) s = execVfclt w d a b p s := rfl
theorem exec_vfcle (w d a b p) : exec (.vfcle w d a b p) s = execVfcle w d a b p s := rfl
theorem exec_vfcun (w d a b p) : exec (.vfcun w d a b p) s = execVfcun w d a b p s := rfl
theorem exec_vfabs (w d b p) : exec (.vfabs w d b p) s = execVfabs w d b p s := rfl
theorem exec_vfneg (w d b p) : exec (.vfneg w d b p) s = execVfneg w d b p s := rfl
theorem exec_vfsgn (w d a b p) : exec (.vfsgn w d a b p) s = execVfsgn w d a b p s := rfl
theorem exec_vfrecp (w d b p) : exec (.vfrecp w d b p) s = execVfrecp w d b p s := rfl
theorem exec_vfrsqe (w d b p) : exec (.vfrsqe w d b p) s = execVfrsqe w d b p s := rfl
theorem exec_vfclass (w d b p) : exec (.vfclass w d b p) s = execVfclass w d b p s := rfl
theorem exec_vfscal (w d a b p) : exec (.vfscal w d a b p) s = execVfscal w d a b p s := rfl
theorem exec_vld (w d a b c p) : exec (.vld w d a b c p) s = execVld w d a b c p s := rfl
theorem exec_vlds (w d a b c p) : exec (.vlds w d a b c p) s = execVlds w d a b c p s := rfl
theorem exec_vldx (w d a b c p) : exec (.vldx w d a b c p) s = execVldx w d a b c p s := rfl
theorem exec_vst (w d a b c p) : exec (.vst w d a b c p) s = execVst w d a b c p s := rfl
theorem exec_vsts (w d a b c p) : exec (.vsts w d a b c p) s = execVsts w d a b c p s := rfl
theorem exec_vstx (w d a b c p) : exec (.vstx w d a b c p) s = execVstx w d a b c p s := rfl
theorem exec_vldq (w d a b c) : exec (.vldq w d a b c) s = execVldq w d a b c s := rfl
theorem exec_vstq (w d a b c) : exec (.vstq w d a b c) s = execVstq w d a b c s := rfl
theorem exec_vxch (w d a b p) : exec (.vxch w d a b p) s = execVxch w d a b p s := rfl
theorem exec_vslup (w d a b p) : exec (.vslup w d a b p) s = execVslup w d a b p s := rfl
theorem exec_vsldn (w d a b p) : exec (.vsldn w d a b p) s = execVsldn w d a b p s := rfl
theorem exec_vperm (w d a b p) : exec (.vperm w d a b p) s = execVperm w d a b p s := rfl
theorem exec_vcmpr (w d a p) : exec (.vcmpr w d a p) s = execVcmpr w d a p s := rfl
theorem exec_vexpd (w d a p) : exec (.vexpd w d a p) s = execVexpd w d a p s := rfl
theorem exec_vrank (w d p) : exec (.vrank w d p) s = execVrank w d p s := rfl
theorem exec_vredsum (w d a p) : exec (.vredsum w d a p) s = execVredsum w d a p s := rfl
theorem exec_vredmin (w d a p) : exec (.vredmin w d a p) s = execVredmin w d a p s := rfl
theorem exec_vredmax (w d a p) : exec (.vredmax w d a p) s = execVredmax w d a p s := rfl
theorem exec_vredand (w d a p) : exec (.vredand w d a p) s = execVredand w d a p s := rfl
theorem exec_vredor (w d a p) : exec (.vredor w d a p) s = execVredor w d a p s := rfl
theorem exec_vfredsum (w d a p) : exec (.vfredsum w d a p) s = execVfredsum w d a p s := rfl
theorem exec_vfredmin (w d a p) : exec (.vfredmin w d a p) s = execVfredmin w d a p s := rfl
theorem exec_vfredmax (w d a p) : exec (.vfredmax w d a p) s = execVfredmax w d a p s := rfl
theorem exec_vfdot (w d a b p) : exec (.vfdot w d a b p) s = execVfdot w d a b p s := rfl
theorem exec_vcvt (w d a b p) : exec (.vcvt w d a b p) s = execVcvt w d a b p s := rfl
theorem exec_vext (w d a b) : exec (.vext w d a b) s = execVext w d a b s := rfl
theorem exec_vins (w d a b) : exec (.vins w d a b) s = execVins w d a b s := rfl
theorem exec_vvacc (w d a b p) : exec (.vvacc w d a b p) s = execVvacc w d a b p s := rfl
theorem exec_vrescl (w d a b p) : exec (.vrescl w d a b p) s = execVrescl w d a b p s := rfl
theorem exec_spOpen (w d a b) : exec (.spOpen w d a b) s = execSpOpen w d a b s := rfl
theorem exec_spBind (w d a b) : exec (.spBind w d a b) s = execSpBind w d a b s := rfl
theorem exec_spGath (w d a b) : exec (.spGath w d a b) s = execSpGath w d a b s := rfl
theorem exec_spIsect (w d a b) : exec (.spIsect w d a b) s = execSpIsect w d a b s := rfl
theorem exec_spUnion (w d a b k) : exec (.spUnion w d a b k) s = execSpUnion w d a b k s := rfl
theorem exec_spSkip (w d a) : exec (.spSkip w d a) s = execSpSkip w d a s := rfl
theorem exec_spCrd (w d a p) : exec (.spCrd w d a p) s = execSpCrd w d a p s := rfl
theorem exec_spPos (w d a p) : exec (.spPos w d a p) s = execSpPos w d a p s := rfl
theorem exec_spTake (w d a b) : exec (.spTake w d a b) s = execSpTake w d a b s := rfl
theorem exec_spSave (w d a) : exec (.spSave w d a) s = execSpSave w d a s := rfl
theorem exec_spRest (w d a) : exec (.spRest w d a) s = execSpRest w d a s := rfl
theorem exec_spClose (w d) : exec (.spClose w d) s = execSpClose w d s := rfl
theorem exec_cxAcc (w d a b p) : exec (.cxAcc w d a b p) s = execCxAcc w d a b p s := rfl
theorem exec_cxGet (w d a b p) : exec (.cxGet w d a b p) s = execCxGet w d a b p s := rfl
theorem exec_cxDrain (w d) : exec (.cxDrain w d) s = execCxDrain w d s := rfl
theorem exec_cxClr (w) : exec (.cxClr w) s = execCxClr w s := rfl
theorem exec_vprune (w d a b p) : exec (.vprune w d a b p) s = execVprune w d a b p s := rfl
theorem exec_grmBind (w a) : exec (.grmBind w a) s = execGrmBind w a s := rfl
theorem exec_grmEval (w a b) : exec (.grmEval w a b) s = execGrmEval w a b s := rfl
theorem exec_grmOut (w d a b p) : exec (.grmOut w d a b p) s = execGrmOut w d a b p s := rfl
theorem exec_mxClaim (w d a) : exec (.mxClaim w d a) s = execMxClaim w d a s := rfl
theorem exec_mxRel (w a) : exec (.mxRel w a) s = execMxRel w a s := rfl
theorem exec_mxZero (w a) : exec (.mxZero w a) s = execMxZero w a s := rfl
theorem exec_mxMm (w d a b) : exec (.mxMm w d a b) s = execMxMm w d a b s := rfl
theorem exec_mxMms (w d a b k) : exec (.mxMms w d a b k) s = execMxMms w d a b k s := rfl
theorem exec_mxCfg (w a) : exec (.mxCfg w a) s = execMxCfg w a s := rfl
theorem exec_mxCoop (w a) : exec (.mxCoop w a) s = execMxCoop w a s := rfl
theorem exec_mxWait (w) : exec (.mxWait w) s = execMxWait w s := rfl
theorem exec_mxCvt (w a) : exec (.mxCvt w a) s = execMxCvt w a s := rfl
theorem exec_vto (w d a b p) : exec (.vto w d a b p) s = execVto w d a b p s := rfl
theorem exec_vfrom (w d a b p) : exec (.vfrom w d a b p) s = execVfrom w d a b p s := rfl
theorem exec_fork (w a b) : exec (.fork w a b) s = execFork w a b s := rfl
theorem exec_rdv (w a) : exec (.rdv w a) s = execRdv w a s := rfl
theorem exec_dmaSg (w d a ch) : exec (.dmaSg w d a ch) s = execDmaSg w d a ch s := rfl
theorem exec_dmaLay (w d a b ch) : exec (.dmaLay w d a b ch) s = execDmaLay w d a b ch s := rfl
theorem exec_dmaWait (w a ch) : exec (.dmaWait w a ch) s = execDmaWait w a ch s := rfl
theorem exec_dmaSt (w d a ch) : exec (.dmaSt w d a ch) s = execDmaSt w d a ch s := rfl
theorem exec_pub (w a) : exec (.pub w a) s = execPub w a s := rfl
theorem exec_barInit (w a b) : exec (.barInit w a b) s = execBarInit w a b s := rfl
theorem exec_barArr (w a b) : exec (.barArr w a b) s = execBarArr w a b s := rfl
theorem exec_barWait (w d a b) : exec (.barWait w d a b) s = execBarWait w d a b s := rfl
theorem exec_netSend (w d a ch) : exec (.netSend w d a ch) s = execNetSend w d a ch s := rfl
theorem exec_netMist (w d a ch) : exec (.netMist w d a ch) s = execNetMist w d a ch s := rfl
theorem exec_netFetch (w d a ch) : exec (.netFetch w d a ch) s = execNetFetch w d a ch s := rfl
theorem exec_netWait (w d a ch) : exec (.netWait w d a ch) s = execNetWait w d a ch s := rfl
theorem exec_tickWait (w d a) : exec (.tickWait w d a) s = execTickWait w d a s := rfl
theorem exec_pfx (pred inv creg cv) : exec (.pfx pred inv creg cv) s = execPfx pred inv creg cv s := rfl
theorem exec_trapEntry (h) : exec (.trapEntry h) s = execTrapEntry h s := rfl
theorem exec_wfeWake (h) : exec (.wfeWake h) s = execWfeWake h s := rfl
theorem exec_preemptionRequest (hs) : exec (.preemptionRequest hs) s = execPreemptionRequest hs s := rfl
theorem exec_graceWindowExpiry (h) : exec (.graceWindowExpiry h) s = execGraceWindowExpiry h s := rfl
theorem exec_launch (m rec) : exec (.launch m rec) s = execLaunch m rec s := rfl
theorem exec_graphReplay (m graph) : exec (.graphReplay m graph) s = execGraphReplay m graph s := rfl
theorem exec_patch (m graph node dst data) : exec (.patch m graph node dst data) s = execPatch m graph node dst data s := rfl
theorem exec_map (m r) : exec (.map m r) s = execMap m r s := rfl
theorem exec_unmap (m r) : exec (.unmap m r) s = execUnmap m r s := rfl
theorem exec_contextLoad (m root log) : exec (.contextLoad m root log) s = execContextLoad m root log s := rfl
theorem exec_contextSave (m) : exec (.contextSave m) s = execContextSave m s := rfl
theorem exec_gangSwitch (m out inc tick) : exec (.gangSwitch m out inc tick) s = execGangSwitch m out inc tick s := rfl
theorem exec_query (m item) : exec (.query m item) s = execQuery m item s := rfl
theorem exec_attestation (m nonce) : exec (.attestation m nonce) s = execAttestation m nonce s := rfl
theorem exec_partitionReset (m) : exec (.partitionReset m) s = execPartitionReset m s := rfl
theorem exec_shadowPreload (c) : exec (.shadowPreload c) s = execShadowPreload c s := rfl
theorem exec_gangSwitchTick (part) : exec (.gangSwitchTick part) s = execGangSwitchTick part s := rfl
theorem exec_clusterFlip (c) : exec (.clusterFlip c) s = execClusterFlip c s := rfl
theorem exec_granuleExchange (c g) : exec (.granuleExchange c g) s = execGranuleExchange c g s := rfl
theorem exec_walkerDispatch (c) : exec (.walkerDispatch c) s = execWalkerDispatch c s := rfl
theorem exec_launchCompletion (part ctx l) : exec (.launchCompletion part ctx l) s = execLaunchCompletion part ctx l s := rfl
theorem exec_priorityAging (part ctx l) : exec (.priorityAging part ctx l) s = execPriorityAging part ctx l s := rfl
theorem exec_gangLaunchTick (part ctx l) : exec (.gangLaunchTick part ctx l) s = execGangLaunchTick part ctx l s := rfl
theorem exec_stage2Fault (part ia ans) : exec (.stage2Fault part ia ans) s = execStage2Fault part ia ans s := rfl
theorem exec_pageMigration (part ia pa) : exec (.pageMigration part ia pa) s = execPageMigration part ia pa s := rfl
theorem exec_pageEviction (part) : exec (.pageEviction part) s = execPageEviction part s := rfl
theorem exec_spindleFetch (h sr) : exec (.spindleFetch h sr) s = execSpindleFetch h sr s := rfl
theorem exec_postedPartPerform (h k) : exec (.postedPartPerform h k) s = execPostedPartPerform h k s := rfl
theorem exec_loomOpStart (c) : exec (.loomOpStart c) s = execLoomOpStart c s := rfl
theorem exec_loomOpComplete (c) : exec (.loomOpComplete c) s = execLoomOpComplete c s := rfl
theorem exec_channelTransferStart (c ch) : exec (.channelTransferStart c ch) s = execChannelTransferStart c ch s := rfl
theorem exec_listElementStart (c ch id) : exec (.listElementStart c ch id) s = execListElementStart c ch id s := rfl
theorem exec_chunkTransfer (c ch id) : exec (.chunkTransfer c ch id) s = execChunkTransfer c ch id s := rfl
theorem exec_listElementComplete (c ch id) : exec (.listElementComplete c ch id) s = execListElementComplete c ch id s := rfl
theorem exec_fabricWritePacket (x pk) : exec (.fabricWritePacket x pk) s = execFabricWritePacket x pk s := rfl
theorem exec_fabricReadRequest (x pk) : exec (.fabricReadRequest x pk) s = execFabricReadRequest x pk s := rfl
theorem exec_mistAnnounce (x pk) : exec (.mistAnnounce x pk) s = execMistAnnounce x pk s := rfl
theorem exec_mistBlock (x blk crcGood data) : exec (.mistBlock x blk crcGood data) s = execMistBlock x blk crcGood data s := rfl
theorem exec_mistDeadline (x) : exec (.mistDeadline x) s = execMistDeadline x s := rfl
theorem exec_transferAck (c ch id missed) : exec (.transferAck c ch id missed) s = execTransferAck c ch id missed s := rfl
theorem exec_retryLimit (c ch id remote) : exec (.retryLimit c ch id remote) s = execRetryLimit c ch id remote s := rfl
theorem exec_sramScrub (loc found) : exec (.sramScrub loc found) s = execSramScrub loc found s := rfl
theorem exec_hbmPatrolScrub (unit found) : exec (.hbmPatrolScrub unit found) s = execHbmPatrolScrub unit found s := rfl
theorem exec_allBankRefresh (stack ch how) : exec (.allBankRefresh stack ch how) s = execAllBankRefresh stack ch how s := rfl
theorem exec_coldReset : exec .coldReset s = execColdReset s := rfl
theorem exec_warmReset (retrain) : exec (.warmReset retrain) s = execWarmReset retrain s := rfl
theorem exec_watchdogExpiry (retrain) : exec (.watchdogExpiry retrain) s = execWatchdogExpiry retrain s := rfl
theorem exec_debugUnlock (tok) : exec (.debugUnlock tok) s = execDebugUnlock tok s := rfl
theorem exec_powerRound (amps) : exec (.powerRound amps) s = execPowerRound amps s := rfl
theorem exec_overcurrentRevoke : exec .overcurrentRevoke s = execOvercurrentRevoke s := rfl
theorem exec_grantRestore : exec .grantRestore s = execGrantRestore s := rfl
theorem exec_syncLoss : exec .syncLoss s = execSyncLoss s := rfl
theorem exec_syncRegain : exec .syncRegain s = execSyncRegain s := rfl
theorem exec_illegalWord (word) : exec (.illegalWord word) s = execIllegalWord word s := rfl
theorem exec_instructionFetchFault (cause va) : exec (.instructionFetchFault cause va) s = execInstructionFetchFault cause va s := rfl
theorem exec_fixedLatencyResult (h) : exec (.fixedLatencyResult h) s = execFixedLatencyResult h s := rfl
theorem exec_accessPerformsAtHome (h c) : exec (.accessPerformsAtHome h c) s = execAccessPerformsAtHome h c s := rfl
theorem exec_shadowWritebackComplete (c) : exec (.shadowWritebackComplete c) s = execShadowWritebackComplete c s := rfl
theorem exec_frontTickReached (h) : exec (.frontTickReached h) s = execFrontTickReached h s := rfl
theorem exec_rmaReadResponse (c ch id data) : exec (.rmaReadResponse c ch id data) s = execRmaReadResponse c ch id data s := rfl
theorem exec_partitionCreate (part cl grace journal) : exec (.partitionCreate part cl grace journal) s = execPartitionCreate part cl grace journal s := rfl
theorem exec_fwcapWrite (amps) : exec (.fwcapWrite amps) s = execFwcapWrite amps s := rfl
theorem exec_retainFlagSet : exec .retainFlagSet s = execRetainFlagSet s := rfl
theorem exec_graceWindowForcedStop (h) : exec (.graceWindowForcedStop h) s = execGraceWindowForcedStop h s := rfl
theorem exec_slotBusyEnd (c o) : exec (.slotBusyEnd c o) s = execSlotBusyEnd c o s := rfl

end Sys2Proof.Machine
end

