-- ==== Sys2Proof/Laws/Table.lean ====
section
/-! SUPPORT. Laws of the finite maps and of memory: a read after a write, and the canonical form. -/

namespace Sys2Proof.Machine

/-! ### Maps -/

@[simp] theorem tget_tput_same {α : Type} (t : List (Nat × α)) (k : Nat) (x : α) : tget (tput t k x) k = some x := by
  induction t with
  | nil => simp [tput, tget]
  | cons e t ih =>
    obtain ⟨k', y⟩ := e
    unfold tput
    split
    · simp [tget]
    · split
      · simp [tget]
      · rename_i h _
        simp [tget, h, ih]

@[simp] theorem tget_tput_ne {α : Type} (t : List (Nat × α)) {j k : Nat} (x : α) (h : j ≠ k) :
    tget (tput t k x) j = tget t j := by
  induction t with
  | nil => simp [tput, tget, Ne.symm h]
  | cons e t ih =>
    obtain ⟨k', y⟩ := e
    unfold tput
    split
    · rename_i hk
      subst hk
      simp [tget, Ne.symm h]
    · split
      · simp [tget, Ne.symm h]
      · simp [tget, ih]

theorem tget_filter_same {α : Type} (t : List (Nat × α)) (p : Nat → Bool) (k : Nat) :
    tget (t.filter (fun e => p e.1)) k = if p k then tget t k else none := by
  induction t with
  | nil => simp [tget]
  | cons e t ih =>
    obtain ⟨k', y⟩ := e
    by_cases hk : k' = k
    · subst hk
      by_cases hp : p k' <;> simp_all [tget]
    · by_cases hp : p k' <;> simp_all [tget]

theorem tget_tdel {α : Type} (t : List (Nat × α)) (j k : Nat) :
    tget (tdel t k) j = if j = k then none else tget t j := by
  unfold tdel
  rw [tget_filter_same t (fun j => j != k)]
  by_cases h : j = k <;> simp [h]

/-- Replacing an entry twice is replacing it once. -/
@[simp] theorem tput_tput {α : Type} (t : List (Nat × α)) (k : Nat) (x y : α) : tput (tput t k x) k y = tput t k y := by
  induction t with
  | nil => simp [tput]
  | cons e t ih =>
    obtain ⟨k', z⟩ := e
    by_cases h : k' = k
    · simp [tput, h]
    · by_cases hlt : k < k'
      · simp [tput, h, hlt]
      · simp [tput, h, hlt, ih]

/-! ### Memory -/

@[simp] theorem Memory.read_write_same (m : Memory) (k : Nat) (b : Byte) : (m.write k b).read k = b := by
  unfold Memory.write Memory.read
  split
  · rename_i h
    simp [tget_tdel, h]
  · simp

@[simp] theorem Memory.read_write_ne (m : Memory) {j k : Nat} (b : Byte) (h : j ≠ k) :
    (m.write k b).read j = m.read j := by
  unfold Memory.write Memory.read
  split
  · simp [tget_tdel, h]
  · simp [h]

theorem Memory.wfFrom_mono {lo hi : Nat} {m : Memory} (h : Memory.wfFrom hi m = true) (hlo : lo ≤ hi) :
    Memory.wfFrom lo m = true := by
  cases m with
  | nil => rfl
  | cons e t =>
    obtain ⟨k, b⟩ := e
    simp only [Memory.wfFrom, Bool.and_eq_true, decide_eq_true_eq] at h ⊢
    exact ⟨⟨by omega, h.1.2⟩, h.2⟩

theorem Memory.wfFrom_filter (p : Host.Cell → Bool) {lo : Nat} {m : Memory} (h : Memory.wfFrom lo m = true) :
    Memory.wfFrom lo (m.filter p) = true := by
  induction m generalizing lo with
  | nil => rfl
  | cons e t ih =>
    obtain ⟨k, b⟩ := e
    simp only [Memory.wfFrom, Bool.and_eq_true, decide_eq_true_eq] at h
    rw [List.filter_cons]
    split
    · simp only [Memory.wfFrom, Bool.and_eq_true, decide_eq_true_eq]
      exact ⟨h.1, ih h.2⟩
    · exact ih (Memory.wfFrom_mono h.2 (by omega))

theorem Memory.wfFrom_tput {lo k : Nat} {m : Memory} {b : Byte} (h : Memory.wfFrom lo m = true) (hk : lo ≤ k)
    (hb : b ≠ 0#8) : Memory.wfFrom lo (tput m k b) = true := by
  induction m generalizing lo with
  | nil => simp [tput, Memory.wfFrom, hk, hb]
  | cons e t ih =>
    obtain ⟨k', y⟩ := e
    simp only [Memory.wfFrom, Bool.and_eq_true, decide_eq_true_eq, bne_iff_ne, ne_eq] at h
    unfold tput
    split
    · rename_i he
      subst he
      simp [Memory.wfFrom, h, hb]
    · split
      · rename_i hlt
        simp only [Memory.wfFrom, Bool.and_eq_true, decide_eq_true_eq, bne_iff_ne, ne_eq]
        exact ⟨⟨hk, hb⟩, ⟨by omega, h.1.2⟩, h.2⟩
      · simp only [Memory.wfFrom, Bool.and_eq_true, decide_eq_true_eq, bne_iff_ne, ne_eq]
        exact ⟨h.1, ih h.2 (by omega)⟩

/-- A filtered memory keeps the canonical form. -/
theorem Memory.wf_filter (p : Host.Cell → Bool) {m : Memory} (h : m.wf = true) : Memory.wf (m.filter p) = true :=
  Memory.wfFrom_filter p h

/-- Storing a byte keeps the canonical form. -/
theorem Memory.wf_write {m : Memory} (h : m.wf = true) (k : Nat) (b : Byte) : (m.write k b).wf = true := by
  unfold Memory.write
  split
  · exact Memory.wf_filter _ h
  · rename_i hb
    exact Memory.wfFrom_tput h (by omega) hb

/-- Storing a list of bytes keeps the canonical form. -/
theorem Memory.wf_writeList {m : Memory} (h : m.wf = true) (k : Nat) (bs : List Byte) : (m.writeList k bs).wf = true := by
  induction bs generalizing m k with
  | nil => exact h
  | cons b bs ih => exact ih (Memory.wf_write h k b) (k + 1)

/-- Storing a number keeps the canonical form. -/
theorem Memory.wf_writeLE {m : Memory} (h : m.wf = true) (k n x : Nat) : (m.writeLE k n x).wf = true :=
  Memory.wf_writeList h k _

/-- Storing cells keeps the canonical form. -/
theorem Memory.wf_putCells {m : Memory} (h : m.wf = true) (cs : List (Nat × Byte × Byte)) : (m.putCells cs).wf = true := by
  induction cs generalizing m with
  | nil => exact h
  | cons c cs ih =>
    obtain ⟨k, b, mk⟩ := c
    exact ih (Memory.wf_write h k _)

/-- Splicing a range keeps the canonical form, whatever is spliced in. -/
theorem Memory.wf_splice {m : Memory} (h : m.wf = true) (lo n : Nat) (x : Memory) : (m.splice lo n x).wf = true := by
  unfold Memory.splice
  generalize x.filter (fun e => decide (e.1 < n)) = l
  have h' := Memory.wf_filter (fun e : Host.Cell => !decide (lo ≤ e.1 ∧ e.1 < lo + n)) h
  revert h'
  generalize (m.filter (fun e : Host.Cell => !decide (lo ≤ e.1 ∧ e.1 < lo + n))) = m'
  intro h'
  induction l generalizing m' with
  | nil => exact h'
  | cons e l ih => exact ih _ (Memory.wf_write h' _ _)

theorem Memory.read_lt_wfFrom {lo k : Nat} {m : Memory} (h : Memory.wfFrom lo m = true) (hk : k < lo) :
    m.read k = 0#8 := by
  induction m generalizing lo with
  | nil => rfl
  | cons e t ih =>
    obtain ⟨k', b⟩ := e
    simp only [Memory.wfFrom, Bool.and_eq_true, decide_eq_true_eq] at h
    have hne : k' ≠ k := by omega
    have := ih h.2 (by omega)
    simpa [Memory.read, tget, hne] using this

/-- Two memories in the canonical form that read alike everywhere are the same data. -/
theorem Memory.ext_of_wf {m n : Memory} (hm : m.wf = true) (hn : n.wf = true) (h : ∀ k, m.read k = n.read k) :
    m = n := by
  suffices H : ∀ (m n : Memory) (lo : Nat), Memory.wfFrom lo m = true → Memory.wfFrom lo n = true →
      (∀ k, m.read k = n.read k) → m = n from H m n 0 hm hn h
  intro m
  induction m with
  | nil =>
    intro n lo _ hn h
    cases n with
    | nil => rfl
    | cons e t =>
      obtain ⟨k, b⟩ := e
      have hk := h k
      simp only [Memory.wfFrom, Bool.and_eq_true, bne_iff_ne, ne_eq] at hn
      simp [Memory.read, tget] at hk
      exact absurd hk.symm hn.1.2
  | cons e t ih =>
    intro n lo hm hn h
    obtain ⟨k, b⟩ := e
    simp only [Memory.wfFrom, Bool.and_eq_true, decide_eq_true_eq, bne_iff_ne, ne_eq] at hm
    cases n with
    | nil =>
      have hk := h k
      simp [Memory.read, tget] at hk
      exact absurd hk hm.1.2
    | cons e' t' =>
      obtain ⟨k', b'⟩ := e'
      simp only [Memory.wfFrom, Bool.and_eq_true, decide_eq_true_eq, bne_iff_ne, ne_eq] at hn
      have hkk : k = k' := by
        rcases Nat.lt_trichotomy k k' with hlt | heq | hgt
        · exfalso
          have h1 := h k
          have h2 : Memory.read ((k', b') :: t') k = 0#8 :=
            Memory.read_lt_wfFrom (lo := k') (by simp [Memory.wfFrom, hn]) hlt
          rw [h2] at h1
          simp [Memory.read, tget] at h1
          exact hm.1.2 h1
        · exact heq
        · exfalso
          have h1 := h k'
          have h2 : Memory.read ((k, b) :: t) k' = 0#8 :=
            Memory.read_lt_wfFrom (lo := k) (by simp [Memory.wfFrom, hm]) hgt
          rw [h2] at h1
          simp [Memory.read, tget] at h1
          exact hn.1.2 h1.symm
      subst hkk
      have hb : b = b' := by simpa [Memory.read, tget] using h k
      subst hb
      congr 1
      refine ih t' (k + 1) hm.2 hn.2 (fun j => ?_)
      by_cases hj : j = k
      · subst hj
        rw [Memory.read_lt_wfFrom hm.2 (by omega), Memory.read_lt_wfFrom hn.2 (by omega)]
      · have := h j
        simpa [Memory.read, tget, Ne.symm hj] using this

end Sys2Proof.Machine
end

