-- ==== Sys2Proof/Laws/State.lean ====
section
/-! SUPPORT. Laws of State: each update of the state and of a hart, field by field. -/

namespace Sys2Proof.Machine

/-! ### Harts and clusters by number -/

@[simp] theorem State.hart_setHart_same (s : State) (i : Nat) (h : Hart) : (s.setHart i h).hart i = h := by
  simp [State.hart, State.setHart]
@[simp] theorem State.hart_setHart_ne (s : State) {i j : Nat} (h : Hart) (hij : j ≠ i) :
    (s.setHart i h).hart j = s.hart j := by
  simp [State.hart, State.setHart, hij]
@[simp] theorem State.setHart_setHart (s : State) (i : Nat) (h k : Hart) :
    (s.setHart i h).setHart i k = s.setHart i k := by
  simp [State.setHart]
@[simp] theorem State.me_setMe (s : State) (h : Hart) : (s.setMe h).me = h := by simp [State.me, State.setMe, State.hart, State.setHart]
@[simp] theorem State.setMe_setMe (s : State) (h k : Hart) : (s.setMe h).setMe k = s.setMe k := by
  simp [State.setMe, State.setHart]
@[simp] theorem State.hart_setMe_ne (s : State) {j : Nat} (h : Hart) (hj : j ≠ s.cur) : (s.setMe h).hart j = s.hart j :=
  State.hart_setHart_ne s h hj
@[simp] theorem State.hart_setMe_cur (s : State) (h : Hart) : (s.setMe h).hart s.cur = h :=
  State.hart_setHart_same s s.cur h
@[simp] theorem State.cluster_setCluster_same (s : State) (c : Nat) (k : Cluster) : (s.setCluster c k).cluster c = k := by
  simp [State.cluster, State.setCluster]
@[simp] theorem State.cluster_setCluster_ne (s : State) {c d : Nat} (k : Cluster) (h : d ≠ c) :
    (s.setCluster c k).cluster d = s.cluster d := by
  simp [State.cluster, State.setCluster, h]
@[simp] theorem State.fast_setFast_same (s : State) (c : Nat) (f : Fast) : (s.setFast c f).fast c = f := by
  simp [State.fast, State.setFast]
@[simp] theorem State.fast_setFast_ne (s : State) {c d : Nat} (f : Fast) (h : d ≠ c) :
    (s.setFast c f).fast d = s.fast d := by
  simp [State.fast, State.setFast, h]
@[simp] theorem State.myFast_setMyFast (s : State) (f : Fast) : (s.setMyFast f).myFast = f := by
  simp [State.myFast, State.setMyFast, State.setFast, State.fast, State.myCluster, State.setCluster, State.cluster]
@[simp] theorem State.cluster_setHart (s : State) (i c : Nat) (h : Hart) : (s.setHart i h).cluster c = s.cluster c := rfl
@[simp] theorem State.cluster_setMe (s : State) (c : Nat) (h : Hart) : (s.setMe h).cluster c = s.cluster c := rfl
@[simp] theorem State.fast_setHart (s : State) (i c : Nat) (h : Hart) : (s.setHart i h).fast c = s.fast c := rfl
@[simp] theorem State.fast_setMe (s : State) (c : Nat) (h : Hart) : (s.setMe h).fast c = s.fast c := rfl
@[simp] theorem State.myFast_setMe (s : State) (h : Hart) : (s.setMe h).myFast = s.myFast := rfl
@[simp] theorem State.myCluster_setMe (s : State) (h : Hart) : (s.setMe h).myCluster = s.myCluster := rfl
@[simp] theorem State.myCluster_setFast (s : State) (c : Nat) (f : Fast) : (s.setFast c f).myCluster = s.myCluster := rfl
@[simp] theorem State.myCluster_setMyFast (s : State) (f : Fast) : (s.setMyFast f).myCluster = s.myCluster := rfl
@[simp] theorem State.hart_setCluster (s : State) (i c : Nat) (k : Cluster) : (s.setCluster c k).hart i = s.hart i := rfl
@[simp] theorem State.me_setCluster (s : State) (c : Nat) (k : Cluster) : (s.setCluster c k).me = s.me := rfl
@[simp] theorem State.hart_setFast (s : State) (i c : Nat) (f : Fast) : (s.setFast c f).hart i = s.hart i := rfl
@[simp] theorem State.me_setFast (s : State) (c : Nat) (f : Fast) : (s.setFast c f).me = s.me := rfl
@[simp] theorem State.hart_setMyFast (s : State) (i : Nat) (f : Fast) : (s.setMyFast f).hart i = s.hart i := rfl
@[simp] theorem State.me_setMyFast (s : State) (f : Fast) : (s.setMyFast f).me = s.me := rfl
@[simp] theorem State.me_perform (s : State) (cs : List (Nat × Byte × Byte)) : (s.perform cs).me = s.me := rfl
@[simp] theorem State.hart_perform (s : State) (i : Nat) (cs : List (Nat × Byte × Byte)) : (s.perform cs).hart i = s.hart i := rfl
@[simp] theorem State.mem_perform (s : State) (cs : List (Nat × Byte × Byte)) : (s.perform cs).mem = s.mem.putCells cs := rfl
@[simp] theorem State.me_drawn (s : State) : s.drawn.me = s.me := rfl
@[simp] theorem State.free_drawn (s : State) : s.drawn.free = s.free + 1 := rfl

/-! ### Updates of the state, field by field -/

@[simp] theorem State.mem_setHart (s : State) (i : Nat) (h : Hart) : (s.setHart i h).mem = s.mem := rfl
@[simp] theorem State.clusters_setHart (s : State) (i : Nat) (h : Hart) : (s.setHart i h).clusters = s.clusters := rfl
@[simp] theorem State.dieTlb_setHart (s : State) (i : Nat) (h : Hart) : (s.setHart i h).dieTlb = s.dieTlb := rfl
@[simp] theorem State.parts_setHart (s : State) (i : Nat) (h : Hart) : (s.setHart i h).parts = s.parts := rfl
@[simp] theorem State.mtime_setHart (s : State) (i : Nat) (h : Hart) : (s.setHart i h).mtime = s.mtime := rfl
@[simp] theorem State.synced_setHart (s : State) (i : Nat) (h : Hart) : (s.setHart i h).synced = s.synced := rfl
@[simp] theorem State.unsent_setHart (s : State) (i : Nat) (h : Hart) : (s.setHart i h).unsent = s.unsent := rfl
@[simp] theorem State.deaf_setHart (s : State) (i : Nat) (h : Hart) : (s.setHart i h).deaf = s.deaf := rfl
@[simp] theorem State.rewritten_setHart (s : State) (i : Nat) (h : Hart) : (s.setHart i h).rewritten = s.rewritten := rfl
@[simp] theorem State.watched_setHart (s : State) (i : Nat) (h : Hart) : (s.setHart i h).watched = s.watched := rfl
@[simp] theorem State.early_setHart (s : State) (i : Nat) (h : Hart) : (s.setHart i h).early = s.early := rfl
@[simp] theorem State.partly_setHart (s : State) (i : Nat) (h : Hart) : (s.setHart i h).partly = s.partly := rfl
@[simp] theorem State.s2_setHart (s : State) (i : Nat) (h : Hart) : (s.setHart i h).s2 = s.s2 := rfl
@[simp] theorem State.s2miss_setHart (s : State) (i : Nat) (h : Hart) : (s.setHart i h).s2miss = s.s2miss := rfl
@[simp] theorem State.fills_setHart (s : State) (i : Nat) (h : Hart) : (s.setHart i h).fills = s.fills := rfl
@[simp] theorem State.replies_setHart (s : State) (i : Nat) (h : Hart) : (s.setHart i h).replies = s.replies := rfl
@[simp] theorem State.reports_setHart (s : State) (i : Nat) (h : Hart) : (s.setHart i h).reports = s.reports := rfl
@[simp] theorem State.sent_setHart (s : State) (i : Nat) (h : Hart) : (s.setHart i h).sent = s.sent := rfl
@[simp] theorem State.acks_setHart (s : State) (i : Nat) (h : Hart) : (s.setHart i h).acks = s.acks := rfl
@[simp] theorem State.reads_setHart (s : State) (i : Nat) (h : Hart) : (s.setHart i h).reads = s.reads := rfl
@[simp] theorem State.inbound_setHart (s : State) (i : Nat) (h : Hart) : (s.setHart i h).inbound = s.inbound := rfl
@[simp] theorem State.poisoned_setHart (s : State) (i : Nat) (h : Hart) : (s.setHart i h).poisoned = s.poisoned := rfl
@[simp] theorem State.badSram_setHart (s : State) (i : Nat) (h : Hart) : (s.setHart i h).badSram = s.badSram := rfl
@[simp] theorem State.refresh_setHart (s : State) (i : Nat) (h : Hart) : (s.setHart i h).refresh = s.refresh := rfl
@[simp] theorem State.defects_setHart (s : State) (i : Nat) (h : Hart) : (s.setHart i h).defects = s.defects := rfl
@[simp] theorem State.boot_setHart (s : State) (i : Nat) (h : Hart) : (s.setHart i h).boot = s.boot := rfl
@[simp] theorem State.power_setHart (s : State) (i : Nat) (h : Hart) : (s.setHart i h).power = s.power := rfl
@[simp] theorem State.word_setHart (s : State) (i : Nat) (h : Hart) : (s.setHart i h).word = s.word := rfl
@[simp] theorem State.cur_setHart (s : State) (i : Nat) (h : Hart) : (s.setHart i h).cur = s.cur := rfl
@[simp] theorem State.agenda_setHart (s : State) (i : Nat) (h : Hart) : (s.setHart i h).agenda = s.agenda := rfl
@[simp] theorem State.queued_setHart (s : State) (i : Nat) (h : Hart) : (s.setHart i h).queued = s.queued := rfl
@[simp] theorem State.free_setHart (s : State) (i : Nat) (h : Hart) : (s.setHart i h).free = s.free := rfl

@[simp] theorem State.mem_setMe (s : State) (h : Hart) : (s.setMe h).mem = s.mem := rfl
@[simp] theorem State.clusters_setMe (s : State) (h : Hart) : (s.setMe h).clusters = s.clusters := rfl
@[simp] theorem State.dieTlb_setMe (s : State) (h : Hart) : (s.setMe h).dieTlb = s.dieTlb := rfl
@[simp] theorem State.parts_setMe (s : State) (h : Hart) : (s.setMe h).parts = s.parts := rfl
@[simp] theorem State.mtime_setMe (s : State) (h : Hart) : (s.setMe h).mtime = s.mtime := rfl
@[simp] theorem State.synced_setMe (s : State) (h : Hart) : (s.setMe h).synced = s.synced := rfl
@[simp] theorem State.unsent_setMe (s : State) (h : Hart) : (s.setMe h).unsent = s.unsent := rfl
@[simp] theorem State.deaf_setMe (s : State) (h : Hart) : (s.setMe h).deaf = s.deaf := rfl
@[simp] theorem State.rewritten_setMe (s : State) (h : Hart) : (s.setMe h).rewritten = s.rewritten := rfl
@[simp] theorem State.watched_setMe (s : State) (h : Hart) : (s.setMe h).watched = s.watched := rfl
@[simp] theorem State.early_setMe (s : State) (h : Hart) : (s.setMe h).early = s.early := rfl
@[simp] theorem State.partly_setMe (s : State) (h : Hart) : (s.setMe h).partly = s.partly := rfl
@[simp] theorem State.s2_setMe (s : State) (h : Hart) : (s.setMe h).s2 = s.s2 := rfl
@[simp] theorem State.s2miss_setMe (s : State) (h : Hart) : (s.setMe h).s2miss = s.s2miss := rfl
@[simp] theorem State.fills_setMe (s : State) (h : Hart) : (s.setMe h).fills = s.fills := rfl
@[simp] theorem State.replies_setMe (s : State) (h : Hart) : (s.setMe h).replies = s.replies := rfl
@[simp] theorem State.reports_setMe (s : State) (h : Hart) : (s.setMe h).reports = s.reports := rfl
@[simp] theorem State.sent_setMe (s : State) (h : Hart) : (s.setMe h).sent = s.sent := rfl
@[simp] theorem State.acks_setMe (s : State) (h : Hart) : (s.setMe h).acks = s.acks := rfl
@[simp] theorem State.reads_setMe (s : State) (h : Hart) : (s.setMe h).reads = s.reads := rfl
@[simp] theorem State.inbound_setMe (s : State) (h : Hart) : (s.setMe h).inbound = s.inbound := rfl
@[simp] theorem State.poisoned_setMe (s : State) (h : Hart) : (s.setMe h).poisoned = s.poisoned := rfl
@[simp] theorem State.badSram_setMe (s : State) (h : Hart) : (s.setMe h).badSram = s.badSram := rfl
@[simp] theorem State.refresh_setMe (s : State) (h : Hart) : (s.setMe h).refresh = s.refresh := rfl
@[simp] theorem State.defects_setMe (s : State) (h : Hart) : (s.setMe h).defects = s.defects := rfl
@[simp] theorem State.boot_setMe (s : State) (h : Hart) : (s.setMe h).boot = s.boot := rfl
@[simp] theorem State.power_setMe (s : State) (h : Hart) : (s.setMe h).power = s.power := rfl
@[simp] theorem State.word_setMe (s : State) (h : Hart) : (s.setMe h).word = s.word := rfl
@[simp] theorem State.cur_setMe (s : State) (h : Hart) : (s.setMe h).cur = s.cur := rfl
@[simp] theorem State.agenda_setMe (s : State) (h : Hart) : (s.setMe h).agenda = s.agenda := rfl
@[simp] theorem State.queued_setMe (s : State) (h : Hart) : (s.setMe h).queued = s.queued := rfl
@[simp] theorem State.free_setMe (s : State) (h : Hart) : (s.setMe h).free = s.free := rfl

@[simp] theorem State.mem_setCluster (s : State) (c : Nat) (k : Cluster) : (s.setCluster c k).mem = s.mem := rfl
@[simp] theorem State.harts_setCluster (s : State) (c : Nat) (k : Cluster) : (s.setCluster c k).harts = s.harts := rfl
@[simp] theorem State.dieTlb_setCluster (s : State) (c : Nat) (k : Cluster) : (s.setCluster c k).dieTlb = s.dieTlb := rfl
@[simp] theorem State.parts_setCluster (s : State) (c : Nat) (k : Cluster) : (s.setCluster c k).parts = s.parts := rfl
@[simp] theorem State.mtime_setCluster (s : State) (c : Nat) (k : Cluster) : (s.setCluster c k).mtime = s.mtime := rfl
@[simp] theorem State.synced_setCluster (s : State) (c : Nat) (k : Cluster) : (s.setCluster c k).synced = s.synced := rfl
@[simp] theorem State.unsent_setCluster (s : State) (c : Nat) (k : Cluster) : (s.setCluster c k).unsent = s.unsent := rfl
@[simp] theorem State.deaf_setCluster (s : State) (c : Nat) (k : Cluster) : (s.setCluster c k).deaf = s.deaf := rfl
@[simp] theorem State.rewritten_setCluster (s : State) (c : Nat) (k : Cluster) : (s.setCluster c k).rewritten = s.rewritten := rfl
@[simp] theorem State.watched_setCluster (s : State) (c : Nat) (k : Cluster) : (s.setCluster c k).watched = s.watched := rfl
@[simp] theorem State.early_setCluster (s : State) (c : Nat) (k : Cluster) : (s.setCluster c k).early = s.early := rfl
@[simp] theorem State.partly_setCluster (s : State) (c : Nat) (k : Cluster) : (s.setCluster c k).partly = s.partly := rfl
@[simp] theorem State.s2_setCluster (s : State) (c : Nat) (k : Cluster) : (s.setCluster c k).s2 = s.s2 := rfl
@[simp] theorem State.s2miss_setCluster (s : State) (c : Nat) (k : Cluster) : (s.setCluster c k).s2miss = s.s2miss := rfl
@[simp] theorem State.fills_setCluster (s : State) (c : Nat) (k : Cluster) : (s.setCluster c k).fills = s.fills := rfl
@[simp] theorem State.replies_setCluster (s : State) (c : Nat) (k : Cluster) : (s.setCluster c k).replies = s.replies := rfl
@[simp] theorem State.reports_setCluster (s : State) (c : Nat) (k : Cluster) : (s.setCluster c k).reports = s.reports := rfl
@[simp] theorem State.sent_setCluster (s : State) (c : Nat) (k : Cluster) : (s.setCluster c k).sent = s.sent := rfl
@[simp] theorem State.acks_setCluster (s : State) (c : Nat) (k : Cluster) : (s.setCluster c k).acks = s.acks := rfl
@[simp] theorem State.reads_setCluster (s : State) (c : Nat) (k : Cluster) : (s.setCluster c k).reads = s.reads := rfl
@[simp] theorem State.inbound_setCluster (s : State) (c : Nat) (k : Cluster) : (s.setCluster c k).inbound = s.inbound := rfl
@[simp] theorem State.poisoned_setCluster (s : State) (c : Nat) (k : Cluster) : (s.setCluster c k).poisoned = s.poisoned := rfl
@[simp] theorem State.badSram_setCluster (s : State) (c : Nat) (k : Cluster) : (s.setCluster c k).badSram = s.badSram := rfl
@[simp] theorem State.refresh_setCluster (s : State) (c : Nat) (k : Cluster) : (s.setCluster c k).refresh = s.refresh := rfl
@[simp] theorem State.defects_setCluster (s : State) (c : Nat) (k : Cluster) : (s.setCluster c k).defects = s.defects := rfl
@[simp] theorem State.boot_setCluster (s : State) (c : Nat) (k : Cluster) : (s.setCluster c k).boot = s.boot := rfl
@[simp] theorem State.power_setCluster (s : State) (c : Nat) (k : Cluster) : (s.setCluster c k).power = s.power := rfl
@[simp] theorem State.word_setCluster (s : State) (c : Nat) (k : Cluster) : (s.setCluster c k).word = s.word := rfl
@[simp] theorem State.cur_setCluster (s : State) (c : Nat) (k : Cluster) : (s.setCluster c k).cur = s.cur := rfl
@[simp] theorem State.agenda_setCluster (s : State) (c : Nat) (k : Cluster) : (s.setCluster c k).agenda = s.agenda := rfl
@[simp] theorem State.queued_setCluster (s : State) (c : Nat) (k : Cluster) : (s.setCluster c k).queued = s.queued := rfl
@[simp] theorem State.free_setCluster (s : State) (c : Nat) (k : Cluster) : (s.setCluster c k).free = s.free := rfl

@[simp] theorem State.mem_setFast (s : State) (c : Nat) (f : Fast) : (s.setFast c f).mem = s.mem := rfl
@[simp] theorem State.harts_setFast (s : State) (c : Nat) (f : Fast) : (s.setFast c f).harts = s.harts := rfl
@[simp] theorem State.dieTlb_setFast (s : State) (c : Nat) (f : Fast) : (s.setFast c f).dieTlb = s.dieTlb := rfl
@[simp] theorem State.parts_setFast (s : State) (c : Nat) (f : Fast) : (s.setFast c f).parts = s.parts := rfl
@[simp] theorem State.mtime_setFast (s : State) (c : Nat) (f : Fast) : (s.setFast c f).mtime = s.mtime := rfl
@[simp] theorem State.synced_setFast (s : State) (c : Nat) (f : Fast) : (s.setFast c f).synced = s.synced := rfl
@[simp] theorem State.unsent_setFast (s : State) (c : Nat) (f : Fast) : (s.setFast c f).unsent = s.unsent := rfl
@[simp] theorem State.deaf_setFast (s : State) (c : Nat) (f : Fast) : (s.setFast c f).deaf = s.deaf := rfl
@[simp] theorem State.rewritten_setFast (s : State) (c : Nat) (f : Fast) : (s.setFast c f).rewritten = s.rewritten := rfl
@[simp] theorem State.watched_setFast (s : State) (c : Nat) (f : Fast) : (s.setFast c f).watched = s.watched := rfl
@[simp] theorem State.early_setFast (s : State) (c : Nat) (f : Fast) : (s.setFast c f).early = s.early := rfl
@[simp] theorem State.partly_setFast (s : State) (c : Nat) (f : Fast) : (s.setFast c f).partly = s.partly := rfl
@[simp] theorem State.s2_setFast (s : State) (c : Nat) (f : Fast) : (s.setFast c f).s2 = s.s2 := rfl
@[simp] theorem State.s2miss_setFast (s : State) (c : Nat) (f : Fast) : (s.setFast c f).s2miss = s.s2miss := rfl
@[simp] theorem State.fills_setFast (s : State) (c : Nat) (f : Fast) : (s.setFast c f).fills = s.fills := rfl
@[simp] theorem State.replies_setFast (s : State) (c : Nat) (f : Fast) : (s.setFast c f).replies = s.replies := rfl
@[simp] theorem State.reports_setFast (s : State) (c : Nat) (f : Fast) : (s.setFast c f).reports = s.reports := rfl
@[simp] theorem State.sent_setFast (s : State) (c : Nat) (f : Fast) : (s.setFast c f).sent = s.sent := rfl
@[simp] theorem State.acks_setFast (s : State) (c : Nat) (f : Fast) : (s.setFast c f).acks = s.acks := rfl
@[simp] theorem State.reads_setFast (s : State) (c : Nat) (f : Fast) : (s.setFast c f).reads = s.reads := rfl
@[simp] theorem State.inbound_setFast (s : State) (c : Nat) (f : Fast) : (s.setFast c f).inbound = s.inbound := rfl
@[simp] theorem State.poisoned_setFast (s : State) (c : Nat) (f : Fast) : (s.setFast c f).poisoned = s.poisoned := rfl
@[simp] theorem State.badSram_setFast (s : State) (c : Nat) (f : Fast) : (s.setFast c f).badSram = s.badSram := rfl
@[simp] theorem State.refresh_setFast (s : State) (c : Nat) (f : Fast) : (s.setFast c f).refresh = s.refresh := rfl
@[simp] theorem State.defects_setFast (s : State) (c : Nat) (f : Fast) : (s.setFast c f).defects = s.defects := rfl
@[simp] theorem State.boot_setFast (s : State) (c : Nat) (f : Fast) : (s.setFast c f).boot = s.boot := rfl
@[simp] theorem State.power_setFast (s : State) (c : Nat) (f : Fast) : (s.setFast c f).power = s.power := rfl
@[simp] theorem State.word_setFast (s : State) (c : Nat) (f : Fast) : (s.setFast c f).word = s.word := rfl
@[simp] theorem State.cur_setFast (s : State) (c : Nat) (f : Fast) : (s.setFast c f).cur = s.cur := rfl
@[simp] theorem State.agenda_setFast (s : State) (c : Nat) (f : Fast) : (s.setFast c f).agenda = s.agenda := rfl
@[simp] theorem State.queued_setFast (s : State) (c : Nat) (f : Fast) : (s.setFast c f).queued = s.queued := rfl
@[simp] theorem State.free_setFast (s : State) (c : Nat) (f : Fast) : (s.setFast c f).free = s.free := rfl

@[simp] theorem State.mem_setMyFast (s : State) (f : Fast) : (s.setMyFast f).mem = s.mem := rfl
@[simp] theorem State.harts_setMyFast (s : State) (f : Fast) : (s.setMyFast f).harts = s.harts := rfl
@[simp] theorem State.dieTlb_setMyFast (s : State) (f : Fast) : (s.setMyFast f).dieTlb = s.dieTlb := rfl
@[simp] theorem State.parts_setMyFast (s : State) (f : Fast) : (s.setMyFast f).parts = s.parts := rfl
@[simp] theorem State.mtime_setMyFast (s : State) (f : Fast) : (s.setMyFast f).mtime = s.mtime := rfl
@[simp] theorem State.synced_setMyFast (s : State) (f : Fast) : (s.setMyFast f).synced = s.synced := rfl
@[simp] theorem State.unsent_setMyFast (s : State) (f : Fast) : (s.setMyFast f).unsent = s.unsent := rfl
@[simp] theorem State.deaf_setMyFast (s : State) (f : Fast) : (s.setMyFast f).deaf = s.deaf := rfl
@[simp] theorem State.rewritten_setMyFast (s : State) (f : Fast) : (s.setMyFast f).rewritten = s.rewritten := rfl
@[simp] theorem State.watched_setMyFast (s : State) (f : Fast) : (s.setMyFast f).watched = s.watched := rfl
@[simp] theorem State.early_setMyFast (s : State) (f : Fast) : (s.setMyFast f).early = s.early := rfl
@[simp] theorem State.partly_setMyFast (s : State) (f : Fast) : (s.setMyFast f).partly = s.partly := rfl
@[simp] theorem State.s2_setMyFast (s : State) (f : Fast) : (s.setMyFast f).s2 = s.s2 := rfl
@[simp] theorem State.s2miss_setMyFast (s : State) (f : Fast) : (s.setMyFast f).s2miss = s.s2miss := rfl
@[simp] theorem State.fills_setMyFast (s : State) (f : Fast) : (s.setMyFast f).fills = s.fills := rfl
@[simp] theorem State.replies_setMyFast (s : State) (f : Fast) : (s.setMyFast f).replies = s.replies := rfl
@[simp] theorem State.reports_setMyFast (s : State) (f : Fast) : (s.setMyFast f).reports = s.reports := rfl
@[simp] theorem State.sent_setMyFast (s : State) (f : Fast) : (s.setMyFast f).sent = s.sent := rfl
@[simp] theorem State.acks_setMyFast (s : State) (f : Fast) : (s.setMyFast f).acks = s.acks := rfl
@[simp] theorem State.reads_setMyFast (s : State) (f : Fast) : (s.setMyFast f).reads = s.reads := rfl
@[simp] theorem State.inbound_setMyFast (s : State) (f : Fast) : (s.setMyFast f).inbound = s.inbound := rfl
@[simp] theorem State.poisoned_setMyFast (s : State) (f : Fast) : (s.setMyFast f).poisoned = s.poisoned := rfl
@[simp] theorem State.badSram_setMyFast (s : State) (f : Fast) : (s.setMyFast f).badSram = s.badSram := rfl
@[simp] theorem State.refresh_setMyFast (s : State) (f : Fast) : (s.setMyFast f).refresh = s.refresh := rfl
@[simp] theorem State.defects_setMyFast (s : State) (f : Fast) : (s.setMyFast f).defects = s.defects := rfl
@[simp] theorem State.boot_setMyFast (s : State) (f : Fast) : (s.setMyFast f).boot = s.boot := rfl
@[simp] theorem State.power_setMyFast (s : State) (f : Fast) : (s.setMyFast f).power = s.power := rfl
@[simp] theorem State.word_setMyFast (s : State) (f : Fast) : (s.setMyFast f).word = s.word := rfl
@[simp] theorem State.cur_setMyFast (s : State) (f : Fast) : (s.setMyFast f).cur = s.cur := rfl
@[simp] theorem State.agenda_setMyFast (s : State) (f : Fast) : (s.setMyFast f).agenda = s.agenda := rfl
@[simp] theorem State.queued_setMyFast (s : State) (f : Fast) : (s.setMyFast f).queued = s.queued := rfl
@[simp] theorem State.free_setMyFast (s : State) (f : Fast) : (s.setMyFast f).free = s.free := rfl

@[simp] theorem State.mem_setPart (s : State) (p : Nat) (x : Part) : (s.setPart p x).mem = s.mem := rfl
@[simp] theorem State.harts_setPart (s : State) (p : Nat) (x : Part) : (s.setPart p x).harts = s.harts := rfl
@[simp] theorem State.clusters_setPart (s : State) (p : Nat) (x : Part) : (s.setPart p x).clusters = s.clusters := rfl
@[simp] theorem State.dieTlb_setPart (s : State) (p : Nat) (x : Part) : (s.setPart p x).dieTlb = s.dieTlb := rfl
@[simp] theorem State.mtime_setPart (s : State) (p : Nat) (x : Part) : (s.setPart p x).mtime = s.mtime := rfl
@[simp] theorem State.synced_setPart (s : State) (p : Nat) (x : Part) : (s.setPart p x).synced = s.synced := rfl
@[simp] theorem State.unsent_setPart (s : State) (p : Nat) (x : Part) : (s.setPart p x).unsent = s.unsent := rfl
@[simp] theorem State.deaf_setPart (s : State) (p : Nat) (x : Part) : (s.setPart p x).deaf = s.deaf := rfl
@[simp] theorem State.rewritten_setPart (s : State) (p : Nat) (x : Part) : (s.setPart p x).rewritten = s.rewritten := rfl
@[simp] theorem State.watched_setPart (s : State) (p : Nat) (x : Part) : (s.setPart p x).watched = s.watched := rfl
@[simp] theorem State.early_setPart (s : State) (p : Nat) (x : Part) : (s.setPart p x).early = s.early := rfl
@[simp] theorem State.partly_setPart (s : State) (p : Nat) (x : Part) : (s.setPart p x).partly = s.partly := rfl
@[simp] theorem State.s2_setPart (s : State) (p : Nat) (x : Part) : (s.setPart p x).s2 = s.s2 := rfl
@[simp] theorem State.s2miss_setPart (s : State) (p : Nat) (x : Part) : (s.setPart p x).s2miss = s.s2miss := rfl
@[simp] theorem State.fills_setPart (s : State) (p : Nat) (x : Part) : (s.setPart p x).fills = s.fills := rfl
@[simp] theorem State.replies_setPart (s : State) (p : Nat) (x : Part) : (s.setPart p x).replies = s.replies := rfl
@[simp] theorem State.reports_setPart (s : State) (p : Nat) (x : Part) : (s.setPart p x).reports = s.reports := rfl
@[simp] theorem State.sent_setPart (s : State) (p : Nat) (x : Part) : (s.setPart p x).sent = s.sent := rfl
@[simp] theorem State.acks_setPart (s : State) (p : Nat) (x : Part) : (s.setPart p x).acks = s.acks := rfl
@[simp] theorem State.reads_setPart (s : State) (p : Nat) (x : Part) : (s.setPart p x).reads = s.reads := rfl
@[simp] theorem State.inbound_setPart (s : State) (p : Nat) (x : Part) : (s.setPart p x).inbound = s.inbound := rfl
@[simp] theorem State.poisoned_setPart (s : State) (p : Nat) (x : Part) : (s.setPart p x).poisoned = s.poisoned := rfl
@[simp] theorem State.badSram_setPart (s : State) (p : Nat) (x : Part) : (s.setPart p x).badSram = s.badSram := rfl
@[simp] theorem State.refresh_setPart (s : State) (p : Nat) (x : Part) : (s.setPart p x).refresh = s.refresh := rfl
@[simp] theorem State.defects_setPart (s : State) (p : Nat) (x : Part) : (s.setPart p x).defects = s.defects := rfl
@[simp] theorem State.boot_setPart (s : State) (p : Nat) (x : Part) : (s.setPart p x).boot = s.boot := rfl
@[simp] theorem State.power_setPart (s : State) (p : Nat) (x : Part) : (s.setPart p x).power = s.power := rfl
@[simp] theorem State.word_setPart (s : State) (p : Nat) (x : Part) : (s.setPart p x).word = s.word := rfl
@[simp] theorem State.cur_setPart (s : State) (p : Nat) (x : Part) : (s.setPart p x).cur = s.cur := rfl
@[simp] theorem State.agenda_setPart (s : State) (p : Nat) (x : Part) : (s.setPart p x).agenda = s.agenda := rfl
@[simp] theorem State.queued_setPart (s : State) (p : Nat) (x : Part) : (s.setPart p x).queued = s.queued := rfl
@[simp] theorem State.free_setPart (s : State) (p : Nat) (x : Part) : (s.setPart p x).free = s.free := rfl

@[simp] theorem State.mem_drawn (s : State) : (s.drawn).mem = s.mem := rfl
@[simp] theorem State.harts_drawn (s : State) : (s.drawn).harts = s.harts := rfl
@[simp] theorem State.clusters_drawn (s : State) : (s.drawn).clusters = s.clusters := rfl
@[simp] theorem State.dieTlb_drawn (s : State) : (s.drawn).dieTlb = s.dieTlb := rfl
@[simp] theorem State.parts_drawn (s : State) : (s.drawn).parts = s.parts := rfl
@[simp] theorem State.mtime_drawn (s : State) : (s.drawn).mtime = s.mtime := rfl
@[simp] theorem State.synced_drawn (s : State) : (s.drawn).synced = s.synced := rfl
@[simp] theorem State.unsent_drawn (s : State) : (s.drawn).unsent = s.unsent := rfl
@[simp] theorem State.deaf_drawn (s : State) : (s.drawn).deaf = s.deaf := rfl
@[simp] theorem State.rewritten_drawn (s : State) : (s.drawn).rewritten = s.rewritten := rfl
@[simp] theorem State.watched_drawn (s : State) : (s.drawn).watched = s.watched := rfl
@[simp] theorem State.early_drawn (s : State) : (s.drawn).early = s.early := rfl
@[simp] theorem State.partly_drawn (s : State) : (s.drawn).partly = s.partly := rfl
@[simp] theorem State.s2_drawn (s : State) : (s.drawn).s2 = s.s2 := rfl
@[simp] theorem State.s2miss_drawn (s : State) : (s.drawn).s2miss = s.s2miss := rfl
@[simp] theorem State.fills_drawn (s : State) : (s.drawn).fills = s.fills := rfl
@[simp] theorem State.replies_drawn (s : State) : (s.drawn).replies = s.replies := rfl
@[simp] theorem State.reports_drawn (s : State) : (s.drawn).reports = s.reports := rfl
@[simp] theorem State.sent_drawn (s : State) : (s.drawn).sent = s.sent := rfl
@[simp] theorem State.acks_drawn (s : State) : (s.drawn).acks = s.acks := rfl
@[simp] theorem State.reads_drawn (s : State) : (s.drawn).reads = s.reads := rfl
@[simp] theorem State.inbound_drawn (s : State) : (s.drawn).inbound = s.inbound := rfl
@[simp] theorem State.poisoned_drawn (s : State) : (s.drawn).poisoned = s.poisoned := rfl
@[simp] theorem State.badSram_drawn (s : State) : (s.drawn).badSram = s.badSram := rfl
@[simp] theorem State.refresh_drawn (s : State) : (s.drawn).refresh = s.refresh := rfl
@[simp] theorem State.defects_drawn (s : State) : (s.drawn).defects = s.defects := rfl
@[simp] theorem State.boot_drawn (s : State) : (s.drawn).boot = s.boot := rfl
@[simp] theorem State.power_drawn (s : State) : (s.drawn).power = s.power := rfl
@[simp] theorem State.word_drawn (s : State) : (s.drawn).word = s.word := rfl
@[simp] theorem State.cur_drawn (s : State) : (s.drawn).cur = s.cur := rfl
@[simp] theorem State.agenda_drawn (s : State) : (s.drawn).agenda = s.agenda := rfl
@[simp] theorem State.queued_drawn (s : State) : (s.drawn).queued = s.queued := rfl

@[simp] theorem State.harts_perform (s : State) (cs : List (Nat × Byte × Byte)) : (s.perform cs).harts = s.harts := rfl
@[simp] theorem State.clusters_perform (s : State) (cs : List (Nat × Byte × Byte)) : (s.perform cs).clusters = s.clusters := rfl
@[simp] theorem State.dieTlb_perform (s : State) (cs : List (Nat × Byte × Byte)) : (s.perform cs).dieTlb = s.dieTlb := rfl
@[simp] theorem State.parts_perform (s : State) (cs : List (Nat × Byte × Byte)) : (s.perform cs).parts = s.parts := rfl
@[simp] theorem State.mtime_perform (s : State) (cs : List (Nat × Byte × Byte)) : (s.perform cs).mtime = s.mtime := rfl
@[simp] theorem State.synced_perform (s : State) (cs : List (Nat × Byte × Byte)) : (s.perform cs).synced = s.synced := rfl
@[simp] theorem State.unsent_perform (s : State) (cs : List (Nat × Byte × Byte)) : (s.perform cs).unsent = s.unsent := rfl
@[simp] theorem State.deaf_perform (s : State) (cs : List (Nat × Byte × Byte)) : (s.perform cs).deaf = s.deaf := rfl
@[simp] theorem State.early_perform (s : State) (cs : List (Nat × Byte × Byte)) : (s.perform cs).early = s.early := rfl
@[simp] theorem State.partly_perform (s : State) (cs : List (Nat × Byte × Byte)) : (s.perform cs).partly = s.partly := rfl
@[simp] theorem State.s2_perform (s : State) (cs : List (Nat × Byte × Byte)) : (s.perform cs).s2 = s.s2 := rfl
@[simp] theorem State.s2miss_perform (s : State) (cs : List (Nat × Byte × Byte)) : (s.perform cs).s2miss = s.s2miss := rfl
@[simp] theorem State.fills_perform (s : State) (cs : List (Nat × Byte × Byte)) : (s.perform cs).fills = s.fills := rfl
@[simp] theorem State.replies_perform (s : State) (cs : List (Nat × Byte × Byte)) : (s.perform cs).replies = s.replies := rfl
@[simp] theorem State.reports_perform (s : State) (cs : List (Nat × Byte × Byte)) : (s.perform cs).reports = s.reports := rfl
@[simp] theorem State.sent_perform (s : State) (cs : List (Nat × Byte × Byte)) : (s.perform cs).sent = s.sent := rfl
@[simp] theorem State.acks_perform (s : State) (cs : List (Nat × Byte × Byte)) : (s.perform cs).acks = s.acks := rfl
@[simp] theorem State.reads_perform (s : State) (cs : List (Nat × Byte × Byte)) : (s.perform cs).reads = s.reads := rfl
@[simp] theorem State.inbound_perform (s : State) (cs : List (Nat × Byte × Byte)) : (s.perform cs).inbound = s.inbound := rfl
@[simp] theorem State.refresh_perform (s : State) (cs : List (Nat × Byte × Byte)) : (s.perform cs).refresh = s.refresh := rfl
@[simp] theorem State.defects_perform (s : State) (cs : List (Nat × Byte × Byte)) : (s.perform cs).defects = s.defects := rfl
@[simp] theorem State.boot_perform (s : State) (cs : List (Nat × Byte × Byte)) : (s.perform cs).boot = s.boot := rfl
@[simp] theorem State.power_perform (s : State) (cs : List (Nat × Byte × Byte)) : (s.perform cs).power = s.power := rfl
@[simp] theorem State.word_perform (s : State) (cs : List (Nat × Byte × Byte)) : (s.perform cs).word = s.word := rfl
@[simp] theorem State.cur_perform (s : State) (cs : List (Nat × Byte × Byte)) : (s.perform cs).cur = s.cur := rfl
@[simp] theorem State.agenda_perform (s : State) (cs : List (Nat × Byte × Byte)) : (s.perform cs).agenda = s.agenda := rfl
@[simp] theorem State.queued_perform (s : State) (cs : List (Nat × Byte × Byte)) : (s.perform cs).queued = s.queued := rfl
@[simp] theorem State.free_perform (s : State) (cs : List (Nat × Byte × Byte)) : (s.perform cs).free = s.free := rfl

@[simp] theorem State.mem_reply (s : State) (m : Msg) (k : Nat) (b : ReplyBody) : (s.reply m k b).mem = s.mem := by
  unfold State.reply; split <;> rfl
@[simp] theorem State.harts_reply (s : State) (m : Msg) (k : Nat) (b : ReplyBody) : (s.reply m k b).harts = s.harts := by
  unfold State.reply; split <;> rfl
@[simp] theorem State.clusters_reply (s : State) (m : Msg) (k : Nat) (b : ReplyBody) : (s.reply m k b).clusters = s.clusters := by
  unfold State.reply; split <;> rfl
@[simp] theorem State.dieTlb_reply (s : State) (m : Msg) (k : Nat) (b : ReplyBody) : (s.reply m k b).dieTlb = s.dieTlb := by
  unfold State.reply; split <;> rfl
@[simp] theorem State.parts_reply (s : State) (m : Msg) (k : Nat) (b : ReplyBody) : (s.reply m k b).parts = s.parts := by
  unfold State.reply; split <;> rfl
@[simp] theorem State.mtime_reply (s : State) (m : Msg) (k : Nat) (b : ReplyBody) : (s.reply m k b).mtime = s.mtime := by
  unfold State.reply; split <;> rfl
@[simp] theorem State.synced_reply (s : State) (m : Msg) (k : Nat) (b : ReplyBody) : (s.reply m k b).synced = s.synced := by
  unfold State.reply; split <;> rfl
@[simp] theorem State.deaf_reply (s : State) (m : Msg) (k : Nat) (b : ReplyBody) : (s.reply m k b).deaf = s.deaf := by
  unfold State.reply; split <;> rfl
@[simp] theorem State.rewritten_reply (s : State) (m : Msg) (k : Nat) (b : ReplyBody) : (s.reply m k b).rewritten = s.rewritten := by
  unfold State.reply; split <;> rfl
@[simp] theorem State.watched_reply (s : State) (m : Msg) (k : Nat) (b : ReplyBody) : (s.reply m k b).watched = s.watched := by
  unfold State.reply; split <;> rfl
@[simp] theorem State.early_reply (s : State) (m : Msg) (k : Nat) (b : ReplyBody) : (s.reply m k b).early = s.early := by
  unfold State.reply; split <;> rfl
@[simp] theorem State.partly_reply (s : State) (m : Msg) (k : Nat) (b : ReplyBody) : (s.reply m k b).partly = s.partly := by
  unfold State.reply; split <;> rfl
@[simp] theorem State.s2_reply (s : State) (m : Msg) (k : Nat) (b : ReplyBody) : (s.reply m k b).s2 = s.s2 := by
  unfold State.reply; split <;> rfl
@[simp] theorem State.s2miss_reply (s : State) (m : Msg) (k : Nat) (b : ReplyBody) : (s.reply m k b).s2miss = s.s2miss := by
  unfold State.reply; split <;> rfl
@[simp] theorem State.fills_reply (s : State) (m : Msg) (k : Nat) (b : ReplyBody) : (s.reply m k b).fills = s.fills := by
  unfold State.reply; split <;> rfl
@[simp] theorem State.reports_reply (s : State) (m : Msg) (k : Nat) (b : ReplyBody) : (s.reply m k b).reports = s.reports := by
  unfold State.reply; split <;> rfl
@[simp] theorem State.sent_reply (s : State) (m : Msg) (k : Nat) (b : ReplyBody) : (s.reply m k b).sent = s.sent := by
  unfold State.reply; split <;> rfl
@[simp] theorem State.acks_reply (s : State) (m : Msg) (k : Nat) (b : ReplyBody) : (s.reply m k b).acks = s.acks := by
  unfold State.reply; split <;> rfl
@[simp] theorem State.reads_reply (s : State) (m : Msg) (k : Nat) (b : ReplyBody) : (s.reply m k b).reads = s.reads := by
  unfold State.reply; split <;> rfl
@[simp] theorem State.inbound_reply (s : State) (m : Msg) (k : Nat) (b : ReplyBody) : (s.reply m k b).inbound = s.inbound := by
  unfold State.reply; split <;> rfl
@[simp] theorem State.poisoned_reply (s : State) (m : Msg) (k : Nat) (b : ReplyBody) : (s.reply m k b).poisoned = s.poisoned := by
  unfold State.reply; split <;> rfl
@[simp] theorem State.badSram_reply (s : State) (m : Msg) (k : Nat) (b : ReplyBody) : (s.reply m k b).badSram = s.badSram := by
  unfold State.reply; split <;> rfl
@[simp] theorem State.refresh_reply (s : State) (m : Msg) (k : Nat) (b : ReplyBody) : (s.reply m k b).refresh = s.refresh := by
  unfold State.reply; split <;> rfl
@[simp] theorem State.defects_reply (s : State) (m : Msg) (k : Nat) (b : ReplyBody) : (s.reply m k b).defects = s.defects := by
  unfold State.reply; split <;> rfl
@[simp] theorem State.boot_reply (s : State) (m : Msg) (k : Nat) (b : ReplyBody) : (s.reply m k b).boot = s.boot := by
  unfold State.reply; split <;> rfl
@[simp] theorem State.power_reply (s : State) (m : Msg) (k : Nat) (b : ReplyBody) : (s.reply m k b).power = s.power := by
  unfold State.reply; split <;> rfl
@[simp] theorem State.word_reply (s : State) (m : Msg) (k : Nat) (b : ReplyBody) : (s.reply m k b).word = s.word := by
  unfold State.reply; split <;> rfl
@[simp] theorem State.cur_reply (s : State) (m : Msg) (k : Nat) (b : ReplyBody) : (s.reply m k b).cur = s.cur := by
  unfold State.reply; split <;> rfl
@[simp] theorem State.agenda_reply (s : State) (m : Msg) (k : Nat) (b : ReplyBody) : (s.reply m k b).agenda = s.agenda := by
  unfold State.reply; split <;> rfl
@[simp] theorem State.queued_reply (s : State) (m : Msg) (k : Nat) (b : ReplyBody) : (s.reply m k b).queued = s.queued := by
  unfold State.reply; split <;> rfl
@[simp] theorem State.free_reply (s : State) (m : Msg) (k : Nat) (b : ReplyBody) : (s.reply m k b).free = s.free := by
  unfold State.reply; split <;> rfl

@[simp] theorem State.mem_setA (s : State) (r : Reg) (x : Word) (l : Nat) : (s.setA r x l).mem = s.mem := rfl
@[simp] theorem State.clusters_setA (s : State) (r : Reg) (x : Word) (l : Nat) : (s.setA r x l).clusters = s.clusters := rfl
@[simp] theorem State.dieTlb_setA (s : State) (r : Reg) (x : Word) (l : Nat) : (s.setA r x l).dieTlb = s.dieTlb := rfl
@[simp] theorem State.parts_setA (s : State) (r : Reg) (x : Word) (l : Nat) : (s.setA r x l).parts = s.parts := rfl
@[simp] theorem State.mtime_setA (s : State) (r : Reg) (x : Word) (l : Nat) : (s.setA r x l).mtime = s.mtime := rfl
@[simp] theorem State.synced_setA (s : State) (r : Reg) (x : Word) (l : Nat) : (s.setA r x l).synced = s.synced := rfl
@[simp] theorem State.unsent_setA (s : State) (r : Reg) (x : Word) (l : Nat) : (s.setA r x l).unsent = s.unsent := rfl
@[simp] theorem State.deaf_setA (s : State) (r : Reg) (x : Word) (l : Nat) : (s.setA r x l).deaf = s.deaf := rfl
@[simp] theorem State.rewritten_setA (s : State) (r : Reg) (x : Word) (l : Nat) : (s.setA r x l).rewritten = s.rewritten := rfl
@[simp] theorem State.watched_setA (s : State) (r : Reg) (x : Word) (l : Nat) : (s.setA r x l).watched = s.watched := rfl
@[simp] theorem State.early_setA (s : State) (r : Reg) (x : Word) (l : Nat) : (s.setA r x l).early = s.early := rfl
@[simp] theorem State.partly_setA (s : State) (r : Reg) (x : Word) (l : Nat) : (s.setA r x l).partly = s.partly := rfl
@[simp] theorem State.s2_setA (s : State) (r : Reg) (x : Word) (l : Nat) : (s.setA r x l).s2 = s.s2 := rfl
@[simp] theorem State.s2miss_setA (s : State) (r : Reg) (x : Word) (l : Nat) : (s.setA r x l).s2miss = s.s2miss := rfl
@[simp] theorem State.fills_setA (s : State) (r : Reg) (x : Word) (l : Nat) : (s.setA r x l).fills = s.fills := rfl
@[simp] theorem State.replies_setA (s : State) (r : Reg) (x : Word) (l : Nat) : (s.setA r x l).replies = s.replies := rfl
@[simp] theorem State.reports_setA (s : State) (r : Reg) (x : Word) (l : Nat) : (s.setA r x l).reports = s.reports := rfl
@[simp] theorem State.sent_setA (s : State) (r : Reg) (x : Word) (l : Nat) : (s.setA r x l).sent = s.sent := rfl
@[simp] theorem State.acks_setA (s : State) (r : Reg) (x : Word) (l : Nat) : (s.setA r x l).acks = s.acks := rfl
@[simp] theorem State.reads_setA (s : State) (r : Reg) (x : Word) (l : Nat) : (s.setA r x l).reads = s.reads := rfl
@[simp] theorem State.inbound_setA (s : State) (r : Reg) (x : Word) (l : Nat) : (s.setA r x l).inbound = s.inbound := rfl
@[simp] theorem State.poisoned_setA (s : State) (r : Reg) (x : Word) (l : Nat) : (s.setA r x l).poisoned = s.poisoned := rfl
@[simp] theorem State.badSram_setA (s : State) (r : Reg) (x : Word) (l : Nat) : (s.setA r x l).badSram = s.badSram := rfl
@[simp] theorem State.refresh_setA (s : State) (r : Reg) (x : Word) (l : Nat) : (s.setA r x l).refresh = s.refresh := rfl
@[simp] theorem State.defects_setA (s : State) (r : Reg) (x : Word) (l : Nat) : (s.setA r x l).defects = s.defects := rfl
@[simp] theorem State.boot_setA (s : State) (r : Reg) (x : Word) (l : Nat) : (s.setA r x l).boot = s.boot := rfl
@[simp] theorem State.power_setA (s : State) (r : Reg) (x : Word) (l : Nat) : (s.setA r x l).power = s.power := rfl
@[simp] theorem State.word_setA (s : State) (r : Reg) (x : Word) (l : Nat) : (s.setA r x l).word = s.word := rfl
@[simp] theorem State.cur_setA (s : State) (r : Reg) (x : Word) (l : Nat) : (s.setA r x l).cur = s.cur := rfl
@[simp] theorem State.agenda_setA (s : State) (r : Reg) (x : Word) (l : Nat) : (s.setA r x l).agenda = s.agenda := rfl
@[simp] theorem State.queued_setA (s : State) (r : Reg) (x : Word) (l : Nat) : (s.setA r x l).queued = s.queued := rfl
@[simp] theorem State.free_setA (s : State) (r : Reg) (x : Word) (l : Nat) : (s.setA r x l).free = s.free := rfl

@[simp] theorem State.mem_setM (s : State) (r : MReg) (k x : BitVec 4096) (l : Nat) : (s.setM r k x l).mem = s.mem := rfl
@[simp] theorem State.clusters_setM (s : State) (r : MReg) (k x : BitVec 4096) (l : Nat) : (s.setM r k x l).clusters = s.clusters := rfl
@[simp] theorem State.dieTlb_setM (s : State) (r : MReg) (k x : BitVec 4096) (l : Nat) : (s.setM r k x l).dieTlb = s.dieTlb := rfl
@[simp] theorem State.parts_setM (s : State) (r : MReg) (k x : BitVec 4096) (l : Nat) : (s.setM r k x l).parts = s.parts := rfl
@[simp] theorem State.mtime_setM (s : State) (r : MReg) (k x : BitVec 4096) (l : Nat) : (s.setM r k x l).mtime = s.mtime := rfl
@[simp] theorem State.synced_setM (s : State) (r : MReg) (k x : BitVec 4096) (l : Nat) : (s.setM r k x l).synced = s.synced := rfl
@[simp] theorem State.unsent_setM (s : State) (r : MReg) (k x : BitVec 4096) (l : Nat) : (s.setM r k x l).unsent = s.unsent := rfl
@[simp] theorem State.deaf_setM (s : State) (r : MReg) (k x : BitVec 4096) (l : Nat) : (s.setM r k x l).deaf = s.deaf := rfl
@[simp] theorem State.rewritten_setM (s : State) (r : MReg) (k x : BitVec 4096) (l : Nat) : (s.setM r k x l).rewritten = s.rewritten := rfl
@[simp] theorem State.watched_setM (s : State) (r : MReg) (k x : BitVec 4096) (l : Nat) : (s.setM r k x l).watched = s.watched := rfl
@[simp] theorem State.early_setM (s : State) (r : MReg) (k x : BitVec 4096) (l : Nat) : (s.setM r k x l).early = s.early := rfl
@[simp] theorem State.partly_setM (s : State) (r : MReg) (k x : BitVec 4096) (l : Nat) : (s.setM r k x l).partly = s.partly := rfl
@[simp] theorem State.s2_setM (s : State) (r : MReg) (k x : BitVec 4096) (l : Nat) : (s.setM r k x l).s2 = s.s2 := rfl
@[simp] theorem State.s2miss_setM (s : State) (r : MReg) (k x : BitVec 4096) (l : Nat) : (s.setM r k x l).s2miss = s.s2miss := rfl
@[simp] theorem State.fills_setM (s : State) (r : MReg) (k x : BitVec 4096) (l : Nat) : (s.setM r k x l).fills = s.fills := rfl
@[simp] theorem State.replies_setM (s : State) (r : MReg) (k x : BitVec 4096) (l : Nat) : (s.setM r k x l).replies = s.replies := rfl
@[simp] theorem State.reports_setM (s : State) (r : MReg) (k x : BitVec 4096) (l : Nat) : (s.setM r k x l).reports = s.reports := rfl
@[simp] theorem State.sent_setM (s : State) (r : MReg) (k x : BitVec 4096) (l : Nat) : (s.setM r k x l).sent = s.sent := rfl
@[simp] theorem State.acks_setM (s : State) (r : MReg) (k x : BitVec 4096) (l : Nat) : (s.setM r k x l).acks = s.acks := rfl
@[simp] theorem State.reads_setM (s : State) (r : MReg) (k x : BitVec 4096) (l : Nat) : (s.setM r k x l).reads = s.reads := rfl
@[simp] theorem State.inbound_setM (s : State) (r : MReg) (k x : BitVec 4096) (l : Nat) : (s.setM r k x l).inbound = s.inbound := rfl
@[simp] theorem State.poisoned_setM (s : State) (r : MReg) (k x : BitVec 4096) (l : Nat) : (s.setM r k x l).poisoned = s.poisoned := rfl
@[simp] theorem State.badSram_setM (s : State) (r : MReg) (k x : BitVec 4096) (l : Nat) : (s.setM r k x l).badSram = s.badSram := rfl
@[simp] theorem State.refresh_setM (s : State) (r : MReg) (k x : BitVec 4096) (l : Nat) : (s.setM r k x l).refresh = s.refresh := rfl
@[simp] theorem State.defects_setM (s : State) (r : MReg) (k x : BitVec 4096) (l : Nat) : (s.setM r k x l).defects = s.defects := rfl
@[simp] theorem State.boot_setM (s : State) (r : MReg) (k x : BitVec 4096) (l : Nat) : (s.setM r k x l).boot = s.boot := rfl
@[simp] theorem State.power_setM (s : State) (r : MReg) (k x : BitVec 4096) (l : Nat) : (s.setM r k x l).power = s.power := rfl
@[simp] theorem State.word_setM (s : State) (r : MReg) (k x : BitVec 4096) (l : Nat) : (s.setM r k x l).word = s.word := rfl
@[simp] theorem State.cur_setM (s : State) (r : MReg) (k x : BitVec 4096) (l : Nat) : (s.setM r k x l).cur = s.cur := rfl
@[simp] theorem State.agenda_setM (s : State) (r : MReg) (k x : BitVec 4096) (l : Nat) : (s.setM r k x l).agenda = s.agenda := rfl
@[simp] theorem State.queued_setM (s : State) (r : MReg) (k x : BitVec 4096) (l : Nat) : (s.setM r k x l).queued = s.queued := rfl
@[simp] theorem State.free_setM (s : State) (r : MReg) (k x : BitVec 4096) (l : Nat) : (s.setM r k x l).free = s.free := rfl

/-! ### Updates of a hart, field by field -/

@[simp] theorem Hart.status_flag (h : Hart) (f : BitVec 8) : (h.flag f).status = h.status := rfl
@[simp] theorem Hart.a_flag (h : Hart) (f : BitVec 8) : (h.flag f).a = h.a := rfl
@[simp] theorem Hart.v_flag (h : Hart) (f : BitVec 8) : (h.flag f).v = h.v := rfl
@[simp] theorem Hart.m_flag (h : Hart) (f : BitVec 8) : (h.flag f).m = h.m := rfl
@[simp] theorem Hart.st_flag (h : Hart) (f : BitVec 8) : (h.flag f).st = h.st := rfl
@[simp] theorem Hart.pc_flag (h : Hart) (f : BitVec 8) : (h.flag f).pc = h.pc := rfl
@[simp] theorem Hart.hctl_flag (h : Hart) (f : BitVec 8) : (h.flag f).hctl = h.hctl := rfl
@[simp] theorem Hart.vl_flag (h : Hart) (f : BitVec 8) : (h.flag f).vl = h.vl := rfl
@[simp] theorem Hart.vtype_flag (h : Hart) (f : BitVec 8) : (h.flag f).vtype = h.vtype := rfl
@[simp] theorem Hart.live_flag (h : Hart) (f : BitVec 8) : (h.flag f).live = h.live := rfl
@[simp] theorem Hart.estart_flag (h : Hart) (f : BitVec 8) : (h.flag f).estart = h.estart := rfl
@[simp] theorem Hart.lgp_flag (h : Hart) (f : BitVec 8) : (h.flag f).lgp = h.lgp := rfl
@[simp] theorem Hart.tcause_flag (h : Hart) (f : BitVec 8) : (h.flag f).tcause = h.tcause := rfl
@[simp] theorem Hart.tval_flag (h : Hart) (f : BitVec 8) : (h.flag f).tval = h.tval := rfl
@[simp] theorem Hart.tpc_flag (h : Hart) (f : BitVec 8) : (h.flag f).tpc = h.tpc := rfl
@[simp] theorem Hart.tpfx_flag (h : Hart) (f : BitVec 8) : (h.flag f).tpfx = h.tpfx := rfl
@[simp] theorem Hart.tstat_flag (h : Hart) (f : BitVec 8) : (h.flag f).tstat = h.tstat := rfl
@[simp] theorem Hart.rng0_flag (h : Hart) (f : BitVec 8) : (h.flag f).rng0 = h.rng0 := rfl
@[simp] theorem Hart.rng1_flag (h : Hart) (f : BitVec 8) : (h.flag f).rng1 = h.rng1 := rfl
@[simp] theorem Hart.smiss_flag (h : Hart) (f : BitVec 8) : (h.flag f).smiss = h.smiss := rfl
@[simp] theorem Hart.smissCopy_flag (h : Hart) (f : BitVec 8) : (h.flag f).smissCopy = h.smissCopy := rfl
@[simp] theorem Hart.bdone_flag (h : Hart) (f : BitVec 8) : (h.flag f).bdone = h.bdone := rfl
@[simp] theorem Hart.hwm_flag (h : Hart) (f : BitVec 8) : (h.flag f).hwm = h.hwm := rfl
@[simp] theorem Hart.lmap_flag (h : Hart) (f : BitVec 8) : (h.flag f).lmap = h.lmap := rfl
@[simp] theorem Hart.tvec_flag (h : Hart) (f : BitVec 8) : (h.flag f).tvec = h.tvec := rfl
@[simp] theorem Hart.bstp_flag (h : Hart) (f : BitVec 8) : (h.flag f).bstp = h.bstp := rfl
@[simp] theorem Hart.scpwin_flag (h : Hart) (f : BitVec 8) : (h.flag f).scpwin = h.scpwin := rfl
@[simp] theorem Hart.lent_flag (h : Hart) (f : BitVec 8) : (h.flag f).lent = h.lent := rfl
@[simp] theorem Hart.now_flag (h : Hart) (f : BitVec 8) : (h.flag f).now = h.now := rfl
@[simp] theorem Hart.stalls_flag (h : Hart) (f : BitVec 8) : (h.flag f).stalls = h.stalls := rfl
@[simp] theorem Hart.pend_flag (h : Hart) (f : BitVec 8) : (h.flag f).pend = h.pend := rfl
@[simp] theorem Hart.queue_flag (h : Hart) (f : BitVec 8) : (h.flag f).queue = h.queue := rfl
@[simp] theorem Hart.posted_flag (h : Hart) (f : BitVec 8) : (h.flag f).posted = h.posted := rfl
@[simp] theorem Hart.banks_flag (h : Hart) (f : BitVec 8) : (h.flag f).banks = h.banks := rfl
@[simp] theorem Hart.async_flag (h : Hart) (f : BitVec 8) : (h.flag f).async = h.async := rfl
@[simp] theorem Hart.preempt_flag (h : Hart) (f : BitVec 8) : (h.flag f).preempt = h.preempt := rfl
@[simp] theorem Hart.asked_flag (h : Hart) (f : BitVec 8) : (h.flag f).asked = h.asked := rfl
@[simp] theorem Hart.ahead_flag (h : Hart) (f : BitVec 8) : (h.flag f).gathers = h.gathers := rfl
@[simp] theorem Hart.engaged_flag (h : Hart) (f : BitVec 8) : (h.flag f).engaged = h.engaged := rfl
@[simp] theorem Hart.floor_flag (h : Hart) (f : BitVec 8) : (h.flag f).floor = h.floor := rfl
@[simp] theorem Hart.expired_flag (h : Hart) (f : BitVec 8) : (h.flag f).expired = h.expired := rfl
@[simp] theorem Hart.woken_flag (h : Hart) (f : BitVec 8) : (h.flag f).woken = h.woken := rfl
@[simp] theorem Hart.asleep_flag (h : Hart) (f : BitVec 8) : (h.flag f).asleep = h.asleep := rfl
@[simp] theorem Hart.stop_flag (h : Hart) (f : BitVec 8) : (h.flag f).stop = h.stop := rfl
@[simp] theorem Hart.bySave_flag (h : Hart) (f : BitVec 8) : (h.flag f).bySave = h.bySave := rfl

@[simp] theorem Hart.byLog_flag (h : Hart) (f : BitVec 8) : (h.flag f).byLog = h.byLog := rfl

@[simp] theorem Hart.status_mark (h : Hart) (r : Reg) (n : Nat) : (h.mark r n).status = h.status := rfl
@[simp] theorem Hart.a_mark (h : Hart) (r : Reg) (n : Nat) : (h.mark r n).a = h.a := rfl
@[simp] theorem Hart.v_mark (h : Hart) (r : Reg) (n : Nat) : (h.mark r n).v = h.v := rfl
@[simp] theorem Hart.m_mark (h : Hart) (r : Reg) (n : Nat) : (h.mark r n).m = h.m := rfl
@[simp] theorem Hart.st_mark (h : Hart) (r : Reg) (n : Nat) : (h.mark r n).st = h.st := rfl
@[simp] theorem Hart.pc_mark (h : Hart) (r : Reg) (n : Nat) : (h.mark r n).pc = h.pc := rfl
@[simp] theorem Hart.hctl_mark (h : Hart) (r : Reg) (n : Nat) : (h.mark r n).hctl = h.hctl := rfl
@[simp] theorem Hart.vl_mark (h : Hart) (r : Reg) (n : Nat) : (h.mark r n).vl = h.vl := rfl
@[simp] theorem Hart.vtype_mark (h : Hart) (r : Reg) (n : Nat) : (h.mark r n).vtype = h.vtype := rfl
@[simp] theorem Hart.live_mark (h : Hart) (r : Reg) (n : Nat) : (h.mark r n).live = h.live := rfl
@[simp] theorem Hart.estart_mark (h : Hart) (r : Reg) (n : Nat) : (h.mark r n).estart = h.estart := rfl
@[simp] theorem Hart.lgp_mark (h : Hart) (r : Reg) (n : Nat) : (h.mark r n).lgp = h.lgp := rfl
@[simp] theorem Hart.tcause_mark (h : Hart) (r : Reg) (n : Nat) : (h.mark r n).tcause = h.tcause := rfl
@[simp] theorem Hart.tval_mark (h : Hart) (r : Reg) (n : Nat) : (h.mark r n).tval = h.tval := rfl
@[simp] theorem Hart.tpc_mark (h : Hart) (r : Reg) (n : Nat) : (h.mark r n).tpc = h.tpc := rfl
@[simp] theorem Hart.tpfx_mark (h : Hart) (r : Reg) (n : Nat) : (h.mark r n).tpfx = h.tpfx := rfl
@[simp] theorem Hart.tstat_mark (h : Hart) (r : Reg) (n : Nat) : (h.mark r n).tstat = h.tstat := rfl
@[simp] theorem Hart.fstat_mark (h : Hart) (r : Reg) (n : Nat) : (h.mark r n).fstat = h.fstat := rfl
@[simp] theorem Hart.rng0_mark (h : Hart) (r : Reg) (n : Nat) : (h.mark r n).rng0 = h.rng0 := rfl
@[simp] theorem Hart.rng1_mark (h : Hart) (r : Reg) (n : Nat) : (h.mark r n).rng1 = h.rng1 := rfl
@[simp] theorem Hart.smiss_mark (h : Hart) (r : Reg) (n : Nat) : (h.mark r n).smiss = h.smiss := rfl
@[simp] theorem Hart.smissCopy_mark (h : Hart) (r : Reg) (n : Nat) : (h.mark r n).smissCopy = h.smissCopy := rfl
@[simp] theorem Hart.bdone_mark (h : Hart) (r : Reg) (n : Nat) : (h.mark r n).bdone = h.bdone := rfl
@[simp] theorem Hart.lmap_mark (h : Hart) (r : Reg) (n : Nat) : (h.mark r n).lmap = h.lmap := rfl
@[simp] theorem Hart.tvec_mark (h : Hart) (r : Reg) (n : Nat) : (h.mark r n).tvec = h.tvec := rfl
@[simp] theorem Hart.bstp_mark (h : Hart) (r : Reg) (n : Nat) : (h.mark r n).bstp = h.bstp := rfl
@[simp] theorem Hart.scpwin_mark (h : Hart) (r : Reg) (n : Nat) : (h.mark r n).scpwin = h.scpwin := rfl
@[simp] theorem Hart.lent_mark (h : Hart) (r : Reg) (n : Nat) : (h.mark r n).lent = h.lent := rfl
@[simp] theorem Hart.now_mark (h : Hart) (r : Reg) (n : Nat) : (h.mark r n).now = h.now := rfl
@[simp] theorem Hart.stalls_mark (h : Hart) (r : Reg) (n : Nat) : (h.mark r n).stalls = h.stalls := rfl
@[simp] theorem Hart.pend_mark (h : Hart) (r : Reg) (n : Nat) : (h.mark r n).pend = h.pend := rfl
@[simp] theorem Hart.queue_mark (h : Hart) (r : Reg) (n : Nat) : (h.mark r n).queue = h.queue := rfl
@[simp] theorem Hart.posted_mark (h : Hart) (r : Reg) (n : Nat) : (h.mark r n).posted = h.posted := rfl
@[simp] theorem Hart.banks_mark (h : Hart) (r : Reg) (n : Nat) : (h.mark r n).banks = h.banks := rfl
@[simp] theorem Hart.async_mark (h : Hart) (r : Reg) (n : Nat) : (h.mark r n).async = h.async := rfl
@[simp] theorem Hart.preempt_mark (h : Hart) (r : Reg) (n : Nat) : (h.mark r n).preempt = h.preempt := rfl
@[simp] theorem Hart.asked_mark (h : Hart) (r : Reg) (n : Nat) : (h.mark r n).asked = h.asked := rfl
@[simp] theorem Hart.ahead_mark (h : Hart) (r : Reg) (n : Nat) : (h.mark r n).gathers = h.gathers := rfl
@[simp] theorem Hart.engaged_mark (h : Hart) (r : Reg) (n : Nat) : (h.mark r n).engaged = h.engaged := rfl
@[simp] theorem Hart.floor_mark (h : Hart) (r : Reg) (n : Nat) : (h.mark r n).floor = h.floor := rfl
@[simp] theorem Hart.expired_mark (h : Hart) (r : Reg) (n : Nat) : (h.mark r n).expired = h.expired := rfl
@[simp] theorem Hart.woken_mark (h : Hart) (r : Reg) (n : Nat) : (h.mark r n).woken = h.woken := rfl
@[simp] theorem Hart.asleep_mark (h : Hart) (r : Reg) (n : Nat) : (h.mark r n).asleep = h.asleep := rfl
@[simp] theorem Hart.stop_mark (h : Hart) (r : Reg) (n : Nat) : (h.mark r n).stop = h.stop := rfl
@[simp] theorem Hart.bySave_mark (h : Hart) (r : Reg) (n : Nat) : (h.mark r n).bySave = h.bySave := rfl

@[simp] theorem Hart.byLog_mark (h : Hart) (r : Reg) (n : Nat) : (h.mark r n).byLog = h.byLog := rfl

@[simp] theorem Hart.status_progress0 (h : Hart) : (h.progress0).status = h.status := rfl
@[simp] theorem Hart.a_progress0 (h : Hart) : (h.progress0).a = h.a := rfl
@[simp] theorem Hart.v_progress0 (h : Hart) : (h.progress0).v = h.v := rfl
@[simp] theorem Hart.m_progress0 (h : Hart) : (h.progress0).m = h.m := rfl
@[simp] theorem Hart.st_progress0 (h : Hart) : (h.progress0).st = h.st := rfl
@[simp] theorem Hart.pc_progress0 (h : Hart) : (h.progress0).pc = h.pc := rfl
@[simp] theorem Hart.hctl_progress0 (h : Hart) : (h.progress0).hctl = h.hctl := rfl
@[simp] theorem Hart.vl_progress0 (h : Hart) : (h.progress0).vl = h.vl := rfl
@[simp] theorem Hart.vtype_progress0 (h : Hart) : (h.progress0).vtype = h.vtype := rfl
@[simp] theorem Hart.live_progress0 (h : Hart) : (h.progress0).live = h.live := rfl
@[simp] theorem Hart.tcause_progress0 (h : Hart) : (h.progress0).tcause = h.tcause := rfl
@[simp] theorem Hart.tval_progress0 (h : Hart) : (h.progress0).tval = h.tval := rfl
@[simp] theorem Hart.tpc_progress0 (h : Hart) : (h.progress0).tpc = h.tpc := rfl
@[simp] theorem Hart.tpfx_progress0 (h : Hart) : (h.progress0).tpfx = h.tpfx := rfl
@[simp] theorem Hart.tstat_progress0 (h : Hart) : (h.progress0).tstat = h.tstat := rfl
@[simp] theorem Hart.fstat_progress0 (h : Hart) : (h.progress0).fstat = h.fstat := rfl
@[simp] theorem Hart.rng0_progress0 (h : Hart) : (h.progress0).rng0 = h.rng0 := rfl
@[simp] theorem Hart.rng1_progress0 (h : Hart) : (h.progress0).rng1 = h.rng1 := rfl
@[simp] theorem Hart.smiss_progress0 (h : Hart) : (h.progress0).smiss = h.smiss := rfl
@[simp] theorem Hart.smissCopy_progress0 (h : Hart) : (h.progress0).smissCopy = h.smissCopy := rfl
@[simp] theorem Hart.bdone_progress0 (h : Hart) : (h.progress0).bdone = h.bdone := rfl
@[simp] theorem Hart.hwm_progress0 (h : Hart) : (h.progress0).hwm = h.hwm := rfl
@[simp] theorem Hart.lmap_progress0 (h : Hart) : (h.progress0).lmap = h.lmap := rfl
@[simp] theorem Hart.tvec_progress0 (h : Hart) : (h.progress0).tvec = h.tvec := rfl
@[simp] theorem Hart.bstp_progress0 (h : Hart) : (h.progress0).bstp = h.bstp := rfl
@[simp] theorem Hart.scpwin_progress0 (h : Hart) : (h.progress0).scpwin = h.scpwin := rfl
@[simp] theorem Hart.lent_progress0 (h : Hart) : (h.progress0).lent = h.lent := rfl
@[simp] theorem Hart.now_progress0 (h : Hart) : (h.progress0).now = h.now := rfl
@[simp] theorem Hart.stalls_progress0 (h : Hart) : (h.progress0).stalls = h.stalls := rfl
@[simp] theorem Hart.pend_progress0 (h : Hart) : (h.progress0).pend = h.pend := rfl
@[simp] theorem Hart.queue_progress0 (h : Hart) : (h.progress0).queue = h.queue := rfl
@[simp] theorem Hart.posted_progress0 (h : Hart) : (h.progress0).posted = h.posted := rfl
@[simp] theorem Hart.banks_progress0 (h : Hart) : (h.progress0).banks = h.banks := rfl
@[simp] theorem Hart.async_progress0 (h : Hart) : (h.progress0).async = h.async := rfl
@[simp] theorem Hart.preempt_progress0 (h : Hart) : (h.progress0).preempt = h.preempt := rfl
@[simp] theorem Hart.asked_progress0 (h : Hart) : (h.progress0).asked = h.asked := rfl
@[simp] theorem Hart.ahead_progress0 (h : Hart) : (h.progress0).gathers = h.gathers := rfl
@[simp] theorem Hart.engaged_progress0 (h : Hart) : (h.progress0).engaged = h.engaged := rfl
@[simp] theorem Hart.floor_progress0 (h : Hart) : (h.progress0).floor = h.floor := rfl
@[simp] theorem Hart.expired_progress0 (h : Hart) : (h.progress0).expired = h.expired := rfl
@[simp] theorem Hart.woken_progress0 (h : Hart) : (h.progress0).woken = h.woken := rfl
@[simp] theorem Hart.asleep_progress0 (h : Hart) : (h.progress0).asleep = h.asleep := rfl
@[simp] theorem Hart.stop_progress0 (h : Hart) : (h.progress0).stop = h.stop := rfl
@[simp] theorem Hart.bySave_progress0 (h : Hart) : (h.progress0).bySave = h.bySave := rfl

@[simp] theorem Hart.byLog_progress0 (h : Hart) : (h.progress0).byLog = h.byLog := rfl

@[simp] theorem Hart.status_progressAt (h : Hart) (k : Nat) : (h.progressAt k).status = h.status := rfl
@[simp] theorem Hart.a_progressAt (h : Hart) (k : Nat) : (h.progressAt k).a = h.a := rfl
@[simp] theorem Hart.v_progressAt (h : Hart) (k : Nat) : (h.progressAt k).v = h.v := rfl
@[simp] theorem Hart.m_progressAt (h : Hart) (k : Nat) : (h.progressAt k).m = h.m := rfl
@[simp] theorem Hart.st_progressAt (h : Hart) (k : Nat) : (h.progressAt k).st = h.st := rfl
@[simp] theorem Hart.pc_progressAt (h : Hart) (k : Nat) : (h.progressAt k).pc = h.pc := rfl
@[simp] theorem Hart.hctl_progressAt (h : Hart) (k : Nat) : (h.progressAt k).hctl = h.hctl := rfl
@[simp] theorem Hart.vl_progressAt (h : Hart) (k : Nat) : (h.progressAt k).vl = h.vl := rfl
@[simp] theorem Hart.vtype_progressAt (h : Hart) (k : Nat) : (h.progressAt k).vtype = h.vtype := rfl
@[simp] theorem Hart.live_progressAt (h : Hart) (k : Nat) : (h.progressAt k).live = h.live := rfl
@[simp] theorem Hart.tcause_progressAt (h : Hart) (k : Nat) : (h.progressAt k).tcause = h.tcause := rfl
@[simp] theorem Hart.tval_progressAt (h : Hart) (k : Nat) : (h.progressAt k).tval = h.tval := rfl
@[simp] theorem Hart.tpc_progressAt (h : Hart) (k : Nat) : (h.progressAt k).tpc = h.tpc := rfl
@[simp] theorem Hart.tpfx_progressAt (h : Hart) (k : Nat) : (h.progressAt k).tpfx = h.tpfx := rfl
@[simp] theorem Hart.tstat_progressAt (h : Hart) (k : Nat) : (h.progressAt k).tstat = h.tstat := rfl
@[simp] theorem Hart.fstat_progressAt (h : Hart) (k : Nat) : (h.progressAt k).fstat = h.fstat := rfl
@[simp] theorem Hart.rng0_progressAt (h : Hart) (k : Nat) : (h.progressAt k).rng0 = h.rng0 := rfl
@[simp] theorem Hart.rng1_progressAt (h : Hart) (k : Nat) : (h.progressAt k).rng1 = h.rng1 := rfl
@[simp] theorem Hart.smiss_progressAt (h : Hart) (k : Nat) : (h.progressAt k).smiss = h.smiss := rfl
@[simp] theorem Hart.smissCopy_progressAt (h : Hart) (k : Nat) : (h.progressAt k).smissCopy = h.smissCopy := rfl
@[simp] theorem Hart.bdone_progressAt (h : Hart) (k : Nat) : (h.progressAt k).bdone = h.bdone := rfl
@[simp] theorem Hart.hwm_progressAt (h : Hart) (k : Nat) : (h.progressAt k).hwm = h.hwm := rfl
@[simp] theorem Hart.lmap_progressAt (h : Hart) (k : Nat) : (h.progressAt k).lmap = h.lmap := rfl
@[simp] theorem Hart.tvec_progressAt (h : Hart) (k : Nat) : (h.progressAt k).tvec = h.tvec := rfl
@[simp] theorem Hart.bstp_progressAt (h : Hart) (k : Nat) : (h.progressAt k).bstp = h.bstp := rfl
@[simp] theorem Hart.scpwin_progressAt (h : Hart) (k : Nat) : (h.progressAt k).scpwin = h.scpwin := rfl
@[simp] theorem Hart.lent_progressAt (h : Hart) (k : Nat) : (h.progressAt k).lent = h.lent := rfl
@[simp] theorem Hart.now_progressAt (h : Hart) (k : Nat) : (h.progressAt k).now = h.now := rfl
@[simp] theorem Hart.stalls_progressAt (h : Hart) (k : Nat) : (h.progressAt k).stalls = h.stalls := rfl
@[simp] theorem Hart.pend_progressAt (h : Hart) (k : Nat) : (h.progressAt k).pend = h.pend := rfl
@[simp] theorem Hart.queue_progressAt (h : Hart) (k : Nat) : (h.progressAt k).queue = h.queue := rfl
@[simp] theorem Hart.posted_progressAt (h : Hart) (k : Nat) : (h.progressAt k).posted = h.posted := rfl
@[simp] theorem Hart.banks_progressAt (h : Hart) (k : Nat) : (h.progressAt k).banks = h.banks := rfl
@[simp] theorem Hart.async_progressAt (h : Hart) (k : Nat) : (h.progressAt k).async = h.async := rfl
@[simp] theorem Hart.preempt_progressAt (h : Hart) (k : Nat) : (h.progressAt k).preempt = h.preempt := rfl
@[simp] theorem Hart.asked_progressAt (h : Hart) (k : Nat) : (h.progressAt k).asked = h.asked := rfl
@[simp] theorem Hart.ahead_progressAt (h : Hart) (k : Nat) : (h.progressAt k).gathers = h.gathers := rfl
@[simp] theorem Hart.engaged_progressAt (h : Hart) (k : Nat) : (h.progressAt k).engaged = h.engaged := rfl
@[simp] theorem Hart.floor_progressAt (h : Hart) (k : Nat) : (h.progressAt k).floor = h.floor := rfl
@[simp] theorem Hart.expired_progressAt (h : Hart) (k : Nat) : (h.progressAt k).expired = h.expired := rfl
@[simp] theorem Hart.woken_progressAt (h : Hart) (k : Nat) : (h.progressAt k).woken = h.woken := rfl
@[simp] theorem Hart.asleep_progressAt (h : Hart) (k : Nat) : (h.progressAt k).asleep = h.asleep := rfl
@[simp] theorem Hart.stop_progressAt (h : Hart) (k : Nat) : (h.progressAt k).stop = h.stop := rfl
@[simp] theorem Hart.bySave_progressAt (h : Hart) (k : Nat) : (h.progressAt k).bySave = h.bySave := rfl

@[simp] theorem Hart.byLog_progressAt (h : Hart) (k : Nat) : (h.progressAt k).byLog = h.byLog := rfl

@[simp] theorem Hart.status_setS (h : Hart) (r : SReg) (t : Stream) : (h.setS r t).status = h.status := rfl
@[simp] theorem Hart.a_setS (h : Hart) (r : SReg) (t : Stream) : (h.setS r t).a = h.a := rfl
@[simp] theorem Hart.v_setS (h : Hart) (r : SReg) (t : Stream) : (h.setS r t).v = h.v := rfl
@[simp] theorem Hart.m_setS (h : Hart) (r : SReg) (t : Stream) : (h.setS r t).m = h.m := rfl
@[simp] theorem Hart.pc_setS (h : Hart) (r : SReg) (t : Stream) : (h.setS r t).pc = h.pc := rfl
@[simp] theorem Hart.hctl_setS (h : Hart) (r : SReg) (t : Stream) : (h.setS r t).hctl = h.hctl := rfl
@[simp] theorem Hart.vl_setS (h : Hart) (r : SReg) (t : Stream) : (h.setS r t).vl = h.vl := rfl
@[simp] theorem Hart.vtype_setS (h : Hart) (r : SReg) (t : Stream) : (h.setS r t).vtype = h.vtype := rfl
@[simp] theorem Hart.live_setS (h : Hart) (r : SReg) (t : Stream) : (h.setS r t).live = h.live := rfl
@[simp] theorem Hart.estart_setS (h : Hart) (r : SReg) (t : Stream) : (h.setS r t).estart = h.estart := rfl
@[simp] theorem Hart.lgp_setS (h : Hart) (r : SReg) (t : Stream) : (h.setS r t).lgp = h.lgp := rfl
@[simp] theorem Hart.tcause_setS (h : Hart) (r : SReg) (t : Stream) : (h.setS r t).tcause = h.tcause := rfl
@[simp] theorem Hart.tval_setS (h : Hart) (r : SReg) (t : Stream) : (h.setS r t).tval = h.tval := rfl
@[simp] theorem Hart.tpc_setS (h : Hart) (r : SReg) (t : Stream) : (h.setS r t).tpc = h.tpc := rfl
@[simp] theorem Hart.tpfx_setS (h : Hart) (r : SReg) (t : Stream) : (h.setS r t).tpfx = h.tpfx := rfl
@[simp] theorem Hart.tstat_setS (h : Hart) (r : SReg) (t : Stream) : (h.setS r t).tstat = h.tstat := rfl
@[simp] theorem Hart.fstat_setS (h : Hart) (r : SReg) (t : Stream) : (h.setS r t).fstat = h.fstat := rfl
@[simp] theorem Hart.rng0_setS (h : Hart) (r : SReg) (t : Stream) : (h.setS r t).rng0 = h.rng0 := rfl
@[simp] theorem Hart.rng1_setS (h : Hart) (r : SReg) (t : Stream) : (h.setS r t).rng1 = h.rng1 := rfl
@[simp] theorem Hart.smiss_setS (h : Hart) (r : SReg) (t : Stream) : (h.setS r t).smiss = h.smiss := rfl
@[simp] theorem Hart.smissCopy_setS (h : Hart) (r : SReg) (t : Stream) : (h.setS r t).smissCopy = h.smissCopy := rfl
@[simp] theorem Hart.bdone_setS (h : Hart) (r : SReg) (t : Stream) : (h.setS r t).bdone = h.bdone := rfl
@[simp] theorem Hart.hwm_setS (h : Hart) (r : SReg) (t : Stream) : (h.setS r t).hwm = h.hwm := rfl
@[simp] theorem Hart.lmap_setS (h : Hart) (r : SReg) (t : Stream) : (h.setS r t).lmap = h.lmap := rfl
@[simp] theorem Hart.tvec_setS (h : Hart) (r : SReg) (t : Stream) : (h.setS r t).tvec = h.tvec := rfl
@[simp] theorem Hart.bstp_setS (h : Hart) (r : SReg) (t : Stream) : (h.setS r t).bstp = h.bstp := rfl
@[simp] theorem Hart.scpwin_setS (h : Hart) (r : SReg) (t : Stream) : (h.setS r t).scpwin = h.scpwin := rfl
@[simp] theorem Hart.lent_setS (h : Hart) (r : SReg) (t : Stream) : (h.setS r t).lent = h.lent := rfl
@[simp] theorem Hart.now_setS (h : Hart) (r : SReg) (t : Stream) : (h.setS r t).now = h.now := rfl
@[simp] theorem Hart.stalls_setS (h : Hart) (r : SReg) (t : Stream) : (h.setS r t).stalls = h.stalls := rfl
@[simp] theorem Hart.pend_setS (h : Hart) (r : SReg) (t : Stream) : (h.setS r t).pend = h.pend := rfl
@[simp] theorem Hart.queue_setS (h : Hart) (r : SReg) (t : Stream) : (h.setS r t).queue = h.queue := rfl
@[simp] theorem Hart.posted_setS (h : Hart) (r : SReg) (t : Stream) : (h.setS r t).posted = h.posted := rfl
@[simp] theorem Hart.banks_setS (h : Hart) (r : SReg) (t : Stream) : (h.setS r t).banks = h.banks := rfl
@[simp] theorem Hart.async_setS (h : Hart) (r : SReg) (t : Stream) : (h.setS r t).async = h.async := rfl
@[simp] theorem Hart.preempt_setS (h : Hart) (r : SReg) (t : Stream) : (h.setS r t).preempt = h.preempt := rfl
@[simp] theorem Hart.asked_setS (h : Hart) (r : SReg) (t : Stream) : (h.setS r t).asked = h.asked := rfl
@[simp] theorem Hart.ahead_setS (h : Hart) (r : SReg) (t : Stream) : (h.setS r t).gathers = h.gathers := rfl
@[simp] theorem Hart.engaged_setS (h : Hart) (r : SReg) (t : Stream) : (h.setS r t).engaged = h.engaged := rfl
@[simp] theorem Hart.floor_setS (h : Hart) (r : SReg) (t : Stream) : (h.setS r t).floor = h.floor := rfl
@[simp] theorem Hart.expired_setS (h : Hart) (r : SReg) (t : Stream) : (h.setS r t).expired = h.expired := rfl
@[simp] theorem Hart.woken_setS (h : Hart) (r : SReg) (t : Stream) : (h.setS r t).woken = h.woken := rfl
@[simp] theorem Hart.asleep_setS (h : Hart) (r : SReg) (t : Stream) : (h.setS r t).asleep = h.asleep := rfl
@[simp] theorem Hart.stop_setS (h : Hart) (r : SReg) (t : Stream) : (h.setS r t).stop = h.stop := rfl
@[simp] theorem Hart.bySave_setS (h : Hart) (r : SReg) (t : Stream) : (h.setS r t).bySave = h.bySave := rfl

@[simp] theorem Hart.byLog_setS (h : Hart) (r : SReg) (t : Stream) : (h.setS r t).byLog = h.byLog := rfl

@[simp] theorem Hart.a_enter (h : Hart) (c : Cause) (v p : Word) (l : Option Lent) (b : Bool) : (h.enter c v p l b).a = h.a := rfl
@[simp] theorem Hart.v_enter (h : Hart) (c : Cause) (v p : Word) (l : Option Lent) (b : Bool) : (h.enter c v p l b).v = h.v := rfl
@[simp] theorem Hart.m_enter (h : Hart) (c : Cause) (v p : Word) (l : Option Lent) (b : Bool) : (h.enter c v p l b).m = h.m := rfl
@[simp] theorem Hart.st_enter (h : Hart) (c : Cause) (v p : Word) (l : Option Lent) (b : Bool) : (h.enter c v p l b).st = h.st := rfl
@[simp] theorem Hart.vl_enter (h : Hart) (c : Cause) (v p : Word) (l : Option Lent) (b : Bool) : (h.enter c v p l b).vl = h.vl := rfl
@[simp] theorem Hart.vtype_enter (h : Hart) (c : Cause) (v p : Word) (l : Option Lent) (b : Bool) : (h.enter c v p l b).vtype = h.vtype := rfl
@[simp] theorem Hart.live_enter (h : Hart) (c : Cause) (v p : Word) (l : Option Lent) (b : Bool) : (h.enter c v p l b).live = h.live := rfl
@[simp] theorem Hart.estart_enter (h : Hart) (c : Cause) (v p : Word) (l : Option Lent) (b : Bool) : (h.enter c v p l b).estart = h.estart := rfl
@[simp] theorem Hart.lgp_enter (h : Hart) (c : Cause) (v p : Word) (l : Option Lent) (b : Bool) : (h.enter c v p l b).lgp = h.lgp := rfl
@[simp] theorem Hart.fstat_enter (h : Hart) (c : Cause) (v p : Word) (l : Option Lent) (b : Bool) : (h.enter c v p l b).fstat = h.fstat := rfl
@[simp] theorem Hart.rng0_enter (h : Hart) (c : Cause) (v p : Word) (l : Option Lent) (b : Bool) : (h.enter c v p l b).rng0 = h.rng0 := rfl
@[simp] theorem Hart.rng1_enter (h : Hart) (c : Cause) (v p : Word) (l : Option Lent) (b : Bool) : (h.enter c v p l b).rng1 = h.rng1 := rfl
@[simp] theorem Hart.smiss_enter (h : Hart) (c : Cause) (v p : Word) (l : Option Lent) (b : Bool) : (h.enter c v p l b).smiss = h.smiss := rfl
@[simp] theorem Hart.bdone_enter (h : Hart) (c : Cause) (v p : Word) (l : Option Lent) (b : Bool) : (h.enter c v p l b).bdone = h.bdone := rfl
@[simp] theorem Hart.hwm_enter (h : Hart) (c : Cause) (v p : Word) (l : Option Lent) (b : Bool) : (h.enter c v p l b).hwm = h.hwm := rfl
@[simp] theorem Hart.lmap_enter (h : Hart) (c : Cause) (v p : Word) (l : Option Lent) (b : Bool) : (h.enter c v p l b).lmap = h.lmap := rfl
@[simp] theorem Hart.tvec_enter (h : Hart) (c : Cause) (v p : Word) (l : Option Lent) (b : Bool) : (h.enter c v p l b).tvec = h.tvec := rfl
@[simp] theorem Hart.bstp_enter (h : Hart) (c : Cause) (v p : Word) (l : Option Lent) (b : Bool) : (h.enter c v p l b).bstp = h.bstp := rfl
@[simp] theorem Hart.scpwin_enter (h : Hart) (c : Cause) (v p : Word) (l : Option Lent) (b : Bool) : (h.enter c v p l b).scpwin = h.scpwin := rfl
@[simp] theorem Hart.stalls_enter (h : Hart) (c : Cause) (v p : Word) (l : Option Lent) (b : Bool) : (h.enter c v p l b).stalls = h.stalls := rfl
@[simp] theorem Hart.pend_enter (h : Hart) (c : Cause) (v p : Word) (l : Option Lent) (b : Bool) : (h.enter c v p l b).pend = h.pend := rfl
@[simp] theorem Hart.queue_enter (h : Hart) (c : Cause) (v p : Word) (l : Option Lent) (b : Bool) : (h.enter c v p l b).queue = h.queue := rfl
@[simp] theorem Hart.posted_enter (h : Hart) (c : Cause) (v p : Word) (l : Option Lent) (b : Bool) : (h.enter c v p l b).posted = h.posted := rfl
@[simp] theorem Hart.banks_enter (h : Hart) (c : Cause) (v p : Word) (l : Option Lent) (b : Bool) : (h.enter c v p l b).banks = h.banks := rfl
@[simp] theorem Hart.async_enter (h : Hart) (c : Cause) (v p : Word) (l : Option Lent) (b : Bool) : (h.enter c v p l b).async = h.async := rfl
@[simp] theorem Hart.preempt_enter (h : Hart) (c : Cause) (v p : Word) (l : Option Lent) (b : Bool) : (h.enter c v p l b).preempt = h.preempt := rfl
@[simp] theorem Hart.asked_enter (h : Hart) (c : Cause) (v p : Word) (l : Option Lent) (b : Bool) : (h.enter c v p l b).asked = h.asked := rfl
@[simp] theorem Hart.ahead_enter (h : Hart) (c : Cause) (v p : Word) (l : Option Lent) (b : Bool) : (h.enter c v p l b).gathers = h.gathers := rfl
@[simp] theorem Hart.engaged_enter (h : Hart) (c : Cause) (v p : Word) (l : Option Lent) (b : Bool) : (h.enter c v p l b).engaged = none := rfl
@[simp] theorem Hart.floor_enter (h : Hart) (c : Cause) (v p : Word) (l : Option Lent) (b : Bool) : (h.enter c v p l b).floor = 0 := rfl
@[simp] theorem Hart.expired_enter (h : Hart) (c : Cause) (v p : Word) (l : Option Lent) (b : Bool) : (h.enter c v p l b).expired = h.expired := rfl
@[simp] theorem Hart.stop_enter (h : Hart) (c : Cause) (v p : Word) (l : Option Lent) (b : Bool) : (h.enter c v p l b).stop = h.stop := rfl
@[simp] theorem Hart.bySave_enter (h : Hart) (c : Cause) (v p : Word) (l : Option Lent) (b : Bool) : (h.enter c v p l b).bySave = h.bySave := rfl

@[simp] theorem Hart.byLog_enter (h : Hart) (c : Cause) (v p : Word) (l : Option Lent) (b : Bool) : (h.enter c v p l b).byLog = h.byLog := rfl

end Sys2Proof.Machine
end

