-- ==== Sys2Proof/Laws/Hart.lean ====
section
/-! SUPPORT. Laws of the registers and of fixed-latency results: what a put, a write and the settling of results leave
unchanged, and what they give (R12, R29, R30). -/

namespace Sys2Proof.Machine

@[simp] theorem Hart.status_put (h : Hart) (d : Dst) (k x : BitVec 16384) : (h.put d k x).status = h.status := by
  unfold Hart.put; split <;> (try split) <;> rfl
@[simp] theorem Hart.st_put (h : Hart) (d : Dst) (k x : BitVec 16384) : (h.put d k x).st = h.st := by
  unfold Hart.put; split <;> (try split) <;> rfl
@[simp] theorem Hart.pc_put (h : Hart) (d : Dst) (k x : BitVec 16384) : (h.put d k x).pc = h.pc := by
  unfold Hart.put; split <;> (try split) <;> rfl
@[simp] theorem Hart.hctl_put (h : Hart) (d : Dst) (k x : BitVec 16384) : (h.put d k x).hctl = h.hctl := by
  unfold Hart.put; split <;> (try split) <;> rfl
@[simp] theorem Hart.vl_put (h : Hart) (d : Dst) (k x : BitVec 16384) : (h.put d k x).vl = h.vl := by
  unfold Hart.put; split <;> (try split) <;> rfl
@[simp] theorem Hart.vtype_put (h : Hart) (d : Dst) (k x : BitVec 16384) : (h.put d k x).vtype = h.vtype := by
  unfold Hart.put; split <;> (try split) <;> rfl
@[simp] theorem Hart.live_put (h : Hart) (d : Dst) (k x : BitVec 16384) : (h.put d k x).live = h.live := by
  unfold Hart.put; split <;> (try split) <;> rfl
@[simp] theorem Hart.estart_put (h : Hart) (d : Dst) (k x : BitVec 16384) : (h.put d k x).estart = h.estart := by
  unfold Hart.put; split <;> (try split) <;> rfl
@[simp] theorem Hart.lgp_put (h : Hart) (d : Dst) (k x : BitVec 16384) : (h.put d k x).lgp = h.lgp := by
  unfold Hart.put; split <;> (try split) <;> rfl
@[simp] theorem Hart.tcause_put (h : Hart) (d : Dst) (k x : BitVec 16384) : (h.put d k x).tcause = h.tcause := by
  unfold Hart.put; split <;> (try split) <;> rfl
@[simp] theorem Hart.tval_put (h : Hart) (d : Dst) (k x : BitVec 16384) : (h.put d k x).tval = h.tval := by
  unfold Hart.put; split <;> (try split) <;> rfl
@[simp] theorem Hart.tpc_put (h : Hart) (d : Dst) (k x : BitVec 16384) : (h.put d k x).tpc = h.tpc := by
  unfold Hart.put; split <;> (try split) <;> rfl
@[simp] theorem Hart.tpfx_put (h : Hart) (d : Dst) (k x : BitVec 16384) : (h.put d k x).tpfx = h.tpfx := by
  unfold Hart.put; split <;> (try split) <;> rfl
@[simp] theorem Hart.tstat_put (h : Hart) (d : Dst) (k x : BitVec 16384) : (h.put d k x).tstat = h.tstat := by
  unfold Hart.put; split <;> (try split) <;> rfl
@[simp] theorem Hart.fstat_put (h : Hart) (d : Dst) (k x : BitVec 16384) : (h.put d k x).fstat = h.fstat := by
  unfold Hart.put; split <;> (try split) <;> rfl
@[simp] theorem Hart.rng0_put (h : Hart) (d : Dst) (k x : BitVec 16384) : (h.put d k x).rng0 = h.rng0 := by
  unfold Hart.put; split <;> (try split) <;> rfl
@[simp] theorem Hart.rng1_put (h : Hart) (d : Dst) (k x : BitVec 16384) : (h.put d k x).rng1 = h.rng1 := by
  unfold Hart.put; split <;> (try split) <;> rfl
@[simp] theorem Hart.smiss_put (h : Hart) (d : Dst) (k x : BitVec 16384) : (h.put d k x).smiss = h.smiss := by
  unfold Hart.put; split <;> (try split) <;> rfl
@[simp] theorem Hart.smissCopy_put (h : Hart) (d : Dst) (k x : BitVec 16384) : (h.put d k x).smissCopy = h.smissCopy := by
  unfold Hart.put; split <;> (try split) <;> rfl
@[simp] theorem Hart.bdone_put (h : Hart) (d : Dst) (k x : BitVec 16384) : (h.put d k x).bdone = h.bdone := by
  unfold Hart.put; split <;> (try split) <;> rfl
@[simp] theorem Hart.hwm_put (h : Hart) (d : Dst) (k x : BitVec 16384) : (h.put d k x).hwm = h.hwm := by
  unfold Hart.put; split <;> (try split) <;> rfl
@[simp] theorem Hart.lmap_put (h : Hart) (d : Dst) (k x : BitVec 16384) : (h.put d k x).lmap = h.lmap := by
  unfold Hart.put; split <;> (try split) <;> rfl
@[simp] theorem Hart.tvec_put (h : Hart) (d : Dst) (k x : BitVec 16384) : (h.put d k x).tvec = h.tvec := by
  unfold Hart.put; split <;> (try split) <;> rfl
@[simp] theorem Hart.bstp_put (h : Hart) (d : Dst) (k x : BitVec 16384) : (h.put d k x).bstp = h.bstp := by
  unfold Hart.put; split <;> (try split) <;> rfl
@[simp] theorem Hart.scpwin_put (h : Hart) (d : Dst) (k x : BitVec 16384) : (h.put d k x).scpwin = h.scpwin := by
  unfold Hart.put; split <;> (try split) <;> rfl
@[simp] theorem Hart.lent_put (h : Hart) (d : Dst) (k x : BitVec 16384) : (h.put d k x).lent = h.lent := by
  unfold Hart.put; split <;> (try split) <;> rfl
@[simp] theorem Hart.now_put (h : Hart) (d : Dst) (k x : BitVec 16384) : (h.put d k x).now = h.now := by
  unfold Hart.put; split <;> (try split) <;> rfl
@[simp] theorem Hart.stalls_put (h : Hart) (d : Dst) (k x : BitVec 16384) : (h.put d k x).stalls = h.stalls := by
  unfold Hart.put; split <;> (try split) <;> rfl
@[simp] theorem Hart.pend_put (h : Hart) (d : Dst) (k x : BitVec 16384) : (h.put d k x).pend = h.pend := by
  unfold Hart.put; split <;> (try split) <;> rfl
@[simp] theorem Hart.queue_put (h : Hart) (d : Dst) (k x : BitVec 16384) : (h.put d k x).queue = h.queue := by
  unfold Hart.put; split <;> (try split) <;> rfl
@[simp] theorem Hart.posted_put (h : Hart) (d : Dst) (k x : BitVec 16384) : (h.put d k x).posted = h.posted := by
  unfold Hart.put; split <;> (try split) <;> rfl
@[simp] theorem Hart.banks_put (h : Hart) (d : Dst) (k x : BitVec 16384) : (h.put d k x).banks = h.banks := by
  unfold Hart.put; split <;> (try split) <;> rfl
@[simp] theorem Hart.async_put (h : Hart) (d : Dst) (k x : BitVec 16384) : (h.put d k x).async = h.async := by
  unfold Hart.put; split <;> (try split) <;> rfl
@[simp] theorem Hart.preempt_put (h : Hart) (d : Dst) (k x : BitVec 16384) : (h.put d k x).preempt = h.preempt := by
  unfold Hart.put; split <;> (try split) <;> rfl
@[simp] theorem Hart.asked_put (h : Hart) (d : Dst) (k x : BitVec 16384) : (h.put d k x).asked = h.asked := by
  unfold Hart.put; split <;> (try split) <;> rfl
@[simp] theorem Hart.ahead_put (h : Hart) (d : Dst) (k x : BitVec 16384) : (h.put d k x).gathers = h.gathers := by
  unfold Hart.put; split <;> (try split) <;> rfl
@[simp] theorem Hart.engaged_put (h : Hart) (d : Dst) (k x : BitVec 16384) : (h.put d k x).engaged = h.engaged := by
  unfold Hart.put; split <;> (try split) <;> rfl
@[simp] theorem Hart.floor_put (h : Hart) (d : Dst) (k x : BitVec 16384) : (h.put d k x).floor = h.floor := by
  unfold Hart.put; split <;> (try split) <;> rfl
@[simp] theorem Hart.expired_put (h : Hart) (d : Dst) (k x : BitVec 16384) : (h.put d k x).expired = h.expired := by
  unfold Hart.put; split <;> (try split) <;> rfl
@[simp] theorem Hart.woken_put (h : Hart) (d : Dst) (k x : BitVec 16384) : (h.put d k x).woken = h.woken := by
  unfold Hart.put; split <;> (try split) <;> rfl
@[simp] theorem Hart.asleep_put (h : Hart) (d : Dst) (k x : BitVec 16384) : (h.put d k x).asleep = h.asleep := by
  unfold Hart.put; split <;> (try split) <;> rfl
@[simp] theorem Hart.stop_put (h : Hart) (d : Dst) (k x : BitVec 16384) : (h.put d k x).stop = h.stop := by
  unfold Hart.put; split <;> (try split) <;> rfl
@[simp] theorem Hart.bySave_put (h : Hart) (d : Dst) (k x : BitVec 16384) : (h.put d k x).bySave = h.bySave := by
  unfold Hart.put; split <;> (try split) <;> rfl

@[simp] theorem Hart.byLog_put (h : Hart) (d : Dst) (k x : BitVec 16384) : (h.put d k x).byLog = h.byLog := by
  unfold Hart.put; split <;> (try split) <;> rfl

@[simp] theorem Hart.status_write (h : Hart) (d : Dst) (k x : BitVec 16384) (l : Nat) : (h.write d k x l).status = h.status := by
  unfold Hart.write; split <;> simp
@[simp] theorem Hart.st_write (h : Hart) (d : Dst) (k x : BitVec 16384) (l : Nat) : (h.write d k x l).st = h.st := by
  unfold Hart.write; split <;> simp
@[simp] theorem Hart.pc_write (h : Hart) (d : Dst) (k x : BitVec 16384) (l : Nat) : (h.write d k x l).pc = h.pc := by
  unfold Hart.write; split <;> simp
@[simp] theorem Hart.hctl_write (h : Hart) (d : Dst) (k x : BitVec 16384) (l : Nat) : (h.write d k x l).hctl = h.hctl := by
  unfold Hart.write; split <;> simp
@[simp] theorem Hart.vl_write (h : Hart) (d : Dst) (k x : BitVec 16384) (l : Nat) : (h.write d k x l).vl = h.vl := by
  unfold Hart.write; split <;> simp
@[simp] theorem Hart.vtype_write (h : Hart) (d : Dst) (k x : BitVec 16384) (l : Nat) : (h.write d k x l).vtype = h.vtype := by
  unfold Hart.write; split <;> simp
@[simp] theorem Hart.live_write (h : Hart) (d : Dst) (k x : BitVec 16384) (l : Nat) : (h.write d k x l).live = h.live := by
  unfold Hart.write; split <;> simp
@[simp] theorem Hart.estart_write (h : Hart) (d : Dst) (k x : BitVec 16384) (l : Nat) : (h.write d k x l).estart = h.estart := by
  unfold Hart.write; split <;> simp
@[simp] theorem Hart.lgp_write (h : Hart) (d : Dst) (k x : BitVec 16384) (l : Nat) : (h.write d k x l).lgp = h.lgp := by
  unfold Hart.write; split <;> simp
@[simp] theorem Hart.tcause_write (h : Hart) (d : Dst) (k x : BitVec 16384) (l : Nat) : (h.write d k x l).tcause = h.tcause := by
  unfold Hart.write; split <;> simp
@[simp] theorem Hart.tval_write (h : Hart) (d : Dst) (k x : BitVec 16384) (l : Nat) : (h.write d k x l).tval = h.tval := by
  unfold Hart.write; split <;> simp
@[simp] theorem Hart.tpc_write (h : Hart) (d : Dst) (k x : BitVec 16384) (l : Nat) : (h.write d k x l).tpc = h.tpc := by
  unfold Hart.write; split <;> simp
@[simp] theorem Hart.tpfx_write (h : Hart) (d : Dst) (k x : BitVec 16384) (l : Nat) : (h.write d k x l).tpfx = h.tpfx := by
  unfold Hart.write; split <;> simp
@[simp] theorem Hart.tstat_write (h : Hart) (d : Dst) (k x : BitVec 16384) (l : Nat) : (h.write d k x l).tstat = h.tstat := by
  unfold Hart.write; split <;> simp
@[simp] theorem Hart.fstat_write (h : Hart) (d : Dst) (k x : BitVec 16384) (l : Nat) : (h.write d k x l).fstat = h.fstat := by
  unfold Hart.write; split <;> simp
@[simp] theorem Hart.rng0_write (h : Hart) (d : Dst) (k x : BitVec 16384) (l : Nat) : (h.write d k x l).rng0 = h.rng0 := by
  unfold Hart.write; split <;> simp
@[simp] theorem Hart.rng1_write (h : Hart) (d : Dst) (k x : BitVec 16384) (l : Nat) : (h.write d k x l).rng1 = h.rng1 := by
  unfold Hart.write; split <;> simp
@[simp] theorem Hart.smiss_write (h : Hart) (d : Dst) (k x : BitVec 16384) (l : Nat) : (h.write d k x l).smiss = h.smiss := by
  unfold Hart.write; split <;> simp
@[simp] theorem Hart.smissCopy_write (h : Hart) (d : Dst) (k x : BitVec 16384) (l : Nat) : (h.write d k x l).smissCopy = h.smissCopy := by
  unfold Hart.write; split <;> simp
@[simp] theorem Hart.bdone_write (h : Hart) (d : Dst) (k x : BitVec 16384) (l : Nat) : (h.write d k x l).bdone = h.bdone := by
  unfold Hart.write; split <;> simp
@[simp] theorem Hart.hwm_write (h : Hart) (d : Dst) (k x : BitVec 16384) (l : Nat) : (h.write d k x l).hwm = h.hwm := by
  unfold Hart.write; split <;> simp
@[simp] theorem Hart.lmap_write (h : Hart) (d : Dst) (k x : BitVec 16384) (l : Nat) : (h.write d k x l).lmap = h.lmap := by
  unfold Hart.write; split <;> simp
@[simp] theorem Hart.tvec_write (h : Hart) (d : Dst) (k x : BitVec 16384) (l : Nat) : (h.write d k x l).tvec = h.tvec := by
  unfold Hart.write; split <;> simp
@[simp] theorem Hart.bstp_write (h : Hart) (d : Dst) (k x : BitVec 16384) (l : Nat) : (h.write d k x l).bstp = h.bstp := by
  unfold Hart.write; split <;> simp
@[simp] theorem Hart.scpwin_write (h : Hart) (d : Dst) (k x : BitVec 16384) (l : Nat) : (h.write d k x l).scpwin = h.scpwin := by
  unfold Hart.write; split <;> simp
@[simp] theorem Hart.lent_write (h : Hart) (d : Dst) (k x : BitVec 16384) (l : Nat) : (h.write d k x l).lent = h.lent := by
  unfold Hart.write; split <;> simp
@[simp] theorem Hart.now_write (h : Hart) (d : Dst) (k x : BitVec 16384) (l : Nat) : (h.write d k x l).now = h.now := by
  unfold Hart.write; split <;> simp
@[simp] theorem Hart.stalls_write (h : Hart) (d : Dst) (k x : BitVec 16384) (l : Nat) : (h.write d k x l).stalls = h.stalls := by
  unfold Hart.write; split <;> simp
@[simp] theorem Hart.queue_write (h : Hart) (d : Dst) (k x : BitVec 16384) (l : Nat) : (h.write d k x l).queue = h.queue := by
  unfold Hart.write; split <;> simp
@[simp] theorem Hart.posted_write (h : Hart) (d : Dst) (k x : BitVec 16384) (l : Nat) : (h.write d k x l).posted = h.posted := by
  unfold Hart.write; split <;> simp
@[simp] theorem Hart.banks_write (h : Hart) (d : Dst) (k x : BitVec 16384) (l : Nat) : (h.write d k x l).banks = h.banks := by
  unfold Hart.write; split <;> simp
@[simp] theorem Hart.async_write (h : Hart) (d : Dst) (k x : BitVec 16384) (l : Nat) : (h.write d k x l).async = h.async := by
  unfold Hart.write; split <;> simp
@[simp] theorem Hart.preempt_write (h : Hart) (d : Dst) (k x : BitVec 16384) (l : Nat) : (h.write d k x l).preempt = h.preempt := by
  unfold Hart.write; split <;> simp
@[simp] theorem Hart.asked_write (h : Hart) (d : Dst) (k x : BitVec 16384) (l : Nat) : (h.write d k x l).asked = h.asked := by
  unfold Hart.write; split <;> simp
@[simp] theorem Hart.ahead_write (h : Hart) (d : Dst) (k x : BitVec 16384) (l : Nat) : (h.write d k x l).gathers = h.gathers := by
  unfold Hart.write; split <;> simp
@[simp] theorem Hart.engaged_write (h : Hart) (d : Dst) (k x : BitVec 16384) (l : Nat) : (h.write d k x l).engaged = h.engaged := by
  unfold Hart.write; split <;> simp
@[simp] theorem Hart.floor_write (h : Hart) (d : Dst) (k x : BitVec 16384) (l : Nat) : (h.write d k x l).floor = h.floor := by
  unfold Hart.write; split <;> simp
@[simp] theorem Hart.expired_write (h : Hart) (d : Dst) (k x : BitVec 16384) (l : Nat) : (h.write d k x l).expired = h.expired := by
  unfold Hart.write; split <;> simp
@[simp] theorem Hart.woken_write (h : Hart) (d : Dst) (k x : BitVec 16384) (l : Nat) : (h.write d k x l).woken = h.woken := by
  unfold Hart.write; split <;> simp
@[simp] theorem Hart.asleep_write (h : Hart) (d : Dst) (k x : BitVec 16384) (l : Nat) : (h.write d k x l).asleep = h.asleep := by
  unfold Hart.write; split <;> simp
@[simp] theorem Hart.stop_write (h : Hart) (d : Dst) (k x : BitVec 16384) (l : Nat) : (h.write d k x l).stop = h.stop := by
  unfold Hart.write; split <;> simp
@[simp] theorem Hart.bySave_write (h : Hart) (d : Dst) (k x : BitVec 16384) (l : Nat) : (h.write d k x l).bySave = h.bySave := by
  unfold Hart.write; split <;> simp

@[simp] theorem Hart.byLog_write (h : Hart) (d : Dst) (k x : BitVec 16384) (l : Nat) : (h.write d k x l).byLog = h.byLog := by
  unfold Hart.write; split <;> simp

theorem status_settleFrom (t : Nat) (ps : List Pend) (h : Hart) (ks : List Pend) : (settleFrom t ps h ks).status = h.status := by
  induction ps generalizing h ks with
  | nil => rfl
  | cons p ps ih => unfold settleFrom; split <;> simp [ih]
@[simp] theorem Hart.status_settle (h : Hart) (t : Nat) : (h.settle t).status = h.status := status_settleFrom t _ h []
theorem st_settleFrom (t : Nat) (ps : List Pend) (h : Hart) (ks : List Pend) : (settleFrom t ps h ks).st = h.st := by
  induction ps generalizing h ks with
  | nil => rfl
  | cons p ps ih => unfold settleFrom; split <;> simp [ih]
@[simp] theorem Hart.st_settle (h : Hart) (t : Nat) : (h.settle t).st = h.st := st_settleFrom t _ h []
theorem pc_settleFrom (t : Nat) (ps : List Pend) (h : Hart) (ks : List Pend) : (settleFrom t ps h ks).pc = h.pc := by
  induction ps generalizing h ks with
  | nil => rfl
  | cons p ps ih => unfold settleFrom; split <;> simp [ih]
@[simp] theorem Hart.pc_settle (h : Hart) (t : Nat) : (h.settle t).pc = h.pc := pc_settleFrom t _ h []
theorem hctl_settleFrom (t : Nat) (ps : List Pend) (h : Hart) (ks : List Pend) : (settleFrom t ps h ks).hctl = h.hctl := by
  induction ps generalizing h ks with
  | nil => rfl
  | cons p ps ih => unfold settleFrom; split <;> simp [ih]
@[simp] theorem Hart.hctl_settle (h : Hart) (t : Nat) : (h.settle t).hctl = h.hctl := hctl_settleFrom t _ h []
theorem vl_settleFrom (t : Nat) (ps : List Pend) (h : Hart) (ks : List Pend) : (settleFrom t ps h ks).vl = h.vl := by
  induction ps generalizing h ks with
  | nil => rfl
  | cons p ps ih => unfold settleFrom; split <;> simp [ih]
@[simp] theorem Hart.vl_settle (h : Hart) (t : Nat) : (h.settle t).vl = h.vl := vl_settleFrom t _ h []
theorem vtype_settleFrom (t : Nat) (ps : List Pend) (h : Hart) (ks : List Pend) : (settleFrom t ps h ks).vtype = h.vtype := by
  induction ps generalizing h ks with
  | nil => rfl
  | cons p ps ih => unfold settleFrom; split <;> simp [ih]
@[simp] theorem Hart.vtype_settle (h : Hart) (t : Nat) : (h.settle t).vtype = h.vtype := vtype_settleFrom t _ h []
theorem live_settleFrom (t : Nat) (ps : List Pend) (h : Hart) (ks : List Pend) : (settleFrom t ps h ks).live = h.live := by
  induction ps generalizing h ks with
  | nil => rfl
  | cons p ps ih => unfold settleFrom; split <;> simp [ih]
@[simp] theorem Hart.live_settle (h : Hart) (t : Nat) : (h.settle t).live = h.live := live_settleFrom t _ h []
theorem estart_settleFrom (t : Nat) (ps : List Pend) (h : Hart) (ks : List Pend) : (settleFrom t ps h ks).estart = h.estart := by
  induction ps generalizing h ks with
  | nil => rfl
  | cons p ps ih => unfold settleFrom; split <;> simp [ih]
@[simp] theorem Hart.estart_settle (h : Hart) (t : Nat) : (h.settle t).estart = h.estart := estart_settleFrom t _ h []
theorem lgp_settleFrom (t : Nat) (ps : List Pend) (h : Hart) (ks : List Pend) : (settleFrom t ps h ks).lgp = h.lgp := by
  induction ps generalizing h ks with
  | nil => rfl
  | cons p ps ih => unfold settleFrom; split <;> simp [ih]
@[simp] theorem Hart.lgp_settle (h : Hart) (t : Nat) : (h.settle t).lgp = h.lgp := lgp_settleFrom t _ h []
theorem tcause_settleFrom (t : Nat) (ps : List Pend) (h : Hart) (ks : List Pend) : (settleFrom t ps h ks).tcause = h.tcause := by
  induction ps generalizing h ks with
  | nil => rfl
  | cons p ps ih => unfold settleFrom; split <;> simp [ih]
@[simp] theorem Hart.tcause_settle (h : Hart) (t : Nat) : (h.settle t).tcause = h.tcause := tcause_settleFrom t _ h []
theorem tval_settleFrom (t : Nat) (ps : List Pend) (h : Hart) (ks : List Pend) : (settleFrom t ps h ks).tval = h.tval := by
  induction ps generalizing h ks with
  | nil => rfl
  | cons p ps ih => unfold settleFrom; split <;> simp [ih]
@[simp] theorem Hart.tval_settle (h : Hart) (t : Nat) : (h.settle t).tval = h.tval := tval_settleFrom t _ h []
theorem tpc_settleFrom (t : Nat) (ps : List Pend) (h : Hart) (ks : List Pend) : (settleFrom t ps h ks).tpc = h.tpc := by
  induction ps generalizing h ks with
  | nil => rfl
  | cons p ps ih => unfold settleFrom; split <;> simp [ih]
@[simp] theorem Hart.tpc_settle (h : Hart) (t : Nat) : (h.settle t).tpc = h.tpc := tpc_settleFrom t _ h []
theorem tpfx_settleFrom (t : Nat) (ps : List Pend) (h : Hart) (ks : List Pend) : (settleFrom t ps h ks).tpfx = h.tpfx := by
  induction ps generalizing h ks with
  | nil => rfl
  | cons p ps ih => unfold settleFrom; split <;> simp [ih]
@[simp] theorem Hart.tpfx_settle (h : Hart) (t : Nat) : (h.settle t).tpfx = h.tpfx := tpfx_settleFrom t _ h []
theorem tstat_settleFrom (t : Nat) (ps : List Pend) (h : Hart) (ks : List Pend) : (settleFrom t ps h ks).tstat = h.tstat := by
  induction ps generalizing h ks with
  | nil => rfl
  | cons p ps ih => unfold settleFrom; split <;> simp [ih]
@[simp] theorem Hart.tstat_settle (h : Hart) (t : Nat) : (h.settle t).tstat = h.tstat := tstat_settleFrom t _ h []
theorem fstat_settleFrom (t : Nat) (ps : List Pend) (h : Hart) (ks : List Pend) : (settleFrom t ps h ks).fstat = h.fstat := by
  induction ps generalizing h ks with
  | nil => rfl
  | cons p ps ih => unfold settleFrom; split <;> simp [ih]
@[simp] theorem Hart.fstat_settle (h : Hart) (t : Nat) : (h.settle t).fstat = h.fstat := fstat_settleFrom t _ h []
theorem rng0_settleFrom (t : Nat) (ps : List Pend) (h : Hart) (ks : List Pend) : (settleFrom t ps h ks).rng0 = h.rng0 := by
  induction ps generalizing h ks with
  | nil => rfl
  | cons p ps ih => unfold settleFrom; split <;> simp [ih]
@[simp] theorem Hart.rng0_settle (h : Hart) (t : Nat) : (h.settle t).rng0 = h.rng0 := rng0_settleFrom t _ h []
theorem rng1_settleFrom (t : Nat) (ps : List Pend) (h : Hart) (ks : List Pend) : (settleFrom t ps h ks).rng1 = h.rng1 := by
  induction ps generalizing h ks with
  | nil => rfl
  | cons p ps ih => unfold settleFrom; split <;> simp [ih]
@[simp] theorem Hart.rng1_settle (h : Hart) (t : Nat) : (h.settle t).rng1 = h.rng1 := rng1_settleFrom t _ h []
theorem smiss_settleFrom (t : Nat) (ps : List Pend) (h : Hart) (ks : List Pend) : (settleFrom t ps h ks).smiss = h.smiss := by
  induction ps generalizing h ks with
  | nil => rfl
  | cons p ps ih => unfold settleFrom; split <;> simp [ih]
@[simp] theorem Hart.smiss_settle (h : Hart) (t : Nat) : (h.settle t).smiss = h.smiss := smiss_settleFrom t _ h []
theorem smissCopy_settleFrom (t : Nat) (ps : List Pend) (h : Hart) (ks : List Pend) : (settleFrom t ps h ks).smissCopy = h.smissCopy := by
  induction ps generalizing h ks with
  | nil => rfl
  | cons p ps ih => unfold settleFrom; split <;> simp [ih]
@[simp] theorem Hart.smissCopy_settle (h : Hart) (t : Nat) : (h.settle t).smissCopy = h.smissCopy := smissCopy_settleFrom t _ h []
theorem bdone_settleFrom (t : Nat) (ps : List Pend) (h : Hart) (ks : List Pend) : (settleFrom t ps h ks).bdone = h.bdone := by
  induction ps generalizing h ks with
  | nil => rfl
  | cons p ps ih => unfold settleFrom; split <;> simp [ih]
@[simp] theorem Hart.bdone_settle (h : Hart) (t : Nat) : (h.settle t).bdone = h.bdone := bdone_settleFrom t _ h []
theorem hwm_settleFrom (t : Nat) (ps : List Pend) (h : Hart) (ks : List Pend) : (settleFrom t ps h ks).hwm = h.hwm := by
  induction ps generalizing h ks with
  | nil => rfl
  | cons p ps ih => unfold settleFrom; split <;> simp [ih]
@[simp] theorem Hart.hwm_settle (h : Hart) (t : Nat) : (h.settle t).hwm = h.hwm := hwm_settleFrom t _ h []
theorem lmap_settleFrom (t : Nat) (ps : List Pend) (h : Hart) (ks : List Pend) : (settleFrom t ps h ks).lmap = h.lmap := by
  induction ps generalizing h ks with
  | nil => rfl
  | cons p ps ih => unfold settleFrom; split <;> simp [ih]
@[simp] theorem Hart.lmap_settle (h : Hart) (t : Nat) : (h.settle t).lmap = h.lmap := lmap_settleFrom t _ h []
theorem tvec_settleFrom (t : Nat) (ps : List Pend) (h : Hart) (ks : List Pend) : (settleFrom t ps h ks).tvec = h.tvec := by
  induction ps generalizing h ks with
  | nil => rfl
  | cons p ps ih => unfold settleFrom; split <;> simp [ih]
@[simp] theorem Hart.tvec_settle (h : Hart) (t : Nat) : (h.settle t).tvec = h.tvec := tvec_settleFrom t _ h []
theorem bstp_settleFrom (t : Nat) (ps : List Pend) (h : Hart) (ks : List Pend) : (settleFrom t ps h ks).bstp = h.bstp := by
  induction ps generalizing h ks with
  | nil => rfl
  | cons p ps ih => unfold settleFrom; split <;> simp [ih]
@[simp] theorem Hart.bstp_settle (h : Hart) (t : Nat) : (h.settle t).bstp = h.bstp := bstp_settleFrom t _ h []
theorem scpwin_settleFrom (t : Nat) (ps : List Pend) (h : Hart) (ks : List Pend) : (settleFrom t ps h ks).scpwin = h.scpwin := by
  induction ps generalizing h ks with
  | nil => rfl
  | cons p ps ih => unfold settleFrom; split <;> simp [ih]
@[simp] theorem Hart.scpwin_settle (h : Hart) (t : Nat) : (h.settle t).scpwin = h.scpwin := scpwin_settleFrom t _ h []
theorem lent_settleFrom (t : Nat) (ps : List Pend) (h : Hart) (ks : List Pend) : (settleFrom t ps h ks).lent = h.lent := by
  induction ps generalizing h ks with
  | nil => rfl
  | cons p ps ih => unfold settleFrom; split <;> simp [ih]
@[simp] theorem Hart.lent_settle (h : Hart) (t : Nat) : (h.settle t).lent = h.lent := lent_settleFrom t _ h []
theorem now_settleFrom (t : Nat) (ps : List Pend) (h : Hart) (ks : List Pend) : (settleFrom t ps h ks).now = h.now := by
  induction ps generalizing h ks with
  | nil => rfl
  | cons p ps ih => unfold settleFrom; split <;> simp [ih]
@[simp] theorem Hart.now_settle (h : Hart) (t : Nat) : (h.settle t).now = h.now := now_settleFrom t _ h []
theorem stalls_settleFrom (t : Nat) (ps : List Pend) (h : Hart) (ks : List Pend) : (settleFrom t ps h ks).stalls = h.stalls := by
  induction ps generalizing h ks with
  | nil => rfl
  | cons p ps ih => unfold settleFrom; split <;> simp [ih]
@[simp] theorem Hart.stalls_settle (h : Hart) (t : Nat) : (h.settle t).stalls = h.stalls := stalls_settleFrom t _ h []
theorem queue_settleFrom (t : Nat) (ps : List Pend) (h : Hart) (ks : List Pend) : (settleFrom t ps h ks).queue = h.queue := by
  induction ps generalizing h ks with
  | nil => rfl
  | cons p ps ih => unfold settleFrom; split <;> simp [ih]
@[simp] theorem Hart.queue_settle (h : Hart) (t : Nat) : (h.settle t).queue = h.queue := queue_settleFrom t _ h []
theorem posted_settleFrom (t : Nat) (ps : List Pend) (h : Hart) (ks : List Pend) : (settleFrom t ps h ks).posted = h.posted := by
  induction ps generalizing h ks with
  | nil => rfl
  | cons p ps ih => unfold settleFrom; split <;> simp [ih]
@[simp] theorem Hart.posted_settle (h : Hart) (t : Nat) : (h.settle t).posted = h.posted := posted_settleFrom t _ h []
theorem banks_settleFrom (t : Nat) (ps : List Pend) (h : Hart) (ks : List Pend) : (settleFrom t ps h ks).banks = h.banks := by
  induction ps generalizing h ks with
  | nil => rfl
  | cons p ps ih => unfold settleFrom; split <;> simp [ih]
@[simp] theorem Hart.banks_settle (h : Hart) (t : Nat) : (h.settle t).banks = h.banks := banks_settleFrom t _ h []
theorem async_settleFrom (t : Nat) (ps : List Pend) (h : Hart) (ks : List Pend) : (settleFrom t ps h ks).async = h.async := by
  induction ps generalizing h ks with
  | nil => rfl
  | cons p ps ih => unfold settleFrom; split <;> simp [ih]
@[simp] theorem Hart.async_settle (h : Hart) (t : Nat) : (h.settle t).async = h.async := async_settleFrom t _ h []
theorem preempt_settleFrom (t : Nat) (ps : List Pend) (h : Hart) (ks : List Pend) : (settleFrom t ps h ks).preempt = h.preempt := by
  induction ps generalizing h ks with
  | nil => rfl
  | cons p ps ih => unfold settleFrom; split <;> simp [ih]
theorem asked_settleFrom (t : Nat) (ps : List Pend) (h : Hart) (ks : List Pend) : (settleFrom t ps h ks).asked = h.asked := by
  induction ps generalizing h ks with
  | nil => rfl
  | cons p ps ih => unfold settleFrom; split <;> simp [ih]
theorem ahead_settleFrom (t : Nat) (ps : List Pend) (h : Hart) (ks : List Pend) : (settleFrom t ps h ks).gathers = h.gathers := by
  induction ps generalizing h ks with
  | nil => rfl
  | cons p ps ih => unfold settleFrom; split <;> simp [ih]
theorem engaged_settleFrom (t : Nat) (ps : List Pend) (h : Hart) (ks : List Pend) : (settleFrom t ps h ks).engaged = h.engaged := by
  induction ps generalizing h ks with
  | nil => rfl
  | cons p ps ih => unfold settleFrom; split <;> simp [ih]
theorem floor_settleFrom (t : Nat) (ps : List Pend) (h : Hart) (ks : List Pend) : (settleFrom t ps h ks).floor = h.floor := by
  induction ps generalizing h ks with
  | nil => rfl
  | cons p ps ih => unfold settleFrom; split <;> simp [ih]
@[simp] theorem Hart.preempt_settle (h : Hart) (t : Nat) : (h.settle t).preempt = h.preempt := preempt_settleFrom t _ h []
@[simp] theorem Hart.asked_settle (h : Hart) (t : Nat) : (h.settle t).asked = h.asked := asked_settleFrom t _ h []
@[simp] theorem Hart.ahead_settle (h : Hart) (t : Nat) : (h.settle t).gathers = h.gathers := ahead_settleFrom t _ h []
@[simp] theorem Hart.engaged_settle (h : Hart) (t : Nat) : (h.settle t).engaged = h.engaged := engaged_settleFrom t _ h []
@[simp] theorem Hart.floor_settle (h : Hart) (t : Nat) : (h.settle t).floor = h.floor := floor_settleFrom t _ h []
theorem expired_settleFrom (t : Nat) (ps : List Pend) (h : Hart) (ks : List Pend) : (settleFrom t ps h ks).expired = h.expired := by
  induction ps generalizing h ks with
  | nil => rfl
  | cons p ps ih => unfold settleFrom; split <;> simp [ih]
@[simp] theorem Hart.expired_settle (h : Hart) (t : Nat) : (h.settle t).expired = h.expired := expired_settleFrom t _ h []
theorem woken_settleFrom (t : Nat) (ps : List Pend) (h : Hart) (ks : List Pend) : (settleFrom t ps h ks).woken = h.woken := by
  induction ps generalizing h ks with
  | nil => rfl
  | cons p ps ih => unfold settleFrom; split <;> simp [ih]
@[simp] theorem Hart.woken_settle (h : Hart) (t : Nat) : (h.settle t).woken = h.woken := woken_settleFrom t _ h []
theorem asleep_settleFrom (t : Nat) (ps : List Pend) (h : Hart) (ks : List Pend) : (settleFrom t ps h ks).asleep = h.asleep := by
  induction ps generalizing h ks with
  | nil => rfl
  | cons p ps ih => unfold settleFrom; split <;> simp [ih]
@[simp] theorem Hart.asleep_settle (h : Hart) (t : Nat) : (h.settle t).asleep = h.asleep := asleep_settleFrom t _ h []
theorem stop_settleFrom (t : Nat) (ps : List Pend) (h : Hart) (ks : List Pend) : (settleFrom t ps h ks).stop = h.stop := by
  induction ps generalizing h ks with
  | nil => rfl
  | cons p ps ih => unfold settleFrom; split <;> simp [ih]
@[simp] theorem Hart.stop_settle (h : Hart) (t : Nat) : (h.settle t).stop = h.stop := stop_settleFrom t _ h []
theorem bySave_settleFrom (t : Nat) (ps : List Pend) (h : Hart) (ks : List Pend) : (settleFrom t ps h ks).bySave = h.bySave := by
  induction ps generalizing h ks with
  | nil => rfl
  | cons p ps ih => unfold settleFrom; split <;> simp [ih]
theorem byLog_settleFrom (t : Nat) (ps : List Pend) (h : Hart) (ks : List Pend) : (settleFrom t ps h ks).byLog = h.byLog := by
  induction ps generalizing h ks with
  | nil => rfl
  | cons p ps ih => unfold settleFrom; split <;> simp [ih]
@[simp] theorem Hart.bySave_settle (h : Hart) (t : Nat) : (h.settle t).bySave = h.bySave := bySave_settleFrom t _ h []

@[simp] theorem Hart.byLog_settle (h : Hart) (t : Nat) : (h.settle t).byLog = h.byLog := byLog_settleFrom t _ h []

theorem status_putAll (ps : List Pend) (h : Hart) : (ps.foldl (fun k p => k.put p.dst p.mask p.val) h).status = h.status := by
  induction ps generalizing h with
  | nil => rfl
  | cons p ps ih => simp [ih]
@[simp] theorem Hart.status_finish (h : Hart) : h.finish.status = h.status := by simp [Hart.finish, status_putAll]
theorem st_putAll (ps : List Pend) (h : Hart) : (ps.foldl (fun k p => k.put p.dst p.mask p.val) h).st = h.st := by
  induction ps generalizing h with
  | nil => rfl
  | cons p ps ih => simp [ih]
@[simp] theorem Hart.st_finish (h : Hart) : h.finish.st = h.st := by simp [Hart.finish, st_putAll]
theorem pc_putAll (ps : List Pend) (h : Hart) : (ps.foldl (fun k p => k.put p.dst p.mask p.val) h).pc = h.pc := by
  induction ps generalizing h with
  | nil => rfl
  | cons p ps ih => simp [ih]
@[simp] theorem Hart.pc_finish (h : Hart) : h.finish.pc = h.pc := by simp [Hart.finish, pc_putAll]
theorem hctl_putAll (ps : List Pend) (h : Hart) : (ps.foldl (fun k p => k.put p.dst p.mask p.val) h).hctl = h.hctl := by
  induction ps generalizing h with
  | nil => rfl
  | cons p ps ih => simp [ih]
@[simp] theorem Hart.hctl_finish (h : Hart) : h.finish.hctl = h.hctl := by simp [Hart.finish, hctl_putAll]
theorem vl_putAll (ps : List Pend) (h : Hart) : (ps.foldl (fun k p => k.put p.dst p.mask p.val) h).vl = h.vl := by
  induction ps generalizing h with
  | nil => rfl
  | cons p ps ih => simp [ih]
@[simp] theorem Hart.vl_finish (h : Hart) : h.finish.vl = h.vl := by simp [Hart.finish, vl_putAll]
theorem vtype_putAll (ps : List Pend) (h : Hart) : (ps.foldl (fun k p => k.put p.dst p.mask p.val) h).vtype = h.vtype := by
  induction ps generalizing h with
  | nil => rfl
  | cons p ps ih => simp [ih]
@[simp] theorem Hart.vtype_finish (h : Hart) : h.finish.vtype = h.vtype := by simp [Hart.finish, vtype_putAll]
theorem live_putAll (ps : List Pend) (h : Hart) : (ps.foldl (fun k p => k.put p.dst p.mask p.val) h).live = h.live := by
  induction ps generalizing h with
  | nil => rfl
  | cons p ps ih => simp [ih]
@[simp] theorem Hart.live_finish (h : Hart) : h.finish.live = h.live := by simp [Hart.finish, live_putAll]
theorem estart_putAll (ps : List Pend) (h : Hart) : (ps.foldl (fun k p => k.put p.dst p.mask p.val) h).estart = h.estart := by
  induction ps generalizing h with
  | nil => rfl
  | cons p ps ih => simp [ih]
@[simp] theorem Hart.estart_finish (h : Hart) : h.finish.estart = h.estart := by simp [Hart.finish, estart_putAll]
theorem lgp_putAll (ps : List Pend) (h : Hart) : (ps.foldl (fun k p => k.put p.dst p.mask p.val) h).lgp = h.lgp := by
  induction ps generalizing h with
  | nil => rfl
  | cons p ps ih => simp [ih]
@[simp] theorem Hart.lgp_finish (h : Hart) : h.finish.lgp = h.lgp := by simp [Hart.finish, lgp_putAll]
theorem tcause_putAll (ps : List Pend) (h : Hart) : (ps.foldl (fun k p => k.put p.dst p.mask p.val) h).tcause = h.tcause := by
  induction ps generalizing h with
  | nil => rfl
  | cons p ps ih => simp [ih]
@[simp] theorem Hart.tcause_finish (h : Hart) : h.finish.tcause = h.tcause := by simp [Hart.finish, tcause_putAll]
theorem tval_putAll (ps : List Pend) (h : Hart) : (ps.foldl (fun k p => k.put p.dst p.mask p.val) h).tval = h.tval := by
  induction ps generalizing h with
  | nil => rfl
  | cons p ps ih => simp [ih]
@[simp] theorem Hart.tval_finish (h : Hart) : h.finish.tval = h.tval := by simp [Hart.finish, tval_putAll]
theorem tpc_putAll (ps : List Pend) (h : Hart) : (ps.foldl (fun k p => k.put p.dst p.mask p.val) h).tpc = h.tpc := by
  induction ps generalizing h with
  | nil => rfl
  | cons p ps ih => simp [ih]
@[simp] theorem Hart.tpc_finish (h : Hart) : h.finish.tpc = h.tpc := by simp [Hart.finish, tpc_putAll]
theorem tpfx_putAll (ps : List Pend) (h : Hart) : (ps.foldl (fun k p => k.put p.dst p.mask p.val) h).tpfx = h.tpfx := by
  induction ps generalizing h with
  | nil => rfl
  | cons p ps ih => simp [ih]
@[simp] theorem Hart.tpfx_finish (h : Hart) : h.finish.tpfx = h.tpfx := by simp [Hart.finish, tpfx_putAll]
theorem tstat_putAll (ps : List Pend) (h : Hart) : (ps.foldl (fun k p => k.put p.dst p.mask p.val) h).tstat = h.tstat := by
  induction ps generalizing h with
  | nil => rfl
  | cons p ps ih => simp [ih]
@[simp] theorem Hart.tstat_finish (h : Hart) : h.finish.tstat = h.tstat := by simp [Hart.finish, tstat_putAll]
theorem fstat_putAll (ps : List Pend) (h : Hart) : (ps.foldl (fun k p => k.put p.dst p.mask p.val) h).fstat = h.fstat := by
  induction ps generalizing h with
  | nil => rfl
  | cons p ps ih => simp [ih]
@[simp] theorem Hart.fstat_finish (h : Hart) : h.finish.fstat = h.fstat := by simp [Hart.finish, fstat_putAll]
theorem rng0_putAll (ps : List Pend) (h : Hart) : (ps.foldl (fun k p => k.put p.dst p.mask p.val) h).rng0 = h.rng0 := by
  induction ps generalizing h with
  | nil => rfl
  | cons p ps ih => simp [ih]
@[simp] theorem Hart.rng0_finish (h : Hart) : h.finish.rng0 = h.rng0 := by simp [Hart.finish, rng0_putAll]
theorem rng1_putAll (ps : List Pend) (h : Hart) : (ps.foldl (fun k p => k.put p.dst p.mask p.val) h).rng1 = h.rng1 := by
  induction ps generalizing h with
  | nil => rfl
  | cons p ps ih => simp [ih]
@[simp] theorem Hart.rng1_finish (h : Hart) : h.finish.rng1 = h.rng1 := by simp [Hart.finish, rng1_putAll]
theorem smiss_putAll (ps : List Pend) (h : Hart) : (ps.foldl (fun k p => k.put p.dst p.mask p.val) h).smiss = h.smiss := by
  induction ps generalizing h with
  | nil => rfl
  | cons p ps ih => simp [ih]
@[simp] theorem Hart.smiss_finish (h : Hart) : h.finish.smiss = h.smiss := by simp [Hart.finish, smiss_putAll]
theorem smissCopy_putAll (ps : List Pend) (h : Hart) : (ps.foldl (fun k p => k.put p.dst p.mask p.val) h).smissCopy = h.smissCopy := by
  induction ps generalizing h with
  | nil => rfl
  | cons p ps ih => simp [ih]
@[simp] theorem Hart.smissCopy_finish (h : Hart) : h.finish.smissCopy = h.smissCopy := by simp [Hart.finish, smissCopy_putAll]
theorem bdone_putAll (ps : List Pend) (h : Hart) : (ps.foldl (fun k p => k.put p.dst p.mask p.val) h).bdone = h.bdone := by
  induction ps generalizing h with
  | nil => rfl
  | cons p ps ih => simp [ih]
@[simp] theorem Hart.bdone_finish (h : Hart) : h.finish.bdone = h.bdone := by simp [Hart.finish, bdone_putAll]
theorem hwm_putAll (ps : List Pend) (h : Hart) : (ps.foldl (fun k p => k.put p.dst p.mask p.val) h).hwm = h.hwm := by
  induction ps generalizing h with
  | nil => rfl
  | cons p ps ih => simp [ih]
@[simp] theorem Hart.hwm_finish (h : Hart) : h.finish.hwm = h.hwm := by simp [Hart.finish, hwm_putAll]
theorem lmap_putAll (ps : List Pend) (h : Hart) : (ps.foldl (fun k p => k.put p.dst p.mask p.val) h).lmap = h.lmap := by
  induction ps generalizing h with
  | nil => rfl
  | cons p ps ih => simp [ih]
@[simp] theorem Hart.lmap_finish (h : Hart) : h.finish.lmap = h.lmap := by simp [Hart.finish, lmap_putAll]
theorem tvec_putAll (ps : List Pend) (h : Hart) : (ps.foldl (fun k p => k.put p.dst p.mask p.val) h).tvec = h.tvec := by
  induction ps generalizing h with
  | nil => rfl
  | cons p ps ih => simp [ih]
@[simp] theorem Hart.tvec_finish (h : Hart) : h.finish.tvec = h.tvec := by simp [Hart.finish, tvec_putAll]
theorem bstp_putAll (ps : List Pend) (h : Hart) : (ps.foldl (fun k p => k.put p.dst p.mask p.val) h).bstp = h.bstp := by
  induction ps generalizing h with
  | nil => rfl
  | cons p ps ih => simp [ih]
@[simp] theorem Hart.bstp_finish (h : Hart) : h.finish.bstp = h.bstp := by simp [Hart.finish, bstp_putAll]
theorem scpwin_putAll (ps : List Pend) (h : Hart) : (ps.foldl (fun k p => k.put p.dst p.mask p.val) h).scpwin = h.scpwin := by
  induction ps generalizing h with
  | nil => rfl
  | cons p ps ih => simp [ih]
@[simp] theorem Hart.scpwin_finish (h : Hart) : h.finish.scpwin = h.scpwin := by simp [Hart.finish, scpwin_putAll]
theorem lent_putAll (ps : List Pend) (h : Hart) : (ps.foldl (fun k p => k.put p.dst p.mask p.val) h).lent = h.lent := by
  induction ps generalizing h with
  | nil => rfl
  | cons p ps ih => simp [ih]
@[simp] theorem Hart.lent_finish (h : Hart) : h.finish.lent = h.lent := by simp [Hart.finish, lent_putAll]
theorem now_putAll (ps : List Pend) (h : Hart) : (ps.foldl (fun k p => k.put p.dst p.mask p.val) h).now = h.now := by
  induction ps generalizing h with
  | nil => rfl
  | cons p ps ih => simp [ih]
@[simp] theorem Hart.now_finish (h : Hart) : h.finish.now = h.now := by simp [Hart.finish, now_putAll]
theorem stalls_putAll (ps : List Pend) (h : Hart) : (ps.foldl (fun k p => k.put p.dst p.mask p.val) h).stalls = h.stalls := by
  induction ps generalizing h with
  | nil => rfl
  | cons p ps ih => simp [ih]
@[simp] theorem Hart.stalls_finish (h : Hart) : h.finish.stalls = h.stalls := by simp [Hart.finish, stalls_putAll]
theorem queue_putAll (ps : List Pend) (h : Hart) : (ps.foldl (fun k p => k.put p.dst p.mask p.val) h).queue = h.queue := by
  induction ps generalizing h with
  | nil => rfl
  | cons p ps ih => simp [ih]
@[simp] theorem Hart.queue_finish (h : Hart) : h.finish.queue = h.queue := by simp [Hart.finish, queue_putAll]
theorem posted_putAll (ps : List Pend) (h : Hart) : (ps.foldl (fun k p => k.put p.dst p.mask p.val) h).posted = h.posted := by
  induction ps generalizing h with
  | nil => rfl
  | cons p ps ih => simp [ih]
@[simp] theorem Hart.posted_finish (h : Hart) : h.finish.posted = h.posted := by simp [Hart.finish, posted_putAll]
theorem banks_putAll (ps : List Pend) (h : Hart) : (ps.foldl (fun k p => k.put p.dst p.mask p.val) h).banks = h.banks := by
  induction ps generalizing h with
  | nil => rfl
  | cons p ps ih => simp [ih]
@[simp] theorem Hart.banks_finish (h : Hart) : h.finish.banks = h.banks := by simp [Hart.finish, banks_putAll]
theorem async_putAll (ps : List Pend) (h : Hart) : (ps.foldl (fun k p => k.put p.dst p.mask p.val) h).async = h.async := by
  induction ps generalizing h with
  | nil => rfl
  | cons p ps ih => simp [ih]
@[simp] theorem Hart.async_finish (h : Hart) : h.finish.async = h.async := by simp [Hart.finish, async_putAll]
theorem preempt_putAll (ps : List Pend) (h : Hart) : (ps.foldl (fun k p => k.put p.dst p.mask p.val) h).preempt = h.preempt := by
  induction ps generalizing h with
  | nil => rfl
  | cons p ps ih => simp [ih]
theorem asked_putAll (ps : List Pend) (h : Hart) : (ps.foldl (fun k p => k.put p.dst p.mask p.val) h).asked = h.asked := by
  induction ps generalizing h with
  | nil => rfl
  | cons p ps ih => simp [ih]
theorem ahead_putAll (ps : List Pend) (h : Hart) : (ps.foldl (fun k p => k.put p.dst p.mask p.val) h).gathers = h.gathers := by
  induction ps generalizing h with
  | nil => rfl
  | cons p ps ih => simp [ih]
theorem engaged_putAll (ps : List Pend) (h : Hart) : (ps.foldl (fun k p => k.put p.dst p.mask p.val) h).engaged = h.engaged := by
  induction ps generalizing h with
  | nil => rfl
  | cons p ps ih => simp [ih]
theorem floor_putAll (ps : List Pend) (h : Hart) : (ps.foldl (fun k p => k.put p.dst p.mask p.val) h).floor = h.floor := by
  induction ps generalizing h with
  | nil => rfl
  | cons p ps ih => simp [ih]
@[simp] theorem Hart.preempt_finish (h : Hart) : h.finish.preempt = h.preempt := by simp [Hart.finish, preempt_putAll]
@[simp] theorem Hart.asked_finish (h : Hart) : h.finish.asked = h.asked := by simp [Hart.finish, asked_putAll]
@[simp] theorem Hart.ahead_finish (h : Hart) : h.finish.gathers = h.gathers := by simp [Hart.finish, ahead_putAll]
@[simp] theorem Hart.engaged_finish (h : Hart) : h.finish.engaged = h.engaged := by simp [Hart.finish, engaged_putAll]
@[simp] theorem Hart.floor_finish (h : Hart) : h.finish.floor = h.floor := by simp [Hart.finish, floor_putAll]
theorem expired_putAll (ps : List Pend) (h : Hart) : (ps.foldl (fun k p => k.put p.dst p.mask p.val) h).expired = h.expired := by
  induction ps generalizing h with
  | nil => rfl
  | cons p ps ih => simp [ih]
@[simp] theorem Hart.expired_finish (h : Hart) : h.finish.expired = h.expired := by simp [Hart.finish, expired_putAll]
theorem woken_putAll (ps : List Pend) (h : Hart) : (ps.foldl (fun k p => k.put p.dst p.mask p.val) h).woken = h.woken := by
  induction ps generalizing h with
  | nil => rfl
  | cons p ps ih => simp [ih]
@[simp] theorem Hart.woken_finish (h : Hart) : h.finish.woken = h.woken := by simp [Hart.finish, woken_putAll]
theorem asleep_putAll (ps : List Pend) (h : Hart) : (ps.foldl (fun k p => k.put p.dst p.mask p.val) h).asleep = h.asleep := by
  induction ps generalizing h with
  | nil => rfl
  | cons p ps ih => simp [ih]
@[simp] theorem Hart.asleep_finish (h : Hart) : h.finish.asleep = h.asleep := by simp [Hart.finish, asleep_putAll]
theorem stop_putAll (ps : List Pend) (h : Hart) : (ps.foldl (fun k p => k.put p.dst p.mask p.val) h).stop = h.stop := by
  induction ps generalizing h with
  | nil => rfl
  | cons p ps ih => simp [ih]
@[simp] theorem Hart.stop_finish (h : Hart) : h.finish.stop = h.stop := by simp [Hart.finish, stop_putAll]
theorem bySave_putAll (ps : List Pend) (h : Hart) : (ps.foldl (fun k p => k.put p.dst p.mask p.val) h).bySave = h.bySave := by
  induction ps generalizing h with
  | nil => rfl
  | cons p ps ih => simp [ih]
theorem byLog_putAll (ps : List Pend) (h : Hart) : (ps.foldl (fun k p => k.put p.dst p.mask p.val) h).byLog = h.byLog := by
  induction ps generalizing h with
  | nil => rfl
  | cons p ps ih => simp [ih]
@[simp] theorem Hart.bySave_finish (h : Hart) : h.finish.bySave = h.bySave := by simp [Hart.finish, bySave_putAll]
@[simp] theorem Hart.byLog_finish (h : Hart) : h.finish.byLog = h.byLog := by simp [Hart.finish, byLog_putAll]
@[simp] theorem Hart.pend_finish (h : Hart) : h.finish.pend = [] := rfl

@[simp] theorem Hart.status_setA (h : Hart) (r : Reg) (x : Word) (l : Nat) : (h.setA r x l).status = h.status := by
  unfold Hart.setA; split <;> simp
@[simp] theorem Hart.st_setA (h : Hart) (r : Reg) (x : Word) (l : Nat) : (h.setA r x l).st = h.st := by
  unfold Hart.setA; split <;> simp
@[simp] theorem Hart.pc_setA (h : Hart) (r : Reg) (x : Word) (l : Nat) : (h.setA r x l).pc = h.pc := by
  unfold Hart.setA; split <;> simp
@[simp] theorem Hart.hctl_setA (h : Hart) (r : Reg) (x : Word) (l : Nat) : (h.setA r x l).hctl = h.hctl := by
  unfold Hart.setA; split <;> simp
@[simp] theorem Hart.vl_setA (h : Hart) (r : Reg) (x : Word) (l : Nat) : (h.setA r x l).vl = h.vl := by
  unfold Hart.setA; split <;> simp
@[simp] theorem Hart.vtype_setA (h : Hart) (r : Reg) (x : Word) (l : Nat) : (h.setA r x l).vtype = h.vtype := by
  unfold Hart.setA; split <;> simp
@[simp] theorem Hart.live_setA (h : Hart) (r : Reg) (x : Word) (l : Nat) : (h.setA r x l).live = h.live := by
  unfold Hart.setA; split <;> simp
@[simp] theorem Hart.estart_setA (h : Hart) (r : Reg) (x : Word) (l : Nat) : (h.setA r x l).estart = h.estart := by
  unfold Hart.setA; split <;> simp
@[simp] theorem Hart.lgp_setA (h : Hart) (r : Reg) (x : Word) (l : Nat) : (h.setA r x l).lgp = h.lgp := by
  unfold Hart.setA; split <;> simp
@[simp] theorem Hart.tcause_setA (h : Hart) (r : Reg) (x : Word) (l : Nat) : (h.setA r x l).tcause = h.tcause := by
  unfold Hart.setA; split <;> simp
@[simp] theorem Hart.tval_setA (h : Hart) (r : Reg) (x : Word) (l : Nat) : (h.setA r x l).tval = h.tval := by
  unfold Hart.setA; split <;> simp
@[simp] theorem Hart.tpc_setA (h : Hart) (r : Reg) (x : Word) (l : Nat) : (h.setA r x l).tpc = h.tpc := by
  unfold Hart.setA; split <;> simp
@[simp] theorem Hart.tpfx_setA (h : Hart) (r : Reg) (x : Word) (l : Nat) : (h.setA r x l).tpfx = h.tpfx := by
  unfold Hart.setA; split <;> simp
@[simp] theorem Hart.tstat_setA (h : Hart) (r : Reg) (x : Word) (l : Nat) : (h.setA r x l).tstat = h.tstat := by
  unfold Hart.setA; split <;> simp
@[simp] theorem Hart.fstat_setA (h : Hart) (r : Reg) (x : Word) (l : Nat) : (h.setA r x l).fstat = h.fstat := by
  unfold Hart.setA; split <;> simp
@[simp] theorem Hart.rng0_setA (h : Hart) (r : Reg) (x : Word) (l : Nat) : (h.setA r x l).rng0 = h.rng0 := by
  unfold Hart.setA; split <;> simp
@[simp] theorem Hart.rng1_setA (h : Hart) (r : Reg) (x : Word) (l : Nat) : (h.setA r x l).rng1 = h.rng1 := by
  unfold Hart.setA; split <;> simp
@[simp] theorem Hart.smiss_setA (h : Hart) (r : Reg) (x : Word) (l : Nat) : (h.setA r x l).smiss = h.smiss := by
  unfold Hart.setA; split <;> simp
@[simp] theorem Hart.smissCopy_setA (h : Hart) (r : Reg) (x : Word) (l : Nat) : (h.setA r x l).smissCopy = h.smissCopy := by
  unfold Hart.setA; split <;> simp
@[simp] theorem Hart.bdone_setA (h : Hart) (r : Reg) (x : Word) (l : Nat) : (h.setA r x l).bdone = h.bdone := by
  unfold Hart.setA; split <;> simp
@[simp] theorem Hart.hwm_setA (h : Hart) (r : Reg) (x : Word) (l : Nat) : (h.setA r x l).hwm = h.hwm := by
  unfold Hart.setA; split <;> simp
@[simp] theorem Hart.lmap_setA (h : Hart) (r : Reg) (x : Word) (l : Nat) : (h.setA r x l).lmap = h.lmap := by
  unfold Hart.setA; split <;> simp
@[simp] theorem Hart.tvec_setA (h : Hart) (r : Reg) (x : Word) (l : Nat) : (h.setA r x l).tvec = h.tvec := by
  unfold Hart.setA; split <;> simp
@[simp] theorem Hart.bstp_setA (h : Hart) (r : Reg) (x : Word) (l : Nat) : (h.setA r x l).bstp = h.bstp := by
  unfold Hart.setA; split <;> simp
@[simp] theorem Hart.scpwin_setA (h : Hart) (r : Reg) (x : Word) (l : Nat) : (h.setA r x l).scpwin = h.scpwin := by
  unfold Hart.setA; split <;> simp
@[simp] theorem Hart.lent_setA (h : Hart) (r : Reg) (x : Word) (l : Nat) : (h.setA r x l).lent = h.lent := by
  unfold Hart.setA; split <;> simp
@[simp] theorem Hart.now_setA (h : Hart) (r : Reg) (x : Word) (l : Nat) : (h.setA r x l).now = h.now := by
  unfold Hart.setA; split <;> simp
@[simp] theorem Hart.stalls_setA (h : Hart) (r : Reg) (x : Word) (l : Nat) : (h.setA r x l).stalls = h.stalls := by
  unfold Hart.setA; split <;> simp
@[simp] theorem Hart.queue_setA (h : Hart) (r : Reg) (x : Word) (l : Nat) : (h.setA r x l).queue = h.queue := by
  unfold Hart.setA; split <;> simp
@[simp] theorem Hart.posted_setA (h : Hart) (r : Reg) (x : Word) (l : Nat) : (h.setA r x l).posted = h.posted := by
  unfold Hart.setA; split <;> simp
@[simp] theorem Hart.banks_setA (h : Hart) (r : Reg) (x : Word) (l : Nat) : (h.setA r x l).banks = h.banks := by
  unfold Hart.setA; split <;> simp
@[simp] theorem Hart.async_setA (h : Hart) (r : Reg) (x : Word) (l : Nat) : (h.setA r x l).async = h.async := by
  unfold Hart.setA; split <;> simp
@[simp] theorem Hart.preempt_setA (h : Hart) (r : Reg) (x : Word) (l : Nat) : (h.setA r x l).preempt = h.preempt := by
  unfold Hart.setA; split <;> simp
@[simp] theorem Hart.asked_setA (h : Hart) (r : Reg) (x : Word) (l : Nat) : (h.setA r x l).asked = h.asked := by
  unfold Hart.setA; split <;> simp
@[simp] theorem Hart.ahead_setA (h : Hart) (r : Reg) (x : Word) (l : Nat) : (h.setA r x l).gathers = h.gathers := by
  unfold Hart.setA; split <;> simp
@[simp] theorem Hart.engaged_setA (h : Hart) (r : Reg) (x : Word) (l : Nat) : (h.setA r x l).engaged = h.engaged := by
  unfold Hart.setA; split <;> simp
@[simp] theorem Hart.floor_setA (h : Hart) (r : Reg) (x : Word) (l : Nat) : (h.setA r x l).floor = h.floor := by
  unfold Hart.setA; split <;> simp
@[simp] theorem Hart.expired_setA (h : Hart) (r : Reg) (x : Word) (l : Nat) : (h.setA r x l).expired = h.expired := by
  unfold Hart.setA; split <;> simp
@[simp] theorem Hart.woken_setA (h : Hart) (r : Reg) (x : Word) (l : Nat) : (h.setA r x l).woken = h.woken := by
  unfold Hart.setA; split <;> simp
@[simp] theorem Hart.asleep_setA (h : Hart) (r : Reg) (x : Word) (l : Nat) : (h.setA r x l).asleep = h.asleep := by
  unfold Hart.setA; split <;> simp
@[simp] theorem Hart.stop_setA (h : Hart) (r : Reg) (x : Word) (l : Nat) : (h.setA r x l).stop = h.stop := by
  unfold Hart.setA; split <;> simp
@[simp] theorem Hart.bySave_setA (h : Hart) (r : Reg) (x : Word) (l : Nat) : (h.setA r x l).bySave = h.bySave := by
  unfold Hart.setA; split <;> simp

@[simp] theorem Hart.byLog_setA (h : Hart) (r : Reg) (x : Word) (l : Nat) : (h.setA r x l).byLog = h.byLog := by
  unfold Hart.setA; split <;> simp

@[simp] theorem Hart.status_setM (h : Hart) (r : MReg) (k x : BitVec 4096) (l : Nat) : (h.setM r k x l).status = h.status := by
  simp [Hart.setM]
@[simp] theorem Hart.st_setM (h : Hart) (r : MReg) (k x : BitVec 4096) (l : Nat) : (h.setM r k x l).st = h.st := by
  simp [Hart.setM]
@[simp] theorem Hart.pc_setM (h : Hart) (r : MReg) (k x : BitVec 4096) (l : Nat) : (h.setM r k x l).pc = h.pc := by
  simp [Hart.setM]
@[simp] theorem Hart.hctl_setM (h : Hart) (r : MReg) (k x : BitVec 4096) (l : Nat) : (h.setM r k x l).hctl = h.hctl := by
  simp [Hart.setM]
@[simp] theorem Hart.vl_setM (h : Hart) (r : MReg) (k x : BitVec 4096) (l : Nat) : (h.setM r k x l).vl = h.vl := by
  simp [Hart.setM]
@[simp] theorem Hart.vtype_setM (h : Hart) (r : MReg) (k x : BitVec 4096) (l : Nat) : (h.setM r k x l).vtype = h.vtype := by
  simp [Hart.setM]
@[simp] theorem Hart.live_setM (h : Hart) (r : MReg) (k x : BitVec 4096) (l : Nat) : (h.setM r k x l).live = h.live := by
  simp [Hart.setM]
@[simp] theorem Hart.estart_setM (h : Hart) (r : MReg) (k x : BitVec 4096) (l : Nat) : (h.setM r k x l).estart = h.estart := by
  simp [Hart.setM]
@[simp] theorem Hart.lgp_setM (h : Hart) (r : MReg) (k x : BitVec 4096) (l : Nat) : (h.setM r k x l).lgp = h.lgp := by
  simp [Hart.setM]
@[simp] theorem Hart.tcause_setM (h : Hart) (r : MReg) (k x : BitVec 4096) (l : Nat) : (h.setM r k x l).tcause = h.tcause := by
  simp [Hart.setM]
@[simp] theorem Hart.tval_setM (h : Hart) (r : MReg) (k x : BitVec 4096) (l : Nat) : (h.setM r k x l).tval = h.tval := by
  simp [Hart.setM]
@[simp] theorem Hart.tpc_setM (h : Hart) (r : MReg) (k x : BitVec 4096) (l : Nat) : (h.setM r k x l).tpc = h.tpc := by
  simp [Hart.setM]
@[simp] theorem Hart.tpfx_setM (h : Hart) (r : MReg) (k x : BitVec 4096) (l : Nat) : (h.setM r k x l).tpfx = h.tpfx := by
  simp [Hart.setM]
@[simp] theorem Hart.tstat_setM (h : Hart) (r : MReg) (k x : BitVec 4096) (l : Nat) : (h.setM r k x l).tstat = h.tstat := by
  simp [Hart.setM]
@[simp] theorem Hart.fstat_setM (h : Hart) (r : MReg) (k x : BitVec 4096) (l : Nat) : (h.setM r k x l).fstat = h.fstat := by
  simp [Hart.setM]
@[simp] theorem Hart.rng0_setM (h : Hart) (r : MReg) (k x : BitVec 4096) (l : Nat) : (h.setM r k x l).rng0 = h.rng0 := by
  simp [Hart.setM]
@[simp] theorem Hart.rng1_setM (h : Hart) (r : MReg) (k x : BitVec 4096) (l : Nat) : (h.setM r k x l).rng1 = h.rng1 := by
  simp [Hart.setM]
@[simp] theorem Hart.smiss_setM (h : Hart) (r : MReg) (k x : BitVec 4096) (l : Nat) : (h.setM r k x l).smiss = h.smiss := by
  simp [Hart.setM]
@[simp] theorem Hart.smissCopy_setM (h : Hart) (r : MReg) (k x : BitVec 4096) (l : Nat) : (h.setM r k x l).smissCopy = h.smissCopy := by
  simp [Hart.setM]
@[simp] theorem Hart.bdone_setM (h : Hart) (r : MReg) (k x : BitVec 4096) (l : Nat) : (h.setM r k x l).bdone = h.bdone := by
  simp [Hart.setM]
@[simp] theorem Hart.hwm_setM (h : Hart) (r : MReg) (k x : BitVec 4096) (l : Nat) : (h.setM r k x l).hwm = h.hwm := by
  simp [Hart.setM]
@[simp] theorem Hart.lmap_setM (h : Hart) (r : MReg) (k x : BitVec 4096) (l : Nat) : (h.setM r k x l).lmap = h.lmap := by
  simp [Hart.setM]
@[simp] theorem Hart.tvec_setM (h : Hart) (r : MReg) (k x : BitVec 4096) (l : Nat) : (h.setM r k x l).tvec = h.tvec := by
  simp [Hart.setM]
@[simp] theorem Hart.bstp_setM (h : Hart) (r : MReg) (k x : BitVec 4096) (l : Nat) : (h.setM r k x l).bstp = h.bstp := by
  simp [Hart.setM]
@[simp] theorem Hart.scpwin_setM (h : Hart) (r : MReg) (k x : BitVec 4096) (l : Nat) : (h.setM r k x l).scpwin = h.scpwin := by
  simp [Hart.setM]
@[simp] theorem Hart.lent_setM (h : Hart) (r : MReg) (k x : BitVec 4096) (l : Nat) : (h.setM r k x l).lent = h.lent := by
  simp [Hart.setM]
@[simp] theorem Hart.now_setM (h : Hart) (r : MReg) (k x : BitVec 4096) (l : Nat) : (h.setM r k x l).now = h.now := by
  simp [Hart.setM]
@[simp] theorem Hart.stalls_setM (h : Hart) (r : MReg) (k x : BitVec 4096) (l : Nat) : (h.setM r k x l).stalls = h.stalls := by
  simp [Hart.setM]
@[simp] theorem Hart.queue_setM (h : Hart) (r : MReg) (k x : BitVec 4096) (l : Nat) : (h.setM r k x l).queue = h.queue := by
  simp [Hart.setM]
@[simp] theorem Hart.posted_setM (h : Hart) (r : MReg) (k x : BitVec 4096) (l : Nat) : (h.setM r k x l).posted = h.posted := by
  simp [Hart.setM]
@[simp] theorem Hart.banks_setM (h : Hart) (r : MReg) (k x : BitVec 4096) (l : Nat) : (h.setM r k x l).banks = h.banks := by
  simp [Hart.setM]
@[simp] theorem Hart.async_setM (h : Hart) (r : MReg) (k x : BitVec 4096) (l : Nat) : (h.setM r k x l).async = h.async := by
  simp [Hart.setM]
@[simp] theorem Hart.preempt_setM (h : Hart) (r : MReg) (k x : BitVec 4096) (l : Nat) : (h.setM r k x l).preempt = h.preempt := by
  simp [Hart.setM]
@[simp] theorem Hart.asked_setM (h : Hart) (r : MReg) (k x : BitVec 4096) (l : Nat) : (h.setM r k x l).asked = h.asked := by
  simp [Hart.setM]
@[simp] theorem Hart.ahead_setM (h : Hart) (r : MReg) (k x : BitVec 4096) (l : Nat) : (h.setM r k x l).gathers = h.gathers := by
  simp [Hart.setM]
@[simp] theorem Hart.engaged_setM (h : Hart) (r : MReg) (k x : BitVec 4096) (l : Nat) : (h.setM r k x l).engaged = h.engaged := by
  simp [Hart.setM]
@[simp] theorem Hart.floor_setM (h : Hart) (r : MReg) (k x : BitVec 4096) (l : Nat) : (h.setM r k x l).floor = h.floor := by
  simp [Hart.setM]
@[simp] theorem Hart.expired_setM (h : Hart) (r : MReg) (k x : BitVec 4096) (l : Nat) : (h.setM r k x l).expired = h.expired := by
  simp [Hart.setM]
@[simp] theorem Hart.woken_setM (h : Hart) (r : MReg) (k x : BitVec 4096) (l : Nat) : (h.setM r k x l).woken = h.woken := by
  simp [Hart.setM]
@[simp] theorem Hart.asleep_setM (h : Hart) (r : MReg) (k x : BitVec 4096) (l : Nat) : (h.setM r k x l).asleep = h.asleep := by
  simp [Hart.setM]
@[simp] theorem Hart.stop_setM (h : Hart) (r : MReg) (k x : BitVec 4096) (l : Nat) : (h.setM r k x l).stop = h.stop := by
  simp [Hart.setM]
@[simp] theorem Hart.bySave_setM (h : Hart) (r : MReg) (k x : BitVec 4096) (l : Nat) : (h.setM r k x l).bySave = h.bySave := by
  simp [Hart.setM]

@[simp] theorem Hart.byLog_setM (h : Hart) (r : MReg) (k x : BitVec 4096) (l : Nat) : (h.setM r k x l).byLog = h.byLog := by
  simp [Hart.setM]

@[simp] theorem Hart.status_putLanes (h : Hart) (r : Reg) (x : Lanes) (l : Nat) : (h.putLanes r x l).status = h.status := by
  unfold Hart.putLanes; split <;> simp
@[simp] theorem Hart.st_putLanes (h : Hart) (r : Reg) (x : Lanes) (l : Nat) : (h.putLanes r x l).st = h.st := by
  unfold Hart.putLanes; split <;> simp
@[simp] theorem Hart.pc_putLanes (h : Hart) (r : Reg) (x : Lanes) (l : Nat) : (h.putLanes r x l).pc = h.pc := by
  unfold Hart.putLanes; split <;> simp
@[simp] theorem Hart.hctl_putLanes (h : Hart) (r : Reg) (x : Lanes) (l : Nat) : (h.putLanes r x l).hctl = h.hctl := by
  unfold Hart.putLanes; split <;> simp
@[simp] theorem Hart.vl_putLanes (h : Hart) (r : Reg) (x : Lanes) (l : Nat) : (h.putLanes r x l).vl = h.vl := by
  unfold Hart.putLanes; split <;> simp
@[simp] theorem Hart.vtype_putLanes (h : Hart) (r : Reg) (x : Lanes) (l : Nat) : (h.putLanes r x l).vtype = h.vtype := by
  unfold Hart.putLanes; split <;> simp
@[simp] theorem Hart.live_putLanes (h : Hart) (r : Reg) (x : Lanes) (l : Nat) : (h.putLanes r x l).live = h.live := by
  unfold Hart.putLanes; split <;> simp
@[simp] theorem Hart.estart_putLanes (h : Hart) (r : Reg) (x : Lanes) (l : Nat) : (h.putLanes r x l).estart = h.estart := by
  unfold Hart.putLanes; split <;> simp
@[simp] theorem Hart.lgp_putLanes (h : Hart) (r : Reg) (x : Lanes) (l : Nat) : (h.putLanes r x l).lgp = h.lgp := by
  unfold Hart.putLanes; split <;> simp
@[simp] theorem Hart.tcause_putLanes (h : Hart) (r : Reg) (x : Lanes) (l : Nat) : (h.putLanes r x l).tcause = h.tcause := by
  unfold Hart.putLanes; split <;> simp
@[simp] theorem Hart.tval_putLanes (h : Hart) (r : Reg) (x : Lanes) (l : Nat) : (h.putLanes r x l).tval = h.tval := by
  unfold Hart.putLanes; split <;> simp
@[simp] theorem Hart.tpc_putLanes (h : Hart) (r : Reg) (x : Lanes) (l : Nat) : (h.putLanes r x l).tpc = h.tpc := by
  unfold Hart.putLanes; split <;> simp
@[simp] theorem Hart.tpfx_putLanes (h : Hart) (r : Reg) (x : Lanes) (l : Nat) : (h.putLanes r x l).tpfx = h.tpfx := by
  unfold Hart.putLanes; split <;> simp
@[simp] theorem Hart.tstat_putLanes (h : Hart) (r : Reg) (x : Lanes) (l : Nat) : (h.putLanes r x l).tstat = h.tstat := by
  unfold Hart.putLanes; split <;> simp
@[simp] theorem Hart.fstat_putLanes (h : Hart) (r : Reg) (x : Lanes) (l : Nat) : (h.putLanes r x l).fstat = h.fstat := by
  unfold Hart.putLanes; split <;> simp
@[simp] theorem Hart.rng0_putLanes (h : Hart) (r : Reg) (x : Lanes) (l : Nat) : (h.putLanes r x l).rng0 = h.rng0 := by
  unfold Hart.putLanes; split <;> simp
@[simp] theorem Hart.rng1_putLanes (h : Hart) (r : Reg) (x : Lanes) (l : Nat) : (h.putLanes r x l).rng1 = h.rng1 := by
  unfold Hart.putLanes; split <;> simp
@[simp] theorem Hart.smiss_putLanes (h : Hart) (r : Reg) (x : Lanes) (l : Nat) : (h.putLanes r x l).smiss = h.smiss := by
  unfold Hart.putLanes; split <;> simp
@[simp] theorem Hart.smissCopy_putLanes (h : Hart) (r : Reg) (x : Lanes) (l : Nat) : (h.putLanes r x l).smissCopy = h.smissCopy := by
  unfold Hart.putLanes; split <;> simp
@[simp] theorem Hart.bdone_putLanes (h : Hart) (r : Reg) (x : Lanes) (l : Nat) : (h.putLanes r x l).bdone = h.bdone := by
  unfold Hart.putLanes; split <;> simp
@[simp] theorem Hart.lmap_putLanes (h : Hart) (r : Reg) (x : Lanes) (l : Nat) : (h.putLanes r x l).lmap = h.lmap := by
  unfold Hart.putLanes; split <;> simp
@[simp] theorem Hart.tvec_putLanes (h : Hart) (r : Reg) (x : Lanes) (l : Nat) : (h.putLanes r x l).tvec = h.tvec := by
  unfold Hart.putLanes; split <;> simp
@[simp] theorem Hart.bstp_putLanes (h : Hart) (r : Reg) (x : Lanes) (l : Nat) : (h.putLanes r x l).bstp = h.bstp := by
  unfold Hart.putLanes; split <;> simp
@[simp] theorem Hart.scpwin_putLanes (h : Hart) (r : Reg) (x : Lanes) (l : Nat) : (h.putLanes r x l).scpwin = h.scpwin := by
  unfold Hart.putLanes; split <;> simp
@[simp] theorem Hart.lent_putLanes (h : Hart) (r : Reg) (x : Lanes) (l : Nat) : (h.putLanes r x l).lent = h.lent := by
  unfold Hart.putLanes; split <;> simp
@[simp] theorem Hart.now_putLanes (h : Hart) (r : Reg) (x : Lanes) (l : Nat) : (h.putLanes r x l).now = h.now := by
  unfold Hart.putLanes; split <;> simp
@[simp] theorem Hart.stalls_putLanes (h : Hart) (r : Reg) (x : Lanes) (l : Nat) : (h.putLanes r x l).stalls = h.stalls := by
  unfold Hart.putLanes; split <;> simp
@[simp] theorem Hart.queue_putLanes (h : Hart) (r : Reg) (x : Lanes) (l : Nat) : (h.putLanes r x l).queue = h.queue := by
  unfold Hart.putLanes; split <;> simp
@[simp] theorem Hart.posted_putLanes (h : Hart) (r : Reg) (x : Lanes) (l : Nat) : (h.putLanes r x l).posted = h.posted := by
  unfold Hart.putLanes; split <;> simp
@[simp] theorem Hart.banks_putLanes (h : Hart) (r : Reg) (x : Lanes) (l : Nat) : (h.putLanes r x l).banks = h.banks := by
  unfold Hart.putLanes; split <;> simp
@[simp] theorem Hart.async_putLanes (h : Hart) (r : Reg) (x : Lanes) (l : Nat) : (h.putLanes r x l).async = h.async := by
  unfold Hart.putLanes; split <;> simp
@[simp] theorem Hart.preempt_putLanes (h : Hart) (r : Reg) (x : Lanes) (l : Nat) : (h.putLanes r x l).preempt = h.preempt := by
  unfold Hart.putLanes; split <;> simp
@[simp] theorem Hart.asked_putLanes (h : Hart) (r : Reg) (x : Lanes) (l : Nat) : (h.putLanes r x l).asked = h.asked := by
  unfold Hart.putLanes; split <;> simp
@[simp] theorem Hart.ahead_putLanes (h : Hart) (r : Reg) (x : Lanes) (l : Nat) : (h.putLanes r x l).gathers = h.gathers := by
  unfold Hart.putLanes; split <;> simp
@[simp] theorem Hart.engaged_putLanes (h : Hart) (r : Reg) (x : Lanes) (l : Nat) : (h.putLanes r x l).engaged = h.engaged := by
  unfold Hart.putLanes; split <;> simp
@[simp] theorem Hart.floor_putLanes (h : Hart) (r : Reg) (x : Lanes) (l : Nat) : (h.putLanes r x l).floor = h.floor := by
  unfold Hart.putLanes; split <;> simp
@[simp] theorem Hart.expired_putLanes (h : Hart) (r : Reg) (x : Lanes) (l : Nat) : (h.putLanes r x l).expired = h.expired := by
  unfold Hart.putLanes; split <;> simp
@[simp] theorem Hart.woken_putLanes (h : Hart) (r : Reg) (x : Lanes) (l : Nat) : (h.putLanes r x l).woken = h.woken := by
  unfold Hart.putLanes; split <;> simp
@[simp] theorem Hart.asleep_putLanes (h : Hart) (r : Reg) (x : Lanes) (l : Nat) : (h.putLanes r x l).asleep = h.asleep := by
  unfold Hart.putLanes; split <;> simp
@[simp] theorem Hart.stop_putLanes (h : Hart) (r : Reg) (x : Lanes) (l : Nat) : (h.putLanes r x l).stop = h.stop := by
  unfold Hart.putLanes; split <;> simp
@[simp] theorem Hart.bySave_putLanes (h : Hart) (r : Reg) (x : Lanes) (l : Nat) : (h.putLanes r x l).bySave = h.bySave := by
  unfold Hart.putLanes; split <;> simp

@[simp] theorem Hart.byLog_putLanes (h : Hart) (r : Reg) (x : Lanes) (l : Nat) : (h.putLanes r x l).byLog = h.byLog := by
  unfold Hart.putLanes; split <;> simp

@[simp] theorem Hart.status_putMBits (h : Hart) (r : MReg) (x : MBits) (l : Nat) : (h.putMBits r x l).status = h.status := by
  unfold Hart.putMBits; split <;> simp
@[simp] theorem Hart.st_putMBits (h : Hart) (r : MReg) (x : MBits) (l : Nat) : (h.putMBits r x l).st = h.st := by
  unfold Hart.putMBits; split <;> simp
@[simp] theorem Hart.pc_putMBits (h : Hart) (r : MReg) (x : MBits) (l : Nat) : (h.putMBits r x l).pc = h.pc := by
  unfold Hart.putMBits; split <;> simp
@[simp] theorem Hart.hctl_putMBits (h : Hart) (r : MReg) (x : MBits) (l : Nat) : (h.putMBits r x l).hctl = h.hctl := by
  unfold Hart.putMBits; split <;> simp
@[simp] theorem Hart.vl_putMBits (h : Hart) (r : MReg) (x : MBits) (l : Nat) : (h.putMBits r x l).vl = h.vl := by
  unfold Hart.putMBits; split <;> simp
@[simp] theorem Hart.vtype_putMBits (h : Hart) (r : MReg) (x : MBits) (l : Nat) : (h.putMBits r x l).vtype = h.vtype := by
  unfold Hart.putMBits; split <;> simp
@[simp] theorem Hart.live_putMBits (h : Hart) (r : MReg) (x : MBits) (l : Nat) : (h.putMBits r x l).live = h.live := by
  unfold Hart.putMBits; split <;> simp
@[simp] theorem Hart.estart_putMBits (h : Hart) (r : MReg) (x : MBits) (l : Nat) : (h.putMBits r x l).estart = h.estart := by
  unfold Hart.putMBits; split <;> simp
@[simp] theorem Hart.lgp_putMBits (h : Hart) (r : MReg) (x : MBits) (l : Nat) : (h.putMBits r x l).lgp = h.lgp := by
  unfold Hart.putMBits; split <;> simp
@[simp] theorem Hart.tcause_putMBits (h : Hart) (r : MReg) (x : MBits) (l : Nat) : (h.putMBits r x l).tcause = h.tcause := by
  unfold Hart.putMBits; split <;> simp
@[simp] theorem Hart.tval_putMBits (h : Hart) (r : MReg) (x : MBits) (l : Nat) : (h.putMBits r x l).tval = h.tval := by
  unfold Hart.putMBits; split <;> simp
@[simp] theorem Hart.tpc_putMBits (h : Hart) (r : MReg) (x : MBits) (l : Nat) : (h.putMBits r x l).tpc = h.tpc := by
  unfold Hart.putMBits; split <;> simp
@[simp] theorem Hart.tpfx_putMBits (h : Hart) (r : MReg) (x : MBits) (l : Nat) : (h.putMBits r x l).tpfx = h.tpfx := by
  unfold Hart.putMBits; split <;> simp
@[simp] theorem Hart.tstat_putMBits (h : Hart) (r : MReg) (x : MBits) (l : Nat) : (h.putMBits r x l).tstat = h.tstat := by
  unfold Hart.putMBits; split <;> simp
@[simp] theorem Hart.fstat_putMBits (h : Hart) (r : MReg) (x : MBits) (l : Nat) : (h.putMBits r x l).fstat = h.fstat := by
  unfold Hart.putMBits; split <;> simp
@[simp] theorem Hart.rng0_putMBits (h : Hart) (r : MReg) (x : MBits) (l : Nat) : (h.putMBits r x l).rng0 = h.rng0 := by
  unfold Hart.putMBits; split <;> simp
@[simp] theorem Hart.rng1_putMBits (h : Hart) (r : MReg) (x : MBits) (l : Nat) : (h.putMBits r x l).rng1 = h.rng1 := by
  unfold Hart.putMBits; split <;> simp
@[simp] theorem Hart.smiss_putMBits (h : Hart) (r : MReg) (x : MBits) (l : Nat) : (h.putMBits r x l).smiss = h.smiss := by
  unfold Hart.putMBits; split <;> simp
@[simp] theorem Hart.smissCopy_putMBits (h : Hart) (r : MReg) (x : MBits) (l : Nat) : (h.putMBits r x l).smissCopy = h.smissCopy := by
  unfold Hart.putMBits; split <;> simp
@[simp] theorem Hart.bdone_putMBits (h : Hart) (r : MReg) (x : MBits) (l : Nat) : (h.putMBits r x l).bdone = h.bdone := by
  unfold Hart.putMBits; split <;> simp
@[simp] theorem Hart.hwm_putMBits (h : Hart) (r : MReg) (x : MBits) (l : Nat) : (h.putMBits r x l).hwm = h.hwm := by
  unfold Hart.putMBits; split <;> simp
@[simp] theorem Hart.lmap_putMBits (h : Hart) (r : MReg) (x : MBits) (l : Nat) : (h.putMBits r x l).lmap = h.lmap := by
  unfold Hart.putMBits; split <;> simp
@[simp] theorem Hart.tvec_putMBits (h : Hart) (r : MReg) (x : MBits) (l : Nat) : (h.putMBits r x l).tvec = h.tvec := by
  unfold Hart.putMBits; split <;> simp
@[simp] theorem Hart.bstp_putMBits (h : Hart) (r : MReg) (x : MBits) (l : Nat) : (h.putMBits r x l).bstp = h.bstp := by
  unfold Hart.putMBits; split <;> simp
@[simp] theorem Hart.scpwin_putMBits (h : Hart) (r : MReg) (x : MBits) (l : Nat) : (h.putMBits r x l).scpwin = h.scpwin := by
  unfold Hart.putMBits; split <;> simp
@[simp] theorem Hart.lent_putMBits (h : Hart) (r : MReg) (x : MBits) (l : Nat) : (h.putMBits r x l).lent = h.lent := by
  unfold Hart.putMBits; split <;> simp
@[simp] theorem Hart.now_putMBits (h : Hart) (r : MReg) (x : MBits) (l : Nat) : (h.putMBits r x l).now = h.now := by
  unfold Hart.putMBits; split <;> simp
@[simp] theorem Hart.stalls_putMBits (h : Hart) (r : MReg) (x : MBits) (l : Nat) : (h.putMBits r x l).stalls = h.stalls := by
  unfold Hart.putMBits; split <;> simp
@[simp] theorem Hart.queue_putMBits (h : Hart) (r : MReg) (x : MBits) (l : Nat) : (h.putMBits r x l).queue = h.queue := by
  unfold Hart.putMBits; split <;> simp
@[simp] theorem Hart.posted_putMBits (h : Hart) (r : MReg) (x : MBits) (l : Nat) : (h.putMBits r x l).posted = h.posted := by
  unfold Hart.putMBits; split <;> simp
@[simp] theorem Hart.banks_putMBits (h : Hart) (r : MReg) (x : MBits) (l : Nat) : (h.putMBits r x l).banks = h.banks := by
  unfold Hart.putMBits; split <;> simp
@[simp] theorem Hart.async_putMBits (h : Hart) (r : MReg) (x : MBits) (l : Nat) : (h.putMBits r x l).async = h.async := by
  unfold Hart.putMBits; split <;> simp
@[simp] theorem Hart.preempt_putMBits (h : Hart) (r : MReg) (x : MBits) (l : Nat) : (h.putMBits r x l).preempt = h.preempt := by
  unfold Hart.putMBits; split <;> simp
@[simp] theorem Hart.asked_putMBits (h : Hart) (r : MReg) (x : MBits) (l : Nat) : (h.putMBits r x l).asked = h.asked := by
  unfold Hart.putMBits; split <;> simp
@[simp] theorem Hart.ahead_putMBits (h : Hart) (r : MReg) (x : MBits) (l : Nat) : (h.putMBits r x l).gathers = h.gathers := by
  unfold Hart.putMBits; split <;> simp
@[simp] theorem Hart.engaged_putMBits (h : Hart) (r : MReg) (x : MBits) (l : Nat) : (h.putMBits r x l).engaged = h.engaged := by
  unfold Hart.putMBits; split <;> simp
@[simp] theorem Hart.floor_putMBits (h : Hart) (r : MReg) (x : MBits) (l : Nat) : (h.putMBits r x l).floor = h.floor := by
  unfold Hart.putMBits; split <;> simp
@[simp] theorem Hart.expired_putMBits (h : Hart) (r : MReg) (x : MBits) (l : Nat) : (h.putMBits r x l).expired = h.expired := by
  unfold Hart.putMBits; split <;> simp
@[simp] theorem Hart.woken_putMBits (h : Hart) (r : MReg) (x : MBits) (l : Nat) : (h.putMBits r x l).woken = h.woken := by
  unfold Hart.putMBits; split <;> simp
@[simp] theorem Hart.asleep_putMBits (h : Hart) (r : MReg) (x : MBits) (l : Nat) : (h.putMBits r x l).asleep = h.asleep := by
  unfold Hart.putMBits; split <;> simp
@[simp] theorem Hart.stop_putMBits (h : Hart) (r : MReg) (x : MBits) (l : Nat) : (h.putMBits r x l).stop = h.stop := by
  unfold Hart.putMBits; split <;> simp
@[simp] theorem Hart.bySave_putMBits (h : Hart) (r : MReg) (x : MBits) (l : Nat) : (h.putMBits r x l).bySave = h.bySave := by
  unfold Hart.putMBits; split <;> simp

@[simp] theorem Hart.byLog_putMBits (h : Hart) (r : MReg) (x : MBits) (l : Nat) : (h.putMBits r x l).byLog = h.byLog := by
  unfold Hart.putMBits; split <;> simp

end Sys2Proof.Machine
end

