-- ==== Sys2Proof/Laws/Registers.lean ====
section
/-! SUPPORT. Laws of register values: what is read after a register is written, and when a fixed-latency result is
there (R12, R29, R30). -/

namespace Sys2Proof.Machine

@[simp] theorem lowMask64_setWidth : (lowMask 64).setWidth 64 = BitVec.allOnes 64 := by
  apply BitVec.eq_of_toNat_eq
  simp only [lowMask, BitVec.toNat_setWidth, BitVec.toNat_ofNat, BitVec.toNat_allOnes]
  rw [Nat.mod_mod_of_dvd _ (Nat.pow_dvd_pow 2 (by norm_num))]
  norm_num

@[simp] theorem putBits_allOnes {n : Nat} (x y : BitVec n) : putBits x (BitVec.allOnes n) y = y := by
  unfold putBits; simp

theorem getLsbD_putBits {n : Nat} (x k y : BitVec n) (i : Nat) :
    (putBits x k y).getLsbD i = if k.getLsbD i then y.getLsbD i else x.getLsbD i := by
  unfold putBits
  by_cases hi : i < n
  · simp only [BitVec.getLsbD_or, BitVec.getLsbD_and, BitVec.getLsbD_not, hi, decide_true, Bool.true_and]
    cases k.getLsbD i <;> simp
  · have h1 := BitVec.getLsbD_of_ge x i (by omega)
    have h2 := BitVec.getLsbD_of_ge y i (by omega)
    have h3 := BitVec.getLsbD_of_ge k i (by omega)
    simp [h1, h2, h3]

@[simp] theorem setWidth_16384_64 (x : Word) : (x.setWidth 16384).setWidth 64 = x := by
  apply BitVec.eq_of_getLsbD_eq; intro i hi
  simp only [BitVec.getLsbD_setWidth]; simp [hi]; omega

@[simp] theorem setWidth_16384_4096 (x : BitVec 4096) : (x.setWidth 16384).setWidth 4096 = x := by
  apply BitVec.eq_of_getLsbD_eq; intro i hi
  simp only [BitVec.getLsbD_setWidth]; simp [hi]; omega

/-! ### Puts -/

@[simp] theorem Hart.getA_zero (h : Hart) : h.getA 0#5 = 0 := rfl

/-- A whole scalar register put is what is read, but for `a0` (R12). -/
theorem Hart.getA_put_same (h : Hart) (r : Reg) (x : Word) :
    (h.put (.a r) (lowMask 64) (x.setWidth 16384)).getA r = if r = 0 then 0 else x := by
  unfold Hart.put Hart.getA
  split
  · rfl
  · rename_i hr
    simp only [if_neg hr, lowMask64_setWidth, putBits_allOnes, setWidth_16384_64, Vector.getElem_set_self]

theorem Hart.getA_put_ne (h : Hart) {r q : Reg} (k x : BitVec 16384) (hq : q ≠ r) :
    (h.put (.a r) k x).getA q = h.getA q := by
  have : r.toNat ≠ q.toNat := fun e => hq (BitVec.eq_of_toNat_eq e.symm)
  unfold Hart.put Hart.getA
  dsimp only
  split
  · rfl
  · split
    · rfl
    · simp [this]

@[simp] theorem Hart.getA_put_v (h : Hart) (r q : Reg) (k x : BitVec 16384) : (h.put (.v r) k x).getA q = h.getA q := rfl
@[simp] theorem Hart.getA_put_m (h : Hart) (r : MReg) (q : Reg) (k x : BitVec 16384) :
    (h.put (.m r) k x).getA q = h.getA q := rfl
@[simp] theorem Hart.v_put_a (h : Hart) (r : Reg) (k x : BitVec 16384) : (h.put (.a r) k x).v = h.v := by
  unfold Hart.put; dsimp only; split <;> rfl
@[simp] theorem Hart.m_put_a (h : Hart) (r : Reg) (k x : BitVec 16384) : (h.put (.a r) k x).m = h.m := by
  unfold Hart.put; dsimp only; split <;> rfl
@[simp] theorem Hart.v_put_m (h : Hart) (r : MReg) (k x : BitVec 16384) : (h.put (.m r) k x).v = h.v := rfl
@[simp] theorem Hart.m_put_v (h : Hart) (r : Reg) (k x : BitVec 16384) : (h.put (.v r) k x).m = h.m := rfl
@[simp] theorem Hart.a_put_v (h : Hart) (r : Reg) (k x : BitVec 16384) : (h.put (.v r) k x).a = h.a := rfl
@[simp] theorem Hart.a_put_m (h : Hart) (r : MReg) (k x : BitVec 16384) : (h.put (.m r) k x).a = h.a := rfl

theorem Hart.getV_put_same (h : Hart) (r : Reg) (k x : BitVec 16384) :
    (h.put (.v r) k x).getV r = putBits (h.getV r) k x := by simp [Hart.put, Hart.getV]
theorem Hart.getV_put_ne (h : Hart) {r q : Reg} (k x : BitVec 16384) (hq : q ≠ r) :
    (h.put (.v r) k x).getV q = h.getV q := by
  have : r.toNat ≠ q.toNat := fun e => hq (BitVec.eq_of_toNat_eq e.symm)
  simp [Hart.put, Hart.getV, this]
theorem Hart.getM_put_same (h : Hart) (r : MReg) (k x : BitVec 4096) :
    (h.put (.m r) (k.setWidth 16384) (x.setWidth 16384)).getM r = putBits (h.getM r) k x := by
  simp [Hart.put, Hart.getM]
theorem Hart.getM_put_ne (h : Hart) {r q : MReg} (k x : BitVec 16384) (hq : q ≠ r) :
    (h.put (.m r) k x).getM q = h.getM q := by
  have : r.toNat ≠ q.toNat := fun e => hq (BitVec.eq_of_toNat_eq e.symm)
  simp [Hart.put, Hart.getM, this]

theorem Hart.getA_pend (h : Hart) (p : List Pend) (r : Reg) : ({ h with pend := p } : Hart).getA r = h.getA r := rfl
theorem Hart.getV_pend (h : Hart) (p : List Pend) (r : Reg) : ({ h with pend := p } : Hart).getV r = h.getV r := rfl
theorem Hart.getM_pend (h : Hart) (p : List Pend) (r : MReg) : ({ h with pend := p } : Hart).getM r = h.getM r := rfl

/-! ### Writes of latency 1 or less: readable by the next instruction (R29) -/

theorem Hart.getA_setA_same (h : Hart) (r : Reg) (x : Word) {l : Nat} (hl : l ≤ 1) :
    (h.setA r x l).getA r = if r = 0 then 0 else x := by
  unfold Hart.setA
  by_cases hr : r = 0
  · simp [hr]
  · simp only [hr, if_false, Hart.write, hl, if_true, Hart.getA_pend, Hart.getA_put_same]

/-- A scalar register that is not written keeps its value, whatever the latency. -/
theorem Hart.getA_setA_ne (h : Hart) {r q : Reg} (x : Word) (l : Nat) (hq : q ≠ r) :
    (h.setA r x l).getA q = h.getA q := by
  unfold Hart.setA Hart.write
  by_cases hr : r = 0
  · simp [hr]
  · simp only [hr, if_false]
    split
    · simp only [Hart.getA_pend, Hart.getA_put_ne _ _ _ hq]
    · rfl

/-- A result of latency 2 or more is not in its register yet. -/
theorem Hart.getA_setA_late (h : Hart) (r q : Reg) (x : Word) {l : Nat} (hl : 1 < l) :
    (h.setA r x l).getA q = h.getA q := by
  unfold Hart.setA Hart.write
  split
  · rfl
  · rw [if_neg (by omega)]; rfl

@[simp] theorem Hart.v_setA (h : Hart) (r : Reg) (x : Word) (l : Nat) : (h.setA r x l).v = h.v := by
  unfold Hart.setA Hart.write; split
  · rfl
  · split <;> simp
@[simp] theorem Hart.m_setA (h : Hart) (r : Reg) (x : Word) (l : Nat) : (h.setA r x l).m = h.m := by
  unfold Hart.setA Hart.write; split
  · rfl
  · split <;> simp
@[simp] theorem Hart.getV_setA (h : Hart) (r q : Reg) (x : Word) (l : Nat) : (h.setA r x l).getV q = h.getV q := by
  simp [Hart.getV]
@[simp] theorem Hart.getM_setA (h : Hart) (r : Reg) (q : MReg) (x : Word) (l : Nat) :
    (h.setA r x l).getM q = h.getM q := by simp [Hart.getM]

theorem Hart.a_write_v (h : Hart) (r : Reg) (k x : BitVec 16384) (l : Nat) : (h.write (.v r) k x l).a = h.a := by
  unfold Hart.write; split <;> simp
theorem Hart.a_write_m (h : Hart) (r : MReg) (k x : BitVec 16384) (l : Nat) : (h.write (.m r) k x l).a = h.a := by
  unfold Hart.write; split <;> simp
@[simp] theorem Hart.getA_write_v (h : Hart) (r q : Reg) (k x : BitVec 16384) (l : Nat) :
    (h.write (.v r) k x l).getA q = h.getA q := by simp [Hart.getA, Hart.a_write_v]
@[simp] theorem Hart.getA_write_m (h : Hart) (r : MReg) (q : Reg) (k x : BitVec 16384) (l : Nat) :
    (h.write (.m r) k x l).getA q = h.getA q := by simp [Hart.getA, Hart.a_write_m]
@[simp] theorem Hart.getA_mark (h : Hart) (r q : Reg) (n : Nat) : (h.mark r n).getA q = h.getA q := rfl
@[simp] theorem Hart.getA_flag (h : Hart) (f : BitVec 8) (q : Reg) : (h.flag f).getA q = h.getA q := rfl
@[simp] theorem Hart.getA_progress0 (h : Hart) (q : Reg) : h.progress0.getA q = h.getA q := rfl
@[simp] theorem Hart.getA_progressAt (h : Hart) (k : Nat) (q : Reg) : (h.progressAt k).getA q = h.getA q := rfl
@[simp] theorem Hart.getV_mark (h : Hart) (r q : Reg) (n : Nat) : (h.mark r n).getV q = h.getV q := rfl
@[simp] theorem Hart.getV_flag (h : Hart) (f : BitVec 8) (q : Reg) : (h.flag f).getV q = h.getV q := rfl
@[simp] theorem Hart.getV_progress0 (h : Hart) (q : Reg) : h.progress0.getV q = h.getV q := rfl
@[simp] theorem Hart.getM_mark (h : Hart) (r : Reg) (q : MReg) (n : Nat) : (h.mark r n).getM q = h.getM q := rfl
@[simp] theorem Hart.getM_flag (h : Hart) (f : BitVec 8) (q : MReg) : (h.flag f).getM q = h.getM q := rfl
@[simp] theorem Hart.getM_progress0 (h : Hart) (q : MReg) : h.progress0.getM q = h.getM q := rfl
@[simp] theorem Hart.getA_putLanes (h : Hart) (r q : Reg) (x : Lanes) (l : Nat) : (h.putLanes r x l).getA q = h.getA q := by
  unfold Hart.putLanes; split <;> simp
@[simp] theorem Hart.getA_setM (h : Hart) (r : MReg) (q : Reg) (k x : BitVec 4096) (l : Nat) :
    (h.setM r k x l).getA q = h.getA q := by simp [Hart.setM]
@[simp] theorem Hart.getA_putMBits (h : Hart) (r : MReg) (q : Reg) (x : MBits) (l : Nat) :
    (h.putMBits r x l).getA q = h.getA q := by
  unfold Hart.putMBits; split <;> simp

/-! ### Settling (R29, R30) -/

@[simp] theorem Hart.settle_nil (h : Hart) (t : Nat) (hp : h.pend = []) : h.settle t = h := by
  unfold Hart.settle; rw [hp]; unfold settleFrom; cases h; simp_all

theorem Hart.put_pend (h : Hart) (l : List Pend) (d : Dst) (k x : BitVec 16384) :
    ({ h with pend := l } : Hart).put d k x = { h.put d k x with pend := l } := by
  unfold Hart.put; split <;> (try split) <;> rfl

theorem settleFrom_append (t : Nat) (ps : List Pend) (q : Pend) (h : Hart) (ks : List Pend) :
    settleFrom t (ps ++ [q]) h ks =
      if q.ready ≤ t then
        { (settleFrom t ps h ks).put q.dst q.mask q.val with
          pend := (settleFrom t ps h ks).pend.map (Pend.cut q.dst q.mask) }
      else { settleFrom t ps h ks with pend := (settleFrom t ps h ks).pend ++ [q] } := by
  induction ps generalizing h ks with
  | nil =>
    rw [List.nil_append, settleFrom, settleFrom, settleFrom, settleFrom]
    split
    · exact congrArg (fun k : Hart => { k with pend := ks.map (Pend.cut q.dst q.mask) }) (Hart.put_pend h ks _ _ _).symm
    · rfl
  | cons p ps ih =>
    rw [List.cons_append, settleFrom, settleFrom]
    by_cases hp : p.ready ≤ t
    · rw [if_pos hp, if_pos hp, ih]
    · rw [if_neg hp, if_neg hp, ih]

theorem settleFrom_pend (t : Nat) (ps : List Pend) (h : Hart) (ks l : List Pend) :
    settleFrom t ps { h with pend := l } ks = settleFrom t ps h ks := by
  induction ps generalizing h ks with
  | nil => rfl
  | cons p ps ih =>
    rw [settleFrom, settleFrom]
    by_cases hp : p.ready ≤ t
    · rw [if_pos hp, if_pos hp, Hart.put_pend h l, ih]
    · rw [if_neg hp, if_neg hp, ih]

/-- A result of latency `l` is in its register from cycle `now + l` on: it is the last in program order. -/
theorem Hart.settle_write (h : Hart) (d : Dst) (k x : BitVec 16384) {l t : Nat} (hl : 1 < l) (ht : h.now + l ≤ t) :
    (h.write d k x l).settle t =
      { (h.settle t).put d k x with pend := (h.settle t).pend.map (Pend.cut d k) } := by
  unfold Hart.write Hart.settle
  rw [if_neg (by omega)]
  simp only [settleFrom_pend]
  rw [settleFrom_append, if_pos ht]

/-- A scalar result of latency `l` is read from cycle `now + l` on (R29). -/
theorem Hart.getA_settle_setA (h : Hart) (r : Reg) (x : Word) {l t : Nat} (hl : 1 < l) (ht : h.now + l ≤ t) :
    ((h.setA r x l).settle t).getA r = if r = 0 then 0 else x := by
  unfold Hart.setA
  by_cases hr : r = 0
  · simp [hr]
  · rw [if_neg hr, Hart.settle_write _ _ _ _ hl ht, Hart.getA_pend, Hart.getA_put_same]

/-- A vector result of latency `l` is read from cycle `now + l` on (R29). -/
theorem Hart.getV_settle_write (h : Hart) (r : Reg) (k x : BitVec 16384) {l t : Nat} (hl : 1 < l)
    (ht : h.now + l ≤ t) : ((h.write (.v r) k x l).settle t).getV r = putBits ((h.settle t).getV r) k x := by
  rw [Hart.settle_write _ _ _ _ hl ht, Hart.getV_pend, Hart.getV_put_same]

/-- A mask result of latency `l` is read from cycle `now + l` on (R29). -/
theorem Hart.getM_settle_setM (h : Hart) (r : MReg) (k x : BitVec 4096) {l t : Nat} (hl : 1 < l)
    (ht : h.now + l ≤ t) : ((h.setM r k x l).settle t).getM r = putBits ((h.settle t).getM r) k x := by
  unfold Hart.setM
  rw [Hart.settle_write _ _ _ _ hl ht, Hart.getM_pend, Hart.getM_put_same]


/-! ### Puts in another order -/

theorem putBits_putBits {n : Nat} (x k y l z : BitVec n) :
    putBits (putBits x k y) (l &&& ~~~k) z = putBits (putBits x l z) k y := by
  apply BitVec.eq_of_getLsbD_eq; intro i hi
  simp only [getLsbD_putBits, BitVec.getLsbD_and, BitVec.getLsbD_not, hi, decide_true, Bool.true_and]
  cases k.getLsbD i <;> cases l.getLsbD i <;> rfl

theorem setWidth_cut {n m : Nat} (l k : BitVec n) (h : m ≤ n) :
    (l &&& ~~~k).setWidth m = l.setWidth m &&& ~~~(k.setWidth m) := by
  apply BitVec.eq_of_getLsbD_eq; intro i hi
  have : i < n := by omega
  simp [hi, this]

@[simp] theorem Pend.ready_cut (d : Dst) (k : BitVec 16384) (p : Pend) : (p.cut d k).ready = p.ready := by
  unfold Pend.cut; split <;> rfl
@[simp] theorem Pend.dst_cut (d : Dst) (k : BitVec 16384) (p : Pend) : (p.cut d k).dst = p.dst := by
  unfold Pend.cut; split <;> rfl
@[simp] theorem Pend.val_cut (d : Dst) (k : BitVec 16384) (p : Pend) : (p.cut d k).val = p.val := by
  unfold Pend.cut; split <;> rfl

/-- A put after another may come before it where it leaves the other's bits alone. -/
theorem Hart.put_put (h : Hart) (d : Dst) (k x : BitVec 16384) (p : Pend) :
    (h.put d k x).put p.dst (p.cut d k).mask p.val = (h.put p.dst p.mask p.val).put d k x := by
  obtain ⟨e, l, z, r⟩ := p
  by_cases hde : e = d
  · subst hde
    have hc : (Pend.cut e k ⟨e, l, z, r⟩).mask = l &&& ~~~k := by simp [Pend.cut]
    rw [hc]
    cases e with
    | a r =>
      by_cases hr : r = 0
      · simp [Hart.put, hr]
      · simp only [Hart.put, hr, if_false, Vector.getElem_set_self, Vector.set_set, setWidth_cut _ _ (show 64 ≤ 16384 by omega),
          putBits_putBits]
    | v r => simp only [Hart.put, Vector.getElem_set_self, Vector.set_set, putBits_putBits]
    | m r =>
      simp only [Hart.put, Vector.getElem_set_self, Vector.set_set, setWidth_cut _ _ (show 4096 ≤ 16384 by omega),
        putBits_putBits]
  · have hc : (Pend.cut d k ⟨e, l, z, r⟩).mask = l := by simp [Pend.cut, hde]
    rw [hc]
    cases e with
    | a r =>
      cases d with
      | a q =>
        have hrq : r.toNat ≠ q.toNat := fun h => hde (congrArg Dst.a (BitVec.eq_of_toNat_eq h))
        by_cases hr : r = 0 <;> by_cases hq : q = 0 <;> simp only [Hart.put, hr, hq, if_true, if_false]
        rw [Vector.set_comm _ _ hrq]
        simp [hrq, Ne.symm hrq]
      | v q => unfold Hart.put; dsimp only; split <;> rfl
      | m q => unfold Hart.put; dsimp only; split <;> rfl
    | v r =>
      cases d with
      | a q => unfold Hart.put; dsimp only; split <;> rfl
      | v q =>
        have hrq : r.toNat ≠ q.toNat := fun h => hde (congrArg Dst.v (BitVec.eq_of_toNat_eq h))
        simp only [Hart.put]
        rw [Vector.set_comm _ _ hrq]
        simp [hrq, Ne.symm hrq]
      | m q => rfl
    | m r =>
      cases d with
      | a q => unfold Hart.put; dsimp only; split <;> rfl
      | v q => rfl
      | m q =>
        have hrq : r.toNat ≠ q.toNat := fun h => hde (congrArg Dst.m (BitVec.eq_of_toNat_eq h))
        simp only [Hart.put]
        rw [Vector.set_comm _ _ hrq]
        simp [hrq, Ne.symm hrq]

theorem Pend.cut_cut (d : Dst) (k : BitVec 16384) (p q : Pend) :
    (q.cut d k).cut p.dst (p.cut d k).mask = (q.cut p.dst p.mask).cut d k := by
  obtain ⟨e, l, z, r⟩ := p
  obtain ⟨f, n, y, u⟩ := q
  simp only [Pend.cut]
  by_cases h1 : f = d <;> by_cases h2 : f = e <;> by_cases h3 : e = d <;> simp_all
  apply BitVec.eq_of_getLsbD_eq; intro i hi
  simp only [BitVec.getLsbD_and, BitVec.getLsbD_not, hi, decide_true, Bool.true_and]
  cases n.getLsbD i <;> cases k.getLsbD i <;> cases l.getLsbD i <;> rfl

/-- Pending results settle around a later put as if it came after them. -/
theorem settleFrom_put (t : Nat) (ps ks : List Pend) (h : Hart) (d : Dst) (k x : BitVec 16384) :
    settleFrom t (ps.map (Pend.cut d k)) (h.put d k x) (ks.map (Pend.cut d k)) =
      { (settleFrom t ps h ks).put d k x with pend := (settleFrom t ps h ks).pend.map (Pend.cut d k) } := by
  induction ps generalizing h ks with
  | nil =>
    rw [List.map_nil, settleFrom, settleFrom]
    exact congrArg (fun h : Hart => { h with pend := ks.map (Pend.cut d k) }) (Hart.put_pend h ks _ _ _).symm
  | cons p ps ih =>
    rw [List.map_cons, settleFrom, settleFrom, Pend.ready_cut, Pend.dst_cut, Pend.val_cut]
    by_cases hp : p.ready ≤ t
    · rw [if_pos hp, if_pos hp, Hart.put_put, ← ih]
      congr 1
      simp only [List.map_map]
      exact List.map_congr_left (fun q _ => Pend.cut_cut d k p q)
    · rw [if_neg hp, if_neg hp, ← ih]
      simp

/-- A result of latency 1 is in its register for every later instruction (R29). -/
theorem Hart.settle_write_now (h : Hart) (d : Dst) (k x : BitVec 16384) {l : Nat} (t : Nat) (hl : l ≤ 1) :
    (h.write d k x l).settle t =
      { (h.settle t).put d k x with pend := (h.settle t).pend.map (Pend.cut d k) } := by
  unfold Hart.write Hart.settle
  rw [if_pos hl]
  have := settleFrom_put t h.pend [] h d k x
  rw [List.map_nil] at this
  dsimp only
  rw [settleFrom_pend, this]

/-- Settling in two stages is settling once (R30). -/
theorem Hart.settle_settle (h : Hart) {t u : Nat} (htu : t ≤ u) : (h.settle t).settle u = h.settle u := by
  unfold Hart.settle
  suffices H : ∀ ps : List Pend, settleFrom u (settleFrom t ps h []).pend (settleFrom t ps h []) [] = settleFrom u ps h [] by
    exact H h.pend
  intro ps
  induction ps using List.reverseRecOn with
  | nil => simp only [settleFrom, settleFrom_pend]
  | append_singleton ps q ih =>
    rw [settleFrom_append, settleFrom_append]
    by_cases hq : q.ready ≤ t
    · rw [if_pos hq, if_pos (le_trans hq htu)]
      dsimp only
      rw [settleFrom_pend]
      have := settleFrom_put u (settleFrom t ps h []).pend [] (settleFrom t ps h []) q.dst q.mask q.val
      rw [List.map_nil] at this
      rw [this, ih]
    · rw [if_neg hq]
      dsimp only
      rw [settleFrom_pend, settleFrom_append, ih]

/-- A write leaves every other register, at every cycle, as it would have been. -/
theorem Hart.settle_write_other (h : Hart) (d : Dst) (k x : BitVec 16384) (l t : Nat) :
    ∃ ps, (h.write d k x l).settle t = { h.settle t with pend := ps } ∨
      (h.write d k x l).settle t = { (h.settle t).put d k x with pend := ps } := by
  by_cases hl : l ≤ 1
  · exact ⟨_, .inr (Hart.settle_write_now h d k x t hl)⟩
  · by_cases ht : h.now + l ≤ t
    · exact ⟨_, .inr (Hart.settle_write h d k x (by omega) ht)⟩
    · refine ⟨(h.settle t).pend ++ [{ dst := d, mask := k, val := x, ready := h.now + l }], .inl ?_⟩
      unfold Hart.write Hart.settle
      rw [if_neg hl]
      dsimp only
      rw [settleFrom_pend, settleFrom_append, if_neg ht]

theorem Hart.getA_settle_write_v (h : Hart) (r q : Reg) (k x : BitVec 16384) (l t : Nat) :
    ((h.write (.v r) k x l).settle t).getA q = (h.settle t).getA q := by
  obtain ⟨ps, h1 | h1⟩ := Hart.settle_write_other h (.v r) k x l t <;> rw [h1, Hart.getA_pend] <;> simp
theorem Hart.getA_settle_write_m (h : Hart) (r : MReg) (q : Reg) (k x : BitVec 16384) (l t : Nat) :
    ((h.write (.m r) k x l).settle t).getA q = (h.settle t).getA q := by
  obtain ⟨ps, h1 | h1⟩ := Hart.settle_write_other h (.m r) k x l t <;> rw [h1, Hart.getA_pend] <;> simp
theorem Hart.getV_settle_write_m (h : Hart) (r : MReg) (q : Reg) (k x : BitVec 16384) (l t : Nat) :
    ((h.write (.m r) k x l).settle t).getV q = (h.settle t).getV q := by
  obtain ⟨ps, h1 | h1⟩ := Hart.settle_write_other h (.m r) k x l t <;> rw [h1, Hart.getV_pend] <;> simp [Hart.getV]
theorem Hart.getV_settle_write_ne (h : Hart) {r q : Reg} (k x : BitVec 16384) (l t : Nat) (hq : q ≠ r) :
    ((h.write (.v r) k x l).settle t).getV q = (h.settle t).getV q := by
  obtain ⟨ps, h1 | h1⟩ := Hart.settle_write_other h (.v r) k x l t <;> rw [h1, Hart.getV_pend]
  rw [Hart.getV_put_ne _ _ _ hq]
theorem Hart.getM_settle_write_v (h : Hart) (r : Reg) (q : MReg) (k x : BitVec 16384) (l t : Nat) :
    ((h.write (.v r) k x l).settle t).getM q = (h.settle t).getM q := by
  obtain ⟨ps, h1 | h1⟩ := Hart.settle_write_other h (.v r) k x l t <;> rw [h1, Hart.getM_pend] <;> simp [Hart.getM]
theorem Hart.getM_settle_write_ne (h : Hart) {r q : MReg} (k x : BitVec 16384) (l t : Nat) (hq : q ≠ r) :
    ((h.write (.m r) k x l).settle t).getM q = (h.settle t).getM q := by
  obtain ⟨ps, h1 | h1⟩ := Hart.settle_write_other h (.m r) k x l t <;> rw [h1, Hart.getM_pend]
  rw [Hart.getM_put_ne _ _ _ hq]

theorem Hart.getA_settle_setA_ne (h : Hart) {r q : Reg} (x : Word) (l t : Nat) (hq : q ≠ r) :
    ((h.setA r x l).settle t).getA q = (h.settle t).getA q := by
  unfold Hart.setA
  split
  · rfl
  · obtain ⟨ps, h1 | h1⟩ := Hart.settle_write_other h (.a r) (lowMask 64) (x.setWidth 16384) l t <;>
      rw [h1, Hart.getA_pend]
    rw [Hart.getA_put_ne _ _ _ hq]
theorem Hart.getV_settle_setA (h : Hart) (r q : Reg) (x : Word) (l t : Nat) :
    ((h.setA r x l).settle t).getV q = (h.settle t).getV q := by
  unfold Hart.setA
  split
  · rfl
  · obtain ⟨ps, h1 | h1⟩ := Hart.settle_write_other h (.a r) (lowMask 64) (x.setWidth 16384) l t <;>
      rw [h1, Hart.getV_pend]
    simp [Hart.getV]
theorem Hart.getM_settle_setA (h : Hart) (r : Reg) (q : MReg) (x : Word) (l t : Nat) :
    ((h.setA r x l).settle t).getM q = (h.settle t).getM q := by
  unfold Hart.setA
  split
  · rfl
  · obtain ⟨ps, h1 | h1⟩ := Hart.settle_write_other h (.a r) (lowMask 64) (x.setWidth 16384) l t <;>
      rw [h1, Hart.getM_pend]
    simp [Hart.getM]

/-- Every instruction issued `l` cycles after this one or later reads what it wrote (R29). -/
theorem Hart.getA_settle_setA_at (h : Hart) (r : Reg) (x : Word) {l t : Nat} (ht : h.now + l ≤ t) :
    ((h.setA r x l).settle t).getA r = if r = 0 then 0 else x := by
  by_cases hl : l ≤ 1
  · unfold Hart.setA
    by_cases hr : r = 0
    · simp [hr]
    · rw [if_neg hr, Hart.settle_write_now _ _ _ _ _ hl, Hart.getA_pend, Hart.getA_put_same]
  · exact Hart.getA_settle_setA h r x (by omega) ht

/-- The same of a vector register. -/
theorem Hart.getV_settle_write_at (h : Hart) (r : Reg) (k x : BitVec 16384) {l t : Nat} (ht : h.now + l ≤ t) :
    ((h.write (.v r) k x l).settle t).getV r = putBits ((h.settle t).getV r) k x := by
  by_cases hl : l ≤ 1
  · rw [Hart.settle_write_now _ _ _ _ _ hl, Hart.getV_pend, Hart.getV_put_same]
  · exact Hart.getV_settle_write h r k x (by omega) ht

/-- The same of a mask register. -/
theorem Hart.getM_settle_setM_at (h : Hart) (r : MReg) (k x : BitVec 4096) {l t : Nat} (ht : h.now + l ≤ t) :
    ((h.setM r k x l).settle t).getM r = putBits ((h.settle t).getM r) k x := by
  by_cases hl : l ≤ 1
  · unfold Hart.setM
    rw [Hart.settle_write_now _ _ _ _ _ hl, Hart.getM_pend, Hart.getM_put_same]
  · exact Hart.getM_settle_setM h r k x (by omega) ht

end Sys2Proof.Machine
end

