-- ==== Sys2Proof/Laws/Issue.lean ====
section
/-! SUPPORT. Laws of issue: when a form issues, what it comes to, and what retirement, a trap and a stop leave. Later
proofs cite these and do not unfold `run`. -/

namespace Sys2Proof.Machine

/-! ### What an instruction sees -/

@[simp] theorem State.me_seen (s : State) : s.seen.me = s.me.settle s.me.now := by simp [State.seen]
@[simp] theorem State.cur_seen (s : State) : s.seen.cur = s.cur := rfl
@[simp] theorem State.mem_seen (s : State) : s.seen.mem = s.mem := rfl
@[simp] theorem State.word_seen (s : State) : s.seen.word = s.word := rfl
@[simp] theorem State.clusters_seen (s : State) : s.seen.clusters = s.clusters := rfl
@[simp] theorem State.parts_seen (s : State) : s.seen.parts = s.parts := rfl
@[simp] theorem State.free_seen (s : State) : s.seen.free = s.free := rfl
@[simp] theorem State.badSram_seen (s : State) : s.seen.badSram = s.badSram := rfl
@[simp] theorem State.mtime_seen (s : State) : s.seen.mtime = s.mtime := rfl
@[simp] theorem State.myFast_seen (s : State) : s.seen.myFast = s.myFast := rfl
@[simp] theorem State.myCluster_seen (s : State) : s.seen.myCluster = s.myCluster := rfl
@[simp] theorem State.cluster_seen (s : State) (c : Nat) : s.seen.cluster c = s.cluster c := rfl
theorem State.hart_seen_ne (s : State) {i : Nat} (h : i ≠ s.cur) : s.seen.hart i = s.hart i := by
  simp [State.seen, h]

/-! ### The checks of issue (R35) -/

theorem firstWaiting_eq_none {h : Hart} {ds : List Dst} (hw : ∀ d ∈ ds, h.waits d = false) : firstWaiting h ds = none := by
  induction ds with
  | nil => rfl
  | cons d ds ih => simp [firstWaiting, hw d (by simp), ih (fun e he => hw e (by simp [he]))]

theorem State.srcBad_mono {s : State} {ds es : List Dst} (h : s.srcBad es = false) (hsub : ∀ d ∈ ds, d ∈ es) :
    s.srcBad ds = false := by
  unfold State.srcBad at *
  rw [List.any_eq_false] at *
  intro l hl hbad
  apply h l hl
  cases l <;> simp only [Bool.and_eq_true, List.any_eq_true] at hbad ⊢ <;>
    first
    | (obtain ⟨h1, d, hd, h2⟩ := hbad; exact ⟨h1, d, hsub d hd, h2⟩)
    | exact hbad

/-- Registers that hold no error raise none at issue (R367). -/
theorem State.eccAtIssue_of_sound {s : State} {i : Info} {act : BitVec 4096} {pr srcs : List Dst}
    (h : s.srcBad (pr ++ srcs) = false) : s.eccAtIssue i act pr srcs = false := by
  simp [State.eccAtIssue, h]

/-- The registers that a form reads at issue when nothing is lent: the predicate of its p field and its sources. -/
def Info.reads (i : Info) : List Dst := (fieldPred i).toList.map (fun p => Dst.m p.1) ++ i.srcs

/-- With nothing lent, a form whose conditions hold passes the checks of issue. -/
theorem issueCheck_of_clear {i : Info} {s : State} {srcs : List Dst} (hc : Clear s srcs)
    (hsub : ∀ d ∈ i.reads, d ∈ srcs) (hon : i.on.holds s.cur = true) (hvec : i.vec = true → s.me.vbad = false)
    (hcsr : i.illCsr = false) (hill : i.ill = false) (hpriv : i.priv = true → s.me.priv = true) :
    issueCheck i s.seen = none := by
  have hl : s.seen.me.lent = none := by simpa using hc.plain
  have hv : (i.vec && s.seen.me.vbad) = false := by
    cases hi : i.vec
    · rfl
    · simpa [Hart.vbad] using hvec hi
  have hp : (i.priv && !s.seen.me.priv) = false := by
    cases hi : i.priv
    · rfl
    · simpa [Hart.priv] using hpriv hi
  have hpred : predOf i s.seen.me = fieldPred i := by simp only [predOf, hl]
  have hw : ∀ ds : List Dst, (∀ d ∈ ds, d ∈ i.reads) →
      (if s.seen.me.chk = true then firstWaiting s.seen.me ds else none) = none ∧ s.seen.srcBad ds = false := by
    refine fun ds hds => ⟨?_, State.srcBad_mono hc.read.sound (fun d hd => hsub d (hds d hd))⟩
    split
    · exact firstWaiting_eq_none (fun d hd => hc.read.ready ‹_› d (hsub d (hds d hd)))
    · rfl
  have h1 := hw ((fieldPred i).toList.map (fun p => Dst.m p.1)) (fun d hd => by simp [Info.reads, List.mem_append]; left; simpa using hd)
  have h2 := hw i.reads (fun _ hd => hd)
  unfold issueCheck
  simp only [hl, Bool.false_eq_true, if_false, State.cur_seen, hon, Bool.not_true, Bool.false_or, hv, hcsr, hill,
    Bool.false_and, hp, hpred]
  by_cases hsk : skipped i s.seen.me = true
  · simp only [hsk, if_true, h1.1, List.drop_length]
    rw [State.eccAtIssue_of_sound (by simpa using h1.2)]
    rfl
  · unfold Info.reads at h2
    simp only [hsk, Bool.false_eq_true, if_false, h2.1, List.drop_left]
    rw [State.eccAtIssue_of_sound h2.2]
    rfl

/-- With nothing lent, a form without a p field is never passed over. -/
theorem skipped_of_clear {i : Info} {h : Hart} (hl : h.lent = none) (hp : i.lending = .whole → i.pred = none) :
    skipped i h = false := by
  unfold skipped
  cases hi : i.lending
  · rfl
  · have h0 : predOf i h = none := by simp only [predOf, hl, fieldPred, hp hi]
    have h1 : (BitVec.allOnes 4096).getLsbD 0 = true := by
      rw [BitVec.getLsbD_allOnes]; decide
    simp only [activeMask, h0, h1]
    decide
  · rfl

/-- A form that passes its checks comes to what its body says. -/
theorem issue_of_check {i : Info} {s : State} {body : State → Res} (hc : issueCheck i s.seen = none)
    (hs : skipped i s.seen.me = false) : issue i s body = settleRes i s.seen (body s.seen) := by
  unfold State.seen at *
  simp only [issue, hc, hs]
  rfl

/-- A form that fails a check of issue takes its trap with nothing else done (R35, R71). -/
theorem issue_trap {i : Info} {s : State} {body : State → Res} {x : IssueTrap} (hc : issueCheck i s.seen = some x)
    (hx : x.atPrefix = false) :
    issue i s body = s.seen.raise s.seen x.cause x.tval s.seen.me.pc s.seen.me.lent s.seen.me.midway := by
  unfold State.seen at *
  simp only [issue, hc, hx, Bool.false_eq_true, if_false]

/-- A cause is taken where the hart's trap slot has been exchanged (R103, R338). -/
theorem State.raise_of_home {s s0 : State} {c : Cause} {v p : Word} {l : Option Lent} {m : Bool}
    (h : s.slotAway s.cur = false) : s.raise s0 c v p l m = s.takeTrap s.cur c v p l m := by
  simp [State.raise, h]

/-! ### Retirement (R29, R69) -/

/-- The hart after retirement, when nothing is lent and no divergence has halted it. -/
theorem State.me_retire {u : State} {i : Info} {c : Bool} {pc : Word} (hl : u.me.lent = none)
    (hs : u.me.status ≠ .halted) :
    (u.retire i c pc).me = { u.me with
      status := .running, lent := none, pc := pc, now := u.me.now + 1 + i.wt.toNat, asleep := false, woken := false,
      floor := 0 } := by
  unfold State.retire Hart.goes
  simp only [hl, State.me_setMe, if_neg hs]

theorem State.cur_retire (u : State) (i : Info) (c : Bool) (pc : Word) : (u.retire i c pc).cur = u.cur := by
  unfold State.retire; split <;> rfl

theorem State.hart_retire_ne (u : State) (i : Info) (c : Bool) (pc : Word) {j : Nat} (hj : j ≠ u.cur) :
    (u.retire i c pc).hart j = u.hart j := by
  unfold State.retire
  split <;> simp [State.setMe, State.setHart, State.hart, hj]

/-- Retirement changes nothing outside the hart but register granules that it heals. -/
theorem State.rest_retire (u : State) (i : Info) (c : Bool) (pc : Word) :
    u.retire i c pc = { u with harts := (u.retire i c pc).harts, badSram := (u.retire i c pc).badSram } := by
  unfold State.retire
  split <;> rfl

theorem healBits_sub (id : Nat) (d : Dst) (m : BitVec 16384) (l : List SramLoc) : ∀ x, x ∈ healBits id d m l → x ∈ l :=
  fun _ hx => (List.mem_filter.mp hx).1

theorem healPend_sub (id : Nat) (ps : List Pend) : ∀ (l : List SramLoc) (x : SramLoc),
    x ∈ ps.foldl (fun l p => healBits id p.dst p.mask l) l → x ∈ l := by
  induction ps with
  | nil => exact fun _ _ hx => hx
  | cons p ps ih => exact fun l x hx => healBits_sub _ _ _ l x (ih _ x hx)

theorem healReg_sub (id : Nat) (d : Option Dst) (ps : List Pend) (l : List SramLoc) : ∀ x, x ∈ healReg id d ps l → x ∈ l := by
  have h : ∀ (k : List SramLoc) (x : SramLoc), x ∈ (if k.isEmpty then k else ps.foldl (fun l p => healBits id p.dst p.mask l) k) → x ∈ k := by
    intro k x hx
    split at hx
    · exact hx
    · exact healPend_sub id ps k x hx
  intro x hx
  unfold healReg at hx
  split at hx
  · exact healBits_sub _ _ _ l x (h _ x hx)
  · exact h _ x hx

theorem State.bad_retire (u : State) (i : Info) (c : Bool) (pc : Word) :
    ∀ l, l ∈ (u.retire i c pc).badSram → l ∈ u.badSram := by
  intro l hl
  unfold State.retire at hl
  split at hl
  · exact healReg_sub _ _ _ _ l hl
  · exact hl

@[simp] theorem State.mem_retire (u : State) (i : Info) (c : Bool) (pc : Word) : (u.retire i c pc).mem = u.mem := by
  rw [State.rest_retire]
@[simp] theorem State.clusters_retire (u : State) (i : Info) (c : Bool) (pc : Word) :
    (u.retire i c pc).clusters = u.clusters := by
  rw [State.rest_retire]
@[simp] theorem State.parts_retire (u : State) (i : Info) (c : Bool) (pc : Word) :
    (u.retire i c pc).parts = u.parts := by
  rw [State.rest_retire]

/-- A form whose body is done completes: its next state is the body's state, retired. -/
theorem run_done {i : Info} {s u : State} {body : State → Res} (hc : issueCheck i s.seen = none)
    (hs : skipped i s.seen.me = false) (hb : body s.seen = .done u) :
    run i s body = .next (u.retire i true (u.me.pc + 4)) := by
  simp only [run, issue_of_check hc hs, hb, settleRes]

/-- A form whose body goes to an address. -/
theorem run_goto {i : Info} {s u : State} {pc : Word} {body : State → Res} (hc : issueCheck i s.seen = none)
    (hs : skipped i s.seen.me = false) (hb : body s.seen = .goto u pc) :
    run i s body = .next (u.retire i true pc) := by
  simp only [run, issue_of_check hc hs, hb, settleRes]

/-- A form whose body leaves a state as it is. -/
theorem run_leave {i : Info} {s u : State} {body : State → Res} (hc : issueCheck i s.seen = none)
    (hs : skipped i s.seen.me = false) (hb : body s.seen = .leave u) : run i s body = .next u := by
  simp only [run, issue_of_check hc hs, hb, settleRes]

/-- A form whose body raises a cause. -/
theorem run_trap {i : Info} {s u : State} {c : Cause} {v : Word} {m : Bool} {body : State → Res}
    (hc : issueCheck i s.seen = none) (hs : skipped i s.seen.me = false) (hb : body s.seen = .trap u c v m) :
    run i s body = .next (u.raise s.seen c v (trapAt u.me c).1 (trapAt u.me c).2 m) := by
  simp only [run, issue_of_check hc hs, hb, settleRes]

end Sys2Proof.Machine
end

