-- ==== Sys2Proof/Laws/Frame.lean ====
section
/-! SUPPORT. Laws of frames: what a form that has written registers of its hart gives and leaves, at every later cycle. -/

namespace Sys2Proof.Machine

/-! ### Registers at a later cycle depend on registers and pending results alone -/

theorem settleFrom_regs (t : Nat) (ps : List Pend) {h k : Hart} (ks ls : List Pend) (ha : h.a = k.a) (hv : h.v = k.v)
    (hm : h.m = k.m) :
    (settleFrom t ps h ks).a = (settleFrom t ps k ls).a ∧ (settleFrom t ps h ks).v = (settleFrom t ps k ls).v ∧
      (settleFrom t ps h ks).m = (settleFrom t ps k ls).m := by
  induction ps generalizing h k ks ls with
  | nil => exact ⟨ha, hv, hm⟩
  | cons p ps ih =>
    rw [settleFrom, settleFrom]
    split
    · apply ih
      all_goals
        unfold Hart.put
        split <;> (try split) <;> simp only [ha, hv, hm]
    · exact ih _ _ ha hv hm

theorem Hart.settle_regs {h k : Hart} (t : Nat) (ha : h.a = k.a) (hv : h.v = k.v) (hm : h.m = k.m) (hp : h.pend = k.pend) :
    (∀ r, (h.settle t).getA r = (k.settle t).getA r) ∧ (∀ r, (h.settle t).getV r = (k.settle t).getV r) ∧
      (∀ r, (h.settle t).getM r = (k.settle t).getM r) := by
  have := settleFrom_regs t k.pend [] [] ha hv hm
  unfold Hart.settle
  rw [hp]
  refine ⟨fun r => ?_, fun r => ?_, fun r => ?_⟩
  · simp only [Hart.getA, this.1]
  · simp only [Hart.getV, this.2.1]
  · simp only [Hart.getM, this.2.2]

/-- What the hart sees at a later cycle is what the state that the instruction saw says. -/
theorem State.sees_seen (s : State) {T : Nat} (hT : s.me.now ≤ T) : s.seen.sees T = s.sees T := by
  simp only [State.sees, State.me_seen]
  exact Hart.settle_settle s.me hT

@[simp] theorem Hart.rest_settle (h : Hart) (t : Nat) : (h.settle t).rest = h.rest := by
  unfold Hart.rest; simp

theorem State.sees_retire {u : State} {i : Info} {c : Bool} {pc : Word} (hl : u.me.lent = none)
    (hs : u.me.status ≠ .halted) (T : Nat) :
    (∀ r, ((u.retire i c pc).sees T).getA r = (u.sees T).getA r) ∧
      (∀ r, ((u.retire i c pc).sees T).getV r = (u.sees T).getV r) ∧
      (∀ r, ((u.retire i c pc).sees T).getM r = (u.sees T).getM r) := by
  unfold State.sees
  rw [State.me_retire hl hs]
  exact Hart.settle_regs T rfl rfl rfl rfl

/-! ### The frame of a form whose body writes the hart -/

/-- What a body that has replaced the hart by `k` must show for its form's frame. -/
structure BodyFrame (s : State) (k : Hart) (ws : Writes) (e : Hart → Hart) : Prop where
  a : ∀ r, r ∉ ws.a → ∀ T, s.me.now ≤ T → (k.settle T).getA r = (s.sees T).getA r
  v : ∀ r, r ∉ ws.v → ∀ T, s.me.now ≤ T → (k.settle T).getV r = (s.sees T).getV r
  m : ∀ r, r ∉ ws.m → ∀ T, s.me.now ≤ T → (k.settle T).getM r = (s.sees T).getM r
  st : ∀ r, r ∉ ws.st → k.getS r = s.me.getS r
  rest : (e k).rest = (e s.me).rest
  live : k.status ≠ .halted
  lent : k.lent = none
  now : k.now = s.me.now
  mode : k.priv = s.me.priv
  cause : k.tcause = s.me.tcause
  value : k.tval = s.me.tval
  back : k.tpc = s.me.tpc

/-- An eraser that is blind to the place in the program. -/
def Blind (e : Hart → Hart) : Prop :=
  ∀ (h : Hart) (x : Status) (p : Word) (n : Nat) (l : Option Lent) (b c : Bool),
    (e { h with status := x, lent := l, pc := p, now := n, asleep := b, woken := c, floor := 0 }).rest = (e h).rest

theorem blind_id : Blind id := fun _ _ _ _ _ _ _ => rfl

theorem completed_body {s u : State} {i : Info} {c : Bool} {pc : Word} {ws : Writes} {e : Hart → Hart}
    (hb : BodyFrame s u.me ws e) (hcur : u.cur = s.cur) : Completed s (u.retire i c pc) i.wt pc := by
  constructor <;> simp [State.cur_retire, State.me_retire hb.lent hb.live, hcur, hb.now, hb.cause, hb.value, hb.back]
  exact hb.mode

theorem sameHart_body {s u : State} {i : Info} {c : Bool} {pc : Word} {ws : Writes} {e : Hart → Hart}
    (hb : BodyFrame s u.me ws e) (he : Blind e) : SameHart s (u.retire i c pc) ws e := by
  have h := State.sees_retire (i := i) (c := c) (pc := pc) hb.lent hb.live
  refine ⟨fun r hr T hT => ?_, fun r hr T hT => ?_, fun r hr T hT => ?_, fun r hr => ?_, ?_⟩
  · rw [(h T).1 r]; exact hb.a r hr T hT
  · rw [(h T).2.1 r]; exact hb.v r hr T hT
  · rw [(h T).2.2 r]; exact hb.m r hr T hT
  · rw [State.me_retire hb.lent hb.live]; exact hb.st r hr
  · rw [State.me_retire hb.lent hb.live, he]; exact hb.rest

theorem onlyHart_body {s : State} {k : Hart} {i : Info} {c : Bool} {pc : Word} :
    OnlyHart s ((s.seen.setMe k).retire i c pc) := by
  refine ⟨?_, fun id hid => ?_, fun l hl => ?_⟩
  · rw [State.rest_retire]; rfl
  · rw [State.hart_retire_ne _ _ _ _ (by exact hid)]
    simp [State.seen, State.setMe, hid]
  · exact State.bad_retire (s.seen.setMe k) i c pc l hl

/-- A form whose body has replaced the hart by `k` and goes on at `pc`: its whole frame. -/
theorem registers_body {s : State} {k : Hart} {i : Info} {c : Bool} {pc : Word} {ws : Writes} {e : Hart → Hart}
    (hb : BodyFrame s k ws e) (he : Blind e) : Registers s ((s.seen.setMe k).retire i c pc) i.wt pc ws e := by
  have hb' : BodyFrame s (s.seen.setMe k).me ws e := by simpa using hb
  exact ⟨completed_body hb' rfl, sameHart_body hb' he, onlyHart_body⟩

/-- A body that leaves the hart as the instruction saw it. -/
theorem bodyFrame_same {s : State} (hs : s.me.status ≠ .halted) (hl : s.me.lent = none) : BodyFrame s s.seen.me {} id := by
  constructor <;> intros <;> simp [hl, hs, Hart.priv, Hart.getS]
  all_goals rw [Hart.settle_settle _ ‹_›]; rfl

/-- A body that writes a scalar register. -/
theorem bodyFrame_setA {s : State} {d : Reg} {x : Word} {l : Nat} (hs : s.me.status ≠ .halted) (hl : s.me.lent = none) :
    BodyFrame s (s.seen.me.setA d x l) { a := [d] } id := by
  constructor
  · intro r hr T hT
    rw [Hart.getA_settle_setA_ne _ _ _ _ (by simpa using hr), ← State.sees_seen s hT]; rfl
  · intro r hr T hT
    rw [Hart.getV_settle_setA, ← State.sees_seen s hT]; rfl
  · intro r hr T hT
    rw [Hart.getM_settle_setA, ← State.sees_seen s hT]; rfl
  · intro r _; simp [Hart.getS]
  · simp [Hart.rest]
  all_goals simp [hl, hs, Hart.priv]

theorem givesA_setA {s : State} {d : Reg} {x : Word} {l : Nat} {i : Info} {c : Bool} {pc : Word}
    (hs : s.me.status ≠ .halted) (hl : s.me.lent = none) : GivesA s ((s.seen.setMe (s.seen.me.setA d x l)).retire i c pc) l d x := by
  intro T hT
  rw [(State.sees_retire (by simp [hl]) (by simp [hs]) T).1]
  simp only [State.sees, State.me_setMe]
  rw [Hart.getA_settle_setA_at _ _ _ (by simpa using hT)]

/-- A body that writes bits of a mask register. -/
theorem bodyFrame_setM {s : State} {d : MReg} {k x : BitVec 4096} {l : Nat} (hs : s.me.status ≠ .halted) (hl : s.me.lent = none) :
    BodyFrame s (s.seen.me.setM d k x l) { m := [d] } id := by
  unfold Hart.setM
  constructor
  · intro r hr T hT
    rw [Hart.getA_settle_write_m, ← State.sees_seen s hT]; rfl
  · intro r hr T hT
    rw [Hart.getV_settle_write_m, ← State.sees_seen s hT]; rfl
  · intro r hr T hT
    rw [Hart.getM_settle_write_ne _ _ _ _ _ (by simpa using hr), ← State.sees_seen s hT]; rfl
  · intro r _; simp [Hart.getS]
  · simp [Hart.rest]
  all_goals simp [hl, hs, Hart.priv]

theorem givesM_setM {s : State} {d : MReg} {k x : BitVec 4096} {l : Nat} {i : Info} {c : Bool} {pc : Word}
    (hs : s.me.status ≠ .halted) (hl : s.me.lent = none) : GivesM s ((s.seen.setMe (s.seen.me.setM d k x l)).retire i c pc) l d
      (fun j => if k.getLsbD j then some (x.getLsbD j) else none) := by
  intro T hT j _
  rw [(State.sees_retire (by simp [hl, Hart.setM]) (by simp [hs, Hart.setM]) T).2.2]
  simp only [State.sees, State.me_setMe]
  rw [Hart.getM_settle_setM_at _ _ _ _ (by simpa using hT), getLsbD_putBits]
  have h := State.sees_seen s (T := T) (by omega)
  simp only [State.sees] at h
  rw [h]
  split <;> simp

end Sys2Proof.Machine
end

