-- ==== Sys2Proof/Laws/PerInstr.lean ====
section
/-! SUPPORT. What holds of every instruction as syntax, one lemma for each constructor. -/

namespace Sys2Proof.Laws.WordForm

/-- An instruction has a word exactly when it is none of the steps that are no words (R55). -/
def Statement (i : Instr) : Prop := (encode i).isSome = !i.isEvent

theorem nop (w : BitVec 3) : Statement (.nop w) := rfl
theorem jr (w : BitVec 3) (a : Reg) : Statement (.jr w a) := rfl
theorem svc (w : BitVec 3) (code : BitVec 10) : Statement (.svc w code) := rfl
theorem tret (w : BitVec 3) : Statement (.tret w) := rfl
theorem brk (w : BitVec 3) (code : BitVec 10) : Statement (.brk w code) := rfl
theorem halt (w : BitVec 3) : Statement (.halt w) := rfl
theorem mfc (w : BitVec 3) (d : Reg) (csr : BitVec 10) : Statement (.mfc w d csr) := rfl
theorem mtc (w : BitVec 3) (d : Reg) (csr : BitVec 10) : Statement (.mtc w d csr) := rfl
theorem mtcHctl (w : BitVec 3) (d : Reg) : Statement (.mtcHctl w d) := rfl
theorem mtcVl (w : BitVec 3) (d : Reg) : Statement (.mtcVl w d) := rfl
theorem mtcVtype (w : BitVec 3) (d : Reg) : Statement (.mtcVtype w d) := rfl
theorem mtcEstart (w : BitVec 3) (d : Reg) : Statement (.mtcEstart w d) := rfl
theorem mtcBstp (w : BitVec 3) (d : Reg) : Statement (.mtcBstp w d) := rfl
theorem fenceC (w : BitVec 3) (a : Reg) (sc : BitVec 5) : Statement (.fenceC w a sc) := rfl
theorem fenceAll (w : BitVec 3) (sc : BitVec 5) : Statement (.fenceAll w sc) := rfl
theorem wfe (w : BitVec 3) (d a b : Reg) : Statement (.wfe w d a b) := rfl
theorem rdtime (w : BitVec 3) (d : Reg) : Statement (.rdtime w d) := rfl
theorem rdcyc (w : BitVec 3) (d : Reg) : Statement (.rdcyc w d) := rfl
theorem ctxSave (w : BitVec 3) (a : Reg) : Statement (.ctxSave w a) := rfl
theorem ctxLoad (w : BitVec 3) (a : Reg) : Statement (.ctxLoad w a) := rfl
theorem tlbInv (w : BitVec 3) (a : Reg) (b : BitVec 5) : Statement (.tlbInv w a b) := rfl
theorem wait (w : BitVec 3) (n : BitVec 5) : Statement (.wait w n) := rfl
theorem lanemap (w : BitVec 3) (a : Reg) : Statement (.lanemap w a) := rfl
theorem add (w : BitVec 3) (d a b : Reg) : Statement (.add w d a b) := rfl
theorem sub (w : BitVec 3) (d a b : Reg) : Statement (.sub w d a b) := rfl
theorem and (w : BitVec 3) (d a b : Reg) : Statement (.and w d a b) := rfl
theorem or (w : BitVec 3) (d a b : Reg) : Statement (.or w d a b) := rfl
theorem xor (w : BitVec 3) (d a b : Reg) : Statement (.xor w d a b) := rfl
theorem andn (w : BitVec 3) (d a b : Reg) : Statement (.andn w d a b) := rfl
theorem shl (w : BitVec 3) (d a b : Reg) : Statement (.shl w d a b) := rfl
theorem shr (w : BitVec 3) (d a b : Reg) : Statement (.shr w d a b) := rfl
theorem sar (w : BitVec 3) (d a b : Reg) : Statement (.sar w d a b) := rfl
theorem rol (w : BitVec 3) (d a b : Reg) : Statement (.rol w d a b) := rfl
theorem slt (w : BitVec 3) (d a b : Reg) : Statement (.slt w d a b) := rfl
theorem sltn (w : BitVec 3) (d a b : Reg) : Statement (.sltn w d a b) := rfl
theorem min (w : BitVec 3) (d a b : Reg) : Statement (.min w d a b) := rfl
theorem max (w : BitVec 3) (d a b : Reg) : Statement (.max w d a b) := rfl
theorem minn (w : BitVec 3) (d a b : Reg) : Statement (.minn w d a b) := rfl
theorem maxn (w : BitVec 3) (d a b : Reg) : Statement (.maxn w d a b) := rfl
theorem mul (w : BitVec 3) (d a b : Reg) : Statement (.mul w d a b) := rfl
theorem mulh (w : BitVec 3) (d a b : Reg) : Statement (.mulh w d a b) := rfl
theorem mulhn (w : BitVec 3) (d a b : Reg) : Statement (.mulhn w d a b) := rfl
theorem div (w : BitVec 3) (d a b : Reg) : Statement (.div w d a b) := rfl
theorem divn (w : BitVec 3) (d a b : Reg) : Statement (.divn w d a b) := rfl
theorem rem (w : BitVec 3) (d a b : Reg) : Statement (.rem w d a b) := rfl
theorem remn (w : BitVec 3) (d a b : Reg) : Statement (.remn w d a b) := rfl
theorem clz (w : BitVec 3) (d a : Reg) : Statement (.clz w d a) := rfl
theorem ctz (w : BitVec 3) (d a : Reg) : Statement (.ctz w d a) := rfl
theorem popc (w : BitVec 3) (d a : Reg) : Statement (.popc w d a) := rfl
theorem sext (w : BitVec 3) (d a : Reg) (k : BitVec 5) : Statement (.sext w d a k) := rfl
theorem zext (w : BitVec 3) (d a : Reg) (k : BitVec 5) : Statement (.zext w d a k) := rfl
theorem addi (w : BitVec 3) (d a : Reg) (imm : BitVec 12) : Statement (.addi w d a imm) := rfl
theorem andi (w : BitVec 3) (d a : Reg) (imm : BitVec 12) : Statement (.andi w d a imm) := rfl
theorem ori (w : BitVec 3) (d a : Reg) (imm : BitVec 12) : Statement (.ori w d a imm) := rfl
theorem xori (w : BitVec 3) (d a : Reg) (imm : BitVec 12) : Statement (.xori w d a imm) := rfl
theorem shli (w : BitVec 3) (d a : Reg) (sh : BitVec 6) : Statement (.shli w d a sh) := rfl
theorem shri (w : BitVec 3) (d a : Reg) (sh : BitVec 6) : Statement (.shri w d a sh) := rfl
theorem sari (w : BitVec 3) (d a : Reg) (sh : BitVec 6) : Statement (.sari w d a sh) := rfl
theorem ldk (w : BitVec 3) (d : Reg) (k : BitVec 5) (imm : BitVec 12) : Statement (.ldk w d k imm) := rfl
theorem beq (w : BitVec 3) (a b : Reg) (off : BitVec 12) : Statement (.beq w a b off) := rfl
theorem bne (w : BitVec 3) (a b : Reg) (off : BitVec 12) : Statement (.bne w a b off) := rfl
theorem blt (w : BitVec 3) (a b : Reg) (off : BitVec 12) : Statement (.blt w a b off) := rfl
theorem bge (w : BitVec 3) (a b : Reg) (off : BitVec 12) : Statement (.bge w a b off) := rfl
theorem bltn (w : BitVec 3) (a b : Reg) (off : BitVec 12) : Statement (.bltn w a b off) := rfl
theorem bgen (w : BitVec 3) (a b : Reg) (off : BitVec 12) : Statement (.bgen w a b off) := rfl
theorem ssb (w : BitVec 3) (a b : Reg) (off : BitVec 12) : Statement (.ssb w a b off) := rfl
theorem jal (w : BitVec 3) (d : Reg) (off : BitVec 17) : Statement (.jal w d off) := rfl
theorem ldB (w : BitVec 3) (d a b : Reg) (c : BitVec 4) : Statement (.ldB w d a b c) := rfl
theorem ldH (w : BitVec 3) (d a b : Reg) (c : BitVec 4) : Statement (.ldH w d a b c) := rfl
theorem ldW (w : BitVec 3) (d a b : Reg) (c : BitVec 4) : Statement (.ldW w d a b c) := rfl
theorem ldD (w : BitVec 3) (d a b : Reg) (c : BitVec 4) : Statement (.ldD w d a b c) := rfl
theorem stB (w : BitVec 3) (d a b : Reg) (c : BitVec 4) : Statement (.stB w d a b c) := rfl
theorem stH (w : BitVec 3) (d a b : Reg) (c : BitVec 4) : Statement (.stH w d a b c) := rfl
theorem stW (w : BitVec 3) (d a b : Reg) (c : BitVec 4) : Statement (.stW w d a b c) := rfl
theorem stD (w : BitVec 3) (d a b : Reg) (c : BitVec 4) : Statement (.stD w d a b c) := rfl
theorem ldEAdd (w : BitVec 3) (d a b : Reg) (c : BitVec 4) : Statement (.ldEAdd w d a b c) := rfl
theorem ldEFadd (w : BitVec 3) (d a b : Reg) (c : BitVec 4) : Statement (.ldEFadd w d a b c) := rfl
theorem ldEMin (w : BitVec 3) (d a b : Reg) (c : BitVec 4) : Statement (.ldEMin w d a b c) := rfl
theorem ldEMax (w : BitVec 3) (d a b : Reg) (c : BitVec 4) : Statement (.ldEMax w d a b c) := rfl
theorem ldEMinn (w : BitVec 3) (d a b : Reg) (c : BitVec 4) : Statement (.ldEMinn w d a b c) := rfl
theorem ldEMaxn (w : BitVec 3) (d a b : Reg) (c : BitVec 4) : Statement (.ldEMaxn w d a b c) := rfl
theorem ldEAnd (w : BitVec 3) (d a b : Reg) (c : BitVec 4) : Statement (.ldEAnd w d a b c) := rfl
theorem ldEOr (w : BitVec 3) (d a b : Reg) (c : BitVec 4) : Statement (.ldEOr w d a b c) := rfl
theorem ldEXor (w : BitVec 3) (d a b : Reg) (c : BitVec 4) : Statement (.ldEXor w d a b c) := rfl
theorem stE (w : BitVec 3) (d a b : Reg) (c : BitVec 4) : Statement (.stE w d a b c) := rfl
theorem amoEAdd (w : BitVec 3) (d a b : Reg) (c : BitVec 4) : Statement (.amoEAdd w d a b c) := rfl
theorem amoEOr (w : BitVec 3) (d a b : Reg) (c : BitVec 4) : Statement (.amoEOr w d a b c) := rfl
theorem amoEAnd (w : BitVec 3) (d a b : Reg) (c : BitVec 4) : Statement (.amoEAnd w d a b c) := rfl
theorem amoEMax (w : BitVec 3) (d a b : Reg) (c : BitVec 4) : Statement (.amoEMax w d a b c) := rfl
theorem amoAddCl (w : BitVec 3) (d a b : Reg) (c : BitVec 4) : Statement (.amoAddCl w d a b c) := rfl
theorem amoAddSl (w : BitVec 3) (d a b : Reg) (c : BitVec 4) : Statement (.amoAddSl w d a b c) := rfl
theorem amoAddSt (w : BitVec 3) (d a b : Reg) (c : BitVec 4) : Statement (.amoAddSt w d a b c) := rfl
theorem amoAddMo (w : BitVec 3) (d a b : Reg) (c : BitVec 4) : Statement (.amoAddMo w d a b c) := rfl
theorem amoAddPo (w : BitVec 3) (d a b : Reg) (c : BitVec 4) : Statement (.amoAddPo w d a b c) := rfl
theorem amoAddSy (w : BitVec 3) (d a b : Reg) (c : BitVec 4) : Statement (.amoAddSy w d a b c) := rfl
theorem amoFaddCl (w : BitVec 3) (d a b : Reg) (c : BitVec 4) : Statement (.amoFaddCl w d a b c) := rfl
theorem amoFaddSl (w : BitVec 3) (d a b : Reg) (c : BitVec 4) : Statement (.amoFaddSl w d a b c) := rfl
theorem amoFaddSt (w : BitVec 3) (d a b : Reg) (c : BitVec 4) : Statement (.amoFaddSt w d a b c) := rfl
theorem amoFaddMo (w : BitVec 3) (d a b : Reg) (c : BitVec 4) : Statement (.amoFaddMo w d a b c) := rfl
theorem amoFaddPo (w : BitVec 3) (d a b : Reg) (c : BitVec 4) : Statement (.amoFaddPo w d a b c) := rfl
theorem amoFaddSy (w : BitVec 3) (d a b : Reg) (c : BitVec 4) : Statement (.amoFaddSy w d a b c) := rfl
theorem amoMinCl (w : BitVec 3) (d a b : Reg) (c : BitVec 4) : Statement (.amoMinCl w d a b c) := rfl
theorem amoMinSl (w : BitVec 3) (d a b : Reg) (c : BitVec 4) : Statement (.amoMinSl w d a b c) := rfl
theorem amoMinSt (w : BitVec 3) (d a b : Reg) (c : BitVec 4) : Statement (.amoMinSt w d a b c) := rfl
theorem amoMinMo (w : BitVec 3) (d a b : Reg) (c : BitVec 4) : Statement (.amoMinMo w d a b c) := rfl
theorem amoMinPo (w : BitVec 3) (d a b : Reg) (c : BitVec 4) : Statement (.amoMinPo w d a b c) := rfl
theorem amoMinSy (w : BitVec 3) (d a b : Reg) (c : BitVec 4) : Statement (.amoMinSy w d a b c) := rfl
theorem amoMaxCl (w : BitVec 3) (d a b : Reg) (c : BitVec 4) : Statement (.amoMaxCl w d a b c) := rfl
theorem amoMaxSl (w : BitVec 3) (d a b : Reg) (c : BitVec 4) : Statement (.amoMaxSl w d a b c) := rfl
theorem amoMaxSt (w : BitVec 3) (d a b : Reg) (c : BitVec 4) : Statement (.amoMaxSt w d a b c) := rfl
theorem amoMaxMo (w : BitVec 3) (d a b : Reg) (c : BitVec 4) : Statement (.amoMaxMo w d a b c) := rfl
theorem amoMaxPo (w : BitVec 3) (d a b : Reg) (c : BitVec 4) : Statement (.amoMaxPo w d a b c) := rfl
theorem amoMaxSy (w : BitVec 3) (d a b : Reg) (c : BitVec 4) : Statement (.amoMaxSy w d a b c) := rfl
theorem amoAndCl (w : BitVec 3) (d a b : Reg) (c : BitVec 4) : Statement (.amoAndCl w d a b c) := rfl
theorem amoAndSl (w : BitVec 3) (d a b : Reg) (c : BitVec 4) : Statement (.amoAndSl w d a b c) := rfl
theorem amoAndSt (w : BitVec 3) (d a b : Reg) (c : BitVec 4) : Statement (.amoAndSt w d a b c) := rfl
theorem amoAndMo (w : BitVec 3) (d a b : Reg) (c : BitVec 4) : Statement (.amoAndMo w d a b c) := rfl
theorem amoAndPo (w : BitVec 3) (d a b : Reg) (c : BitVec 4) : Statement (.amoAndPo w d a b c) := rfl
theorem amoAndSy (w : BitVec 3) (d a b : Reg) (c : BitVec 4) : Statement (.amoAndSy w d a b c) := rfl
theorem amoOrCl (w : BitVec 3) (d a b : Reg) (c : BitVec 4) : Statement (.amoOrCl w d a b c) := rfl
theorem amoOrSl (w : BitVec 3) (d a b : Reg) (c : BitVec 4) : Statement (.amoOrSl w d a b c) := rfl
theorem amoOrSt (w : BitVec 3) (d a b : Reg) (c : BitVec 4) : Statement (.amoOrSt w d a b c) := rfl
theorem amoOrMo (w : BitVec 3) (d a b : Reg) (c : BitVec 4) : Statement (.amoOrMo w d a b c) := rfl
theorem amoOrPo (w : BitVec 3) (d a b : Reg) (c : BitVec 4) : Statement (.amoOrPo w d a b c) := rfl
theorem amoOrSy (w : BitVec 3) (d a b : Reg) (c : BitVec 4) : Statement (.amoOrSy w d a b c) := rfl
theorem amoSwapCl (w : BitVec 3) (d a b : Reg) (c : BitVec 4) : Statement (.amoSwapCl w d a b c) := rfl
theorem amoSwapSl (w : BitVec 3) (d a b : Reg) (c : BitVec 4) : Statement (.amoSwapSl w d a b c) := rfl
theorem amoSwapSt (w : BitVec 3) (d a b : Reg) (c : BitVec 4) : Statement (.amoSwapSt w d a b c) := rfl
theorem amoSwapMo (w : BitVec 3) (d a b : Reg) (c : BitVec 4) : Statement (.amoSwapMo w d a b c) := rfl
theorem amoSwapPo (w : BitVec 3) (d a b : Reg) (c : BitVec 4) : Statement (.amoSwapPo w d a b c) := rfl
theorem amoSwapSy (w : BitVec 3) (d a b : Reg) (c : BitVec 4) : Statement (.amoSwapSy w d a b c) := rfl
theorem amoCasCl (w : BitVec 3) (d a b : Reg) (c : BitVec 4) : Statement (.amoCasCl w d a b c) := rfl
theorem amoCasSl (w : BitVec 3) (d a b : Reg) (c : BitVec 4) : Statement (.amoCasSl w d a b c) := rfl
theorem amoCasSt (w : BitVec 3) (d a b : Reg) (c : BitVec 4) : Statement (.amoCasSt w d a b c) := rfl
theorem amoCasMo (w : BitVec 3) (d a b : Reg) (c : BitVec 4) : Statement (.amoCasMo w d a b c) := rfl
theorem amoCasPo (w : BitVec 3) (d a b : Reg) (c : BitVec 4) : Statement (.amoCasPo w d a b c) := rfl
theorem amoCasSy (w : BitVec 3) (d a b : Reg) (c : BitVec 4) : Statement (.amoCasSy w d a b c) := rfl
theorem vldEAdd (w : BitVec 3) (d a b : Reg) (c : BitVec 4) : Statement (.vldEAdd w d a b c) := rfl
theorem vldEFadd (w : BitVec 3) (d a b : Reg) (c : BitVec 4) : Statement (.vldEFadd w d a b c) := rfl
theorem vldEMin (w : BitVec 3) (d a b : Reg) (c : BitVec 4) : Statement (.vldEMin w d a b c) := rfl
theorem vldEMax (w : BitVec 3) (d a b : Reg) (c : BitVec 4) : Statement (.vldEMax w d a b c) := rfl
theorem vldEMinn (w : BitVec 3) (d a b : Reg) (c : BitVec 4) : Statement (.vldEMinn w d a b c) := rfl
theorem vldEMaxn (w : BitVec 3) (d a b : Reg) (c : BitVec 4) : Statement (.vldEMaxn w d a b c) := rfl
theorem vldEAnd (w : BitVec 3) (d a b : Reg) (c : BitVec 4) : Statement (.vldEAnd w d a b c) := rfl
theorem vldEOr (w : BitVec 3) (d a b : Reg) (c : BitVec 4) : Statement (.vldEOr w d a b c) := rfl
theorem vldEXor (w : BitVec 3) (d a b : Reg) (c : BitVec 4) : Statement (.vldEXor w d a b c) := rfl
theorem vstE (w : BitVec 3) (d a b : Reg) (c : BitVec 4) : Statement (.vstE w d a b c) := rfl
theorem vamoAddCl (w : BitVec 3) (d a b : Reg) (c : BitVec 4) : Statement (.vamoAddCl w d a b c) := rfl
theorem vamoAddSl (w : BitVec 3) (d a b : Reg) (c : BitVec 4) : Statement (.vamoAddSl w d a b c) := rfl
theorem vamoAddSt (w : BitVec 3) (d a b : Reg) (c : BitVec 4) : Statement (.vamoAddSt w d a b c) := rfl
theorem vamoAddMo (w : BitVec 3) (d a b : Reg) (c : BitVec 4) : Statement (.vamoAddMo w d a b c) := rfl
theorem vamoAddPo (w : BitVec 3) (d a b : Reg) (c : BitVec 4) : Statement (.vamoAddPo w d a b c) := rfl
theorem vamoAddSy (w : BitVec 3) (d a b : Reg) (c : BitVec 4) : Statement (.vamoAddSy w d a b c) := rfl
theorem vamoFaddCl (w : BitVec 3) (d a b : Reg) (c : BitVec 4) : Statement (.vamoFaddCl w d a b c) := rfl
theorem vamoFaddSl (w : BitVec 3) (d a b : Reg) (c : BitVec 4) : Statement (.vamoFaddSl w d a b c) := rfl
theorem vamoFaddSt (w : BitVec 3) (d a b : Reg) (c : BitVec 4) : Statement (.vamoFaddSt w d a b c) := rfl
theorem vamoFaddMo (w : BitVec 3) (d a b : Reg) (c : BitVec 4) : Statement (.vamoFaddMo w d a b c) := rfl
theorem vamoFaddPo (w : BitVec 3) (d a b : Reg) (c : BitVec 4) : Statement (.vamoFaddPo w d a b c) := rfl
theorem vamoFaddSy (w : BitVec 3) (d a b : Reg) (c : BitVec 4) : Statement (.vamoFaddSy w d a b c) := rfl
theorem vamoMinCl (w : BitVec 3) (d a b : Reg) (c : BitVec 4) : Statement (.vamoMinCl w d a b c) := rfl
theorem vamoMinSl (w : BitVec 3) (d a b : Reg) (c : BitVec 4) : Statement (.vamoMinSl w d a b c) := rfl
theorem vamoMinSt (w : BitVec 3) (d a b : Reg) (c : BitVec 4) : Statement (.vamoMinSt w d a b c) := rfl
theorem vamoMinMo (w : BitVec 3) (d a b : Reg) (c : BitVec 4) : Statement (.vamoMinMo w d a b c) := rfl
theorem vamoMinPo (w : BitVec 3) (d a b : Reg) (c : BitVec 4) : Statement (.vamoMinPo w d a b c) := rfl
theorem vamoMinSy (w : BitVec 3) (d a b : Reg) (c : BitVec 4) : Statement (.vamoMinSy w d a b c) := rfl
theorem vamoMaxCl (w : BitVec 3) (d a b : Reg) (c : BitVec 4) : Statement (.vamoMaxCl w d a b c) := rfl
theorem vamoMaxSl (w : BitVec 3) (d a b : Reg) (c : BitVec 4) : Statement (.vamoMaxSl w d a b c) := rfl
theorem vamoMaxSt (w : BitVec 3) (d a b : Reg) (c : BitVec 4) : Statement (.vamoMaxSt w d a b c) := rfl
theorem vamoMaxMo (w : BitVec 3) (d a b : Reg) (c : BitVec 4) : Statement (.vamoMaxMo w d a b c) := rfl
theorem vamoMaxPo (w : BitVec 3) (d a b : Reg) (c : BitVec 4) : Statement (.vamoMaxPo w d a b c) := rfl
theorem vamoMaxSy (w : BitVec 3) (d a b : Reg) (c : BitVec 4) : Statement (.vamoMaxSy w d a b c) := rfl
theorem vamoAndCl (w : BitVec 3) (d a b : Reg) (c : BitVec 4) : Statement (.vamoAndCl w d a b c) := rfl
theorem vamoAndSl (w : BitVec 3) (d a b : Reg) (c : BitVec 4) : Statement (.vamoAndSl w d a b c) := rfl
theorem vamoAndSt (w : BitVec 3) (d a b : Reg) (c : BitVec 4) : Statement (.vamoAndSt w d a b c) := rfl
theorem vamoAndMo (w : BitVec 3) (d a b : Reg) (c : BitVec 4) : Statement (.vamoAndMo w d a b c) := rfl
theorem vamoAndPo (w : BitVec 3) (d a b : Reg) (c : BitVec 4) : Statement (.vamoAndPo w d a b c) := rfl
theorem vamoAndSy (w : BitVec 3) (d a b : Reg) (c : BitVec 4) : Statement (.vamoAndSy w d a b c) := rfl
theorem vamoOrCl (w : BitVec 3) (d a b : Reg) (c : BitVec 4) : Statement (.vamoOrCl w d a b c) := rfl
theorem vamoOrSl (w : BitVec 3) (d a b : Reg) (c : BitVec 4) : Statement (.vamoOrSl w d a b c) := rfl
theorem vamoOrSt (w : BitVec 3) (d a b : Reg) (c : BitVec 4) : Statement (.vamoOrSt w d a b c) := rfl
theorem vamoOrMo (w : BitVec 3) (d a b : Reg) (c : BitVec 4) : Statement (.vamoOrMo w d a b c) := rfl
theorem vamoOrPo (w : BitVec 3) (d a b : Reg) (c : BitVec 4) : Statement (.vamoOrPo w d a b c) := rfl
theorem vamoOrSy (w : BitVec 3) (d a b : Reg) (c : BitVec 4) : Statement (.vamoOrSy w d a b c) := rfl
theorem vamoRetry (w : BitVec 3) (d a b : Reg) (c : BitVec 4) : Statement (.vamoRetry w d a b c) := rfl
theorem setvl (w : BitVec 3) (d a b : Reg) : Statement (.setvl w d a b) := rfl
theorem mand (w : BitVec 3) (d a b : MReg) (p : BitVec 3) : Statement (.mand w d a b p) := rfl
theorem mor (w : BitVec 3) (d a b : MReg) (p : BitVec 3) : Statement (.mor w d a b p) := rfl
theorem mxor (w : BitVec 3) (d a b : MReg) (p : BitVec 3) : Statement (.mxor w d a b p) := rfl
theorem mandn (w : BitVec 3) (d a b : MReg) (p : BitVec 3) : Statement (.mandn w d a b p) := rfl
theorem mnot (w : BitVec 3) (d a : MReg) (p : BitVec 3) : Statement (.mnot w d a p) := rfl
theorem mshl (w : BitVec 3) (d a : MReg) (b : Reg) : Statement (.mshl w d a b) := rfl
theorem mshr (w : BitVec 3) (d a : MReg) (b : Reg) : Statement (.mshr w d a b) := rfl
theorem mpop (w : BitVec 3) (d : Reg) (a : MReg) (p : BitVec 3) : Statement (.mpop w d a p) := rfl
theorem mfirst (w : BitVec 3) (d : Reg) (a : MReg) (p : BitVec 3) : Statement (.mfirst w d a p) := rfl
theorem mget (w : BitVec 3) (d : MReg) (p : BitVec 3) : Statement (.mget w d p) := rfl
theorem mput (w : BitVec 3) (d : MReg) (a b : Reg) : Statement (.mput w d a b) := rfl
theorem mset (w : BitVec 3) (d : MReg) (p : BitVec 3) : Statement (.mset w d p) := rfl
theorem mclr (w : BitVec 3) (d : MReg) (p : BitVec 3) : Statement (.mclr w d p) := rfl
theorem vadd (w : BitVec 3) (d a : Reg) (b : VOp) (p : BitVec 3) : Statement (.vadd w d a b p) := rfl
theorem vsub (w : BitVec 3) (d a : Reg) (b : VOp) (p : BitVec 3) : Statement (.vsub w d a b p) := rfl
theorem vadc (w : BitVec 3) (d a : Reg) (b : VOp) (k : BitVec 3) : Statement (.vadc w d a b k) := rfl
theorem vsbc (w : BitVec 3) (d a : Reg) (b : VOp) (k : BitVec 3) : Statement (.vsbc w d a b k) := rfl
theorem vmul (w : BitVec 3) (d a : Reg) (b : VOp) (p : BitVec 3) : Statement (.vmul w d a b p) := rfl
theorem vmulh (w : BitVec 3) (d a : Reg) (b : VOp) (p : BitVec 3) : Statement (.vmulh w d a b p) := rfl
theorem vmulhn (w : BitVec 3) (d a : Reg) (b : VOp) (p : BitVec 3) : Statement (.vmulhn w d a b p) := rfl
theorem vmacc (w : BitVec 3) (d a : Reg) (b : VOp) (p : BitVec 3) : Statement (.vmacc w d a b p) := rfl
theorem vand (w : BitVec 3) (d a : Reg) (b : VOp) (p : BitVec 3) : Statement (.vand w d a b p) := rfl
theorem vor (w : BitVec 3) (d a : Reg) (b : VOp) (p : BitVec 3) : Statement (.vor w d a b p) := rfl
theorem vxor (w : BitVec 3) (d a : Reg) (b : VOp) (p : BitVec 3) : Statement (.vxor w d a b p) := rfl
theorem vshl (w : BitVec 3) (d a : Reg) (b : VOp) (p : BitVec 3) : Statement (.vshl w d a b p) := rfl
theorem vshr (w : BitVec 3) (d a : Reg) (b : VOp) (p : BitVec 3) : Statement (.vshr w d a b p) := rfl
theorem vsar (w : BitVec 3) (d a : Reg) (b : VOp) (p : BitVec 3) : Statement (.vsar w d a b p) := rfl
theorem vmin (w : BitVec 3) (d a : Reg) (b : VOp) (p : BitVec 3) : Statement (.vmin w d a b p) := rfl
theorem vmax (w : BitVec 3) (d a : Reg) (b : VOp) (p : BitVec 3) : Statement (.vmax w d a b p) := rfl
theorem vminn (w : BitVec 3) (d a : Reg) (b : VOp) (p : BitVec 3) : Statement (.vminn w d a b p) := rfl
theorem vmaxn (w : BitVec 3) (d a : Reg) (b : VOp) (p : BitVec 3) : Statement (.vmaxn w d a b p) := rfl
theorem vceq (w : BitVec 3) (d : MReg) (a : Reg) (b : VOp) (p : BitVec 3) : Statement (.vceq w d a b p) := rfl
theorem vcne (w : BitVec 3) (d : MReg) (a : Reg) (b : VOp) (p : BitVec 3) : Statement (.vcne w d a b p) := rfl
theorem vclt (w : BitVec 3) (d : MReg) (a : Reg) (b : VOp) (p : BitVec 3) : Statement (.vclt w d a b p) := rfl
theorem vcle (w : BitVec 3) (d : MReg) (a : Reg) (b : VOp) (p : BitVec 3) : Statement (.vcle w d a b p) := rfl
theorem vcltn (w : BitVec 3) (d : MReg) (a : Reg) (b : VOp) (p : BitVec 3) : Statement (.vcltn w d a b p) := rfl
theorem vclen (w : BitVec 3) (d : MReg) (a : Reg) (b : VOp) (p : BitVec 3) : Statement (.vclen w d a b p) := rfl
theorem vsel (w : BitVec 3) (d a : Reg) (b : VOp) (p : BitVec 3) : Statement (.vsel w d a b p) := rfl
theorem vabsd (w : BitVec 3) (d a : Reg) (b : VOp) (p : BitVec 3) : Statement (.vabsd w d a b p) := rfl
theorem vsadd (w : BitVec 3) (d a : Reg) (b : VOp) (p : BitVec 3) : Statement (.vsadd w d a b p) := rfl
theorem vssub (w : BitVec 3) (d a : Reg) (b : VOp) (p : BitVec 3) : Statement (.vssub w d a b p) := rfl
theorem vgen (w : BitVec 3) (d : MReg) (a : Reg) (b : VOp) (p : BitVec 3) : Statement (.vgen w d a b p) := rfl
theorem vmov (w : BitVec 3) (d : Reg) (b : VOp) (p : BitVec 3) : Statement (.vmov w d b p) := rfl
theorem vfadd (w : BitVec 3) (d a : Reg) (b : VOp) (p : BitVec 3) : Statement (.vfadd w d a b p) := rfl
theorem vfsub (w : BitVec 3) (d a : Reg) (b : VOp) (p : BitVec 3) : Statement (.vfsub w d a b p) := rfl
theorem vfmul (w : BitVec 3) (d a : Reg) (b : VOp) (p : BitVec 3) : Statement (.vfmul w d a b p) := rfl
theorem vfma (w : BitVec 3) (d a : Reg) (b : VOp) (p : BitVec 3) : Statement (.vfma w d a b p) := rfl
theorem vfms (w : BitVec 3) (d a : Reg) (b : VOp) (p : BitVec 3) : Statement (.vfms w d a b p) := rfl
theorem vfnma (w : BitVec 3) (d a : Reg) (b : VOp) (p : BitVec 3) : Statement (.vfnma w d a b p) := rfl
theorem vfdiv (w : BitVec 3) (d a : Reg) (b : VOp) (p : BitVec 3) : Statement (.vfdiv w d a b p) := rfl
theorem vfsqrt (w : BitVec 3) (d : Reg) (b : VOp) (p : BitVec 3) : Statement (.vfsqrt w d b p) := rfl
theorem vfmin (w : BitVec 3) (d a : Reg) (b : VOp) (p : BitVec 3) : Statement (.vfmin w d a b p) := rfl
theorem vfmax (w : BitVec 3) (d a : Reg) (b : VOp) (p : BitVec 3) : Statement (.vfmax w d a b p) := rfl
theorem vfceq (w : BitVec 3) (d : MReg) (a : Reg) (b : VOp) (p : BitVec 3) : Statement (.vfceq w d a b p) := rfl
theorem vfclt (w : BitVec 3) (d : MReg) (a : Reg) (b : VOp) (p : BitVec 3) : Statement (.vfclt w d a b p) := rfl
theorem vfcle (w : BitVec 3) (d : MReg) (a : Reg) (b : VOp) (p : BitVec 3) : Statement (.vfcle w d a b p) := rfl
theorem vfcun (w : BitVec 3) (d : MReg) (a : Reg) (b : VOp) (p : BitVec 3) : Statement (.vfcun w d a b p) := rfl
theorem vfabs (w : BitVec 3) (d : Reg) (b : VOp) (p : BitVec 3) : Statement (.vfabs w d b p) := rfl
theorem vfneg (w : BitVec 3) (d : Reg) (b : VOp) (p : BitVec 3) : Statement (.vfneg w d b p) := rfl
theorem vfsgn (w : BitVec 3) (d a : Reg) (b : VOp) (p : BitVec 3) : Statement (.vfsgn w d a b p) := rfl
theorem vfrecp (w : BitVec 3) (d : Reg) (b : VOp) (p : BitVec 3) : Statement (.vfrecp w d b p) := rfl
theorem vfrsqe (w : BitVec 3) (d : Reg) (b : VOp) (p : BitVec 3) : Statement (.vfrsqe w d b p) := rfl
theorem vfclass (w : BitVec 3) (d : Reg) (b : VOp) (p : BitVec 3) : Statement (.vfclass w d b p) := rfl
theorem vfscal (w : BitVec 3) (d a : Reg) (b : VOp) (p : BitVec 3) : Statement (.vfscal w d a b p) := rfl
theorem vld (w : BitVec 3) (d a b : Reg) (c : BitVec 4) (p : BitVec 3) : Statement (.vld w d a b c p) := rfl
theorem vlds (w : BitVec 3) (d a b : Reg) (c : BitVec 4) (p : BitVec 3) : Statement (.vlds w d a b c p) := rfl
theorem vldx (w : BitVec 3) (d a b : Reg) (c : BitVec 4) (p : BitVec 3) : Statement (.vldx w d a b c p) := rfl
theorem vst (w : BitVec 3) (d a b : Reg) (c : BitVec 4) (p : BitVec 3) : Statement (.vst w d a b c p) := rfl
theorem vsts (w : BitVec 3) (d a b : Reg) (c : BitVec 4) (p : BitVec 3) : Statement (.vsts w d a b c p) := rfl
theorem vstx (w : BitVec 3) (d a b : Reg) (c : BitVec 4) (p : BitVec 3) : Statement (.vstx w d a b c p) := rfl
theorem vldq (w : BitVec 3) (d a b : Reg) (c : BitVec 4) : Statement (.vldq w d a b c) := rfl
theorem vstq (w : BitVec 3) (d a b : Reg) (c : BitVec 4) : Statement (.vstq w d a b c) := rfl
theorem vxch (w : BitVec 3) (d a b : Reg) (p : BitVec 3) : Statement (.vxch w d a b p) := rfl
theorem vslup (w : BitVec 3) (d a b : Reg) (p : BitVec 3) : Statement (.vslup w d a b p) := rfl
theorem vsldn (w : BitVec 3) (d a b : Reg) (p : BitVec 3) : Statement (.vsldn w d a b p) := rfl
theorem vperm (w : BitVec 3) (d a : Reg) (b : VOp) (p : BitVec 3) : Statement (.vperm w d a b p) := rfl
theorem vcmpr (w : BitVec 3) (d a : Reg) (p : BitVec 3) : Statement (.vcmpr w d a p) := rfl
theorem vexpd (w : BitVec 3) (d a : Reg) (p : BitVec 3) : Statement (.vexpd w d a p) := rfl
theorem vrank (w : BitVec 3) (d : Reg) (p : BitVec 3) : Statement (.vrank w d p) := rfl
theorem vredsum (w : BitVec 3) (d a : Reg) (p : BitVec 3) : Statement (.vredsum w d a p) := rfl
theorem vredmin (w : BitVec 3) (d a : Reg) (p : BitVec 3) : Statement (.vredmin w d a p) := rfl
theorem vredmax (w : BitVec 3) (d a : Reg) (p : BitVec 3) : Statement (.vredmax w d a p) := rfl
theorem vredand (w : BitVec 3) (d a : Reg) (p : BitVec 3) : Statement (.vredand w d a p) := rfl
theorem vredor (w : BitVec 3) (d a : Reg) (p : BitVec 3) : Statement (.vredor w d a p) := rfl
theorem vfredsum (w : BitVec 3) (d a : Reg) (p : BitVec 3) : Statement (.vfredsum w d a p) := rfl
theorem vfredmin (w : BitVec 3) (d a : Reg) (p : BitVec 3) : Statement (.vfredmin w d a p) := rfl
theorem vfredmax (w : BitVec 3) (d a : Reg) (p : BitVec 3) : Statement (.vfredmax w d a p) := rfl
theorem vfdot (w : BitVec 3) (d a : Reg) (b : VOp) (p : BitVec 3) : Statement (.vfdot w d a b p) := rfl
theorem vcvt (w : BitVec 3) (d a b : Reg) (p : BitVec 3) : Statement (.vcvt w d a b p) := rfl
theorem vext (w : BitVec 3) (d a b : Reg) : Statement (.vext w d a b) := rfl
theorem vins (w : BitVec 3) (d a b : Reg) : Statement (.vins w d a b) := rfl
theorem vvacc (w : BitVec 3) (d a : Reg) (b : MReg) (p : BitVec 3) : Statement (.vvacc w d a b p) := rfl
theorem vrescl (w : BitVec 3) (d a b : Reg) (p : BitVec 3) : Statement (.vrescl w d a b p) := rfl
theorem spOpen (w : BitVec 3) (d : SReg) (a b : Reg) : Statement (.spOpen w d a b) := rfl
theorem spBind (w : BitVec 3) (d : SReg) (a b : Reg) : Statement (.spBind w d a b) := rfl
theorem spGath (w : BitVec 3) (d : SReg) (a : Reg) (b : SReg) : Statement (.spGath w d a b) := rfl
theorem spIsect (w : BitVec 3) (d a b : SReg) : Statement (.spIsect w d a b) := rfl
theorem spUnion (w : BitVec 3) (d a b : SReg) (k : BitVec 3) : Statement (.spUnion w d a b k) := rfl
theorem spSkip (w : BitVec 3) (d : SReg) (a : Reg) : Statement (.spSkip w d a) := rfl
theorem spCrd (w : BitVec 3) (d : Reg) (a : SReg) (p : BitVec 3) : Statement (.spCrd w d a p) := rfl
theorem spPos (w : BitVec 3) (d : Reg) (a : SReg) (p : BitVec 3) : Statement (.spPos w d a p) := rfl
theorem spTake (w : BitVec 3) (d : Reg) (a : SReg) (b : Reg) : Statement (.spTake w d a b) := rfl
theorem spSave (w : BitVec 3) (d : SReg) (a : Reg) : Statement (.spSave w d a) := rfl
theorem spRest (w : BitVec 3) (d : SReg) (a : Reg) : Statement (.spRest w d a) := rfl
theorem spClose (w : BitVec 3) (d : SReg) : Statement (.spClose w d) := rfl
theorem cxAcc (w : BitVec 3) (d : MReg) (a : Reg) (b : VOp) (p : BitVec 3) : Statement (.cxAcc w d a b p) := rfl
theorem cxGet (w : BitVec 3) (d a : Reg) (b : MReg) (p : BitVec 3) : Statement (.cxGet w d a b p) := rfl
theorem cxDrain (w : BitVec 3) (d : SReg) : Statement (.cxDrain w d) := rfl
theorem cxClr (w : BitVec 3) : Statement (.cxClr w) := rfl
theorem vprune (w : BitVec 3) (d a b : Reg) (p : BitVec 3) : Statement (.vprune w d a b p) := rfl
theorem grmBind (w : BitVec 3) (a : Reg) : Statement (.grmBind w a) := rfl
theorem grmEval (w : BitVec 3) (a b : Reg) : Statement (.grmEval w a b) := rfl
theorem grmOut (w : BitVec 3) (d a b : Reg) (p : BitVec 3) : Statement (.grmOut w d a b p) := rfl
theorem mxClaim (w : BitVec 3) (d a : Reg) : Statement (.mxClaim w d a) := rfl
theorem mxRel (w : BitVec 3) (a : Reg) : Statement (.mxRel w a) := rfl
theorem mxZero (w : BitVec 3) (a : Reg) : Statement (.mxZero w a) := rfl
theorem mxMm (w : BitVec 3) (d : ZReg) (a b : OReg) : Statement (.mxMm w d a b) := rfl
theorem mxMms (w : BitVec 3) (d : ZReg) (a b : OReg) (k : BitVec 3) : Statement (.mxMms w d a b k) := rfl
theorem mxCfg (w : BitVec 3) (a : Reg) : Statement (.mxCfg w a) := rfl
theorem mxCoop (w : BitVec 3) (a : Reg) : Statement (.mxCoop w a) := rfl
theorem mxWait (w : BitVec 3) : Statement (.mxWait w) := rfl
theorem mxCvt (w : BitVec 3) (a : Reg) : Statement (.mxCvt w a) := rfl
theorem vto (w : BitVec 3) (d : OReg) (a b : Reg) (p : BitVec 3) : Statement (.vto w d a b p) := rfl
theorem vfrom (w : BitVec 3) (d : Reg) (a : ZReg) (b : Reg) (p : BitVec 3) : Statement (.vfrom w d a b p) := rfl
theorem fork (w : BitVec 3) (a b : Reg) : Statement (.fork w a b) := rfl
theorem rdv (w : BitVec 3) (a : Reg) : Statement (.rdv w a) := rfl
theorem dmaSg (w : BitVec 3) (d a : Reg) (ch : BitVec 3) : Statement (.dmaSg w d a ch) := rfl
theorem dmaLay (w : BitVec 3) (d a b : Reg) (ch : BitVec 3) : Statement (.dmaLay w d a b ch) := rfl
theorem dmaWait (w : BitVec 3) (a : Reg) (ch : BitVec 3) : Statement (.dmaWait w a ch) := rfl
theorem dmaSt (w : BitVec 3) (d a : Reg) (ch : BitVec 3) : Statement (.dmaSt w d a ch) := rfl
theorem pub (w : BitVec 3) (a : Reg) : Statement (.pub w a) := rfl
theorem barInit (w : BitVec 3) (a b : Reg) : Statement (.barInit w a b) := rfl
theorem barArr (w : BitVec 3) (a b : Reg) : Statement (.barArr w a b) := rfl
theorem barWait (w : BitVec 3) (d a b : Reg) : Statement (.barWait w d a b) := rfl
theorem netSend (w : BitVec 3) (d a : Reg) (ch : BitVec 3) : Statement (.netSend w d a ch) := rfl
theorem netMist (w : BitVec 3) (d a : Reg) (ch : BitVec 3) : Statement (.netMist w d a ch) := rfl
theorem netFetch (w : BitVec 3) (d a : Reg) (ch : BitVec 3) : Statement (.netFetch w d a ch) := rfl
theorem netWait (w : BitVec 3) (d a : Reg) (ch : BitVec 3) : Statement (.netWait w d a ch) := rfl
theorem tickWait (w : BitVec 3) (d a : Reg) : Statement (.tickWait w d a) := rfl
theorem pfx (pred : MReg) (inv : BitVec 1) (creg : Reg) (cv : BitVec 1) : Statement (.pfx pred inv creg cv) := rfl
theorem trapEntry (h : Nat) : Statement (.trapEntry h) := rfl
theorem wfeWake (h : Nat) : Statement (.wfeWake h) := rfl
theorem preemptionRequest (hs : List Nat) : Statement (.preemptionRequest hs) := rfl
theorem graceWindowExpiry (h : Nat) : Statement (.graceWindowExpiry h) := rfl
theorem launch (m : Msg) (rec : BitVec 512) : Statement (.launch m rec) := rfl
theorem graphReplay (m : Msg) (graph : Nat) : Statement (.graphReplay m graph) := rfl
theorem patch (m : Msg) (graph node dst : Nat) (data : List (BitVec 8)) : Statement (.patch m graph node dst data) := rfl
theorem map (m : Msg) (r : MapReq) : Statement (.map m r) := rfl
theorem unmap (m : Msg) (r : UnmapReq) : Statement (.unmap m r) := rfl
theorem contextLoad (m : Msg) (root : Nat) (log : LogSetup) : Statement (.contextLoad m root log) := rfl
theorem contextSave (m : Msg) : Statement (.contextSave m) := rfl
theorem gangSwitch (m : Msg) (out inc tick : Nat) : Statement (.gangSwitch m out inc tick) := rfl
theorem query (m : Msg) (item : Nat) : Statement (.query m item) := rfl
theorem attestation (m : Msg) (nonce : BitVec 256) : Statement (.attestation m nonce) := rfl
theorem partitionReset (m : Msg) : Statement (.partitionReset m) := rfl
theorem shadowPreload (c : Nat) : Statement (.shadowPreload c) := rfl
theorem gangSwitchTick (part : Nat) : Statement (.gangSwitchTick part) := rfl
theorem clusterFlip (c : Nat) : Statement (.clusterFlip c) := rfl
theorem granuleExchange (c g : Nat) : Statement (.granuleExchange c g) := rfl
theorem walkerDispatch (c : Nat) : Statement (.walkerDispatch c) := rfl
theorem launchCompletion (part ctx l : Nat) : Statement (.launchCompletion part ctx l) := rfl
theorem priorityAging (part ctx l : Nat) : Statement (.priorityAging part ctx l) := rfl
theorem gangLaunchTick (part ctx l : Nat) : Statement (.gangLaunchTick part ctx l) := rfl
theorem stage2Fault (part ia : Nat) (ans : S2Answer) : Statement (.stage2Fault part ia ans) := rfl
theorem pageMigration (part ia pa : Nat) : Statement (.pageMigration part ia pa) := rfl
theorem pageEviction (part : Nat) : Statement (.pageEviction part) := rfl
theorem spindleFetch (h : Nat) (sr : SReg) : Statement (.spindleFetch h sr) := rfl
theorem postedPartPerform (h k : Nat) : Statement (.postedPartPerform h k) := rfl
theorem loomOpStart (c : Nat) : Statement (.loomOpStart c) := rfl
theorem loomOpComplete (c : Nat) : Statement (.loomOpComplete c) := rfl
theorem channelTransferStart (c ch : Nat) : Statement (.channelTransferStart c ch) := rfl
theorem listElementStart (c ch : Nat) (id : BitVec 32) : Statement (.listElementStart c ch id) := rfl
theorem chunkTransfer (c ch : Nat) (id : BitVec 32) : Statement (.chunkTransfer c ch id) := rfl
theorem listElementComplete (c ch : Nat) (id : BitVec 32) : Statement (.listElementComplete c ch id) := rfl
theorem fabricWritePacket (x : Nat) (pk : Packet) : Statement (.fabricWritePacket x pk) := rfl
theorem fabricReadRequest (x : Nat) (pk : Packet) : Statement (.fabricReadRequest x pk) := rfl
theorem mistAnnounce (x : Nat) (pk : Packet) : Statement (.mistAnnounce x pk) := rfl
theorem mistBlock (x blk : Nat) (crcGood : Bool) (data : BitVec 2048) : Statement (.mistBlock x blk crcGood data) := rfl
theorem mistDeadline (x : Nat) : Statement (.mistDeadline x) := rfl
theorem transferAck (c ch : Nat) (id : BitVec 32) (missed : Nat) : Statement (.transferAck c ch id missed) := rfl
theorem retryLimit (c ch : Nat) (id : BitVec 32) (remote : BitVec 8) : Statement (.retryLimit c ch id remote) := rfl
theorem sramScrub (loc : SramLoc) (found : Found) : Statement (.sramScrub loc found) := rfl
theorem hbmPatrolScrub (unit : Nat) (found : Found) : Statement (.hbmPatrolScrub unit found) := rfl
theorem allBankRefresh (stack ch : Nat) (how : RefreshKind) : Statement (.allBankRefresh stack ch how) := rfl
theorem coldReset : Statement .coldReset := rfl
theorem warmReset (retrain : List (Nat × Bool)) : Statement (.warmReset retrain) := rfl
theorem watchdogExpiry (retrain : List (Nat × Bool)) : Statement (.watchdogExpiry retrain) := rfl
theorem debugUnlock (tok : DebugToken) : Statement (.debugUnlock tok) := rfl
theorem powerRound (amps : Nat) : Statement (.powerRound amps) := rfl
theorem overcurrentRevoke : Statement .overcurrentRevoke := rfl
theorem grantRestore : Statement .grantRestore := rfl
theorem syncLoss : Statement .syncLoss := rfl
theorem syncRegain : Statement .syncRegain := rfl
theorem illegalWord (word : BitVec 32) : Statement (.illegalWord word) := rfl
theorem instructionFetchFault (cause : FetchCause) (va : BitVec 64) : Statement (.instructionFetchFault cause va) := rfl
theorem fixedLatencyResult (h : Nat) : Statement (.fixedLatencyResult h) := rfl
theorem accessPerformsAtHome (h : Nat) (c : HomeStep) : Statement (.accessPerformsAtHome h c) := rfl
theorem shadowWritebackComplete (c : Nat) : Statement (.shadowWritebackComplete c) := rfl
theorem frontTickReached (h : Nat) : Statement (.frontTickReached h) := rfl
theorem rmaReadResponse (c ch : Nat) (id : BitVec 32) (data : List (BitVec 8)) : Statement (.rmaReadResponse c ch id data) := rfl
theorem partitionCreate (part : Nat) (cl : List Nat) (grace : Nat) (journal : Bool) : Statement (.partitionCreate part cl grace journal) := rfl
theorem fwcapWrite (amps : Nat) : Statement (.fwcapWrite amps) := rfl
theorem retainFlagSet : Statement .retainFlagSet := rfl
theorem graceWindowForcedStop (h : Nat) : Statement (.graceWindowForcedStop h) := rfl
theorem slotBusyEnd (c : Nat) (o : OReg) : Statement (.slotBusyEnd c o) := rfl

end Sys2Proof.Laws.WordForm
end

