-- ==== Sys2Proof/Laws/Scalar.lean ====
section
/-! SUPPORT. Laws of the scalar families: the shared operations of ALU, ALUI, BR and SYS once, for every form (R83-R89). -/

namespace Sys2Proof.Machine

/-- A scalar form whose sources may be read passes its checks, and nothing passes it over. -/
theorem scalar_clear {s : State} {w : BitVec 3} {dd : Option Dst} {ds srcs : List Dst} {l : Nat} (hc : Clear s srcs)
    (hs : ∀ d ∈ ds, d ∈ srcs) :
    issueCheck (scalarInfo w dd ds l) s.seen = none ∧ skipped (scalarInfo w dd ds l) s.seen.me = false :=
  ⟨issueCheck_of_clear hc (fun _ hd => hs _ hd) rfl (fun h => nomatch h) rfl rfl (fun h => nomatch h),
    skipped_of_clear (by simpa using hc.plain) (fun _ => rfl)⟩

/-- The same of a branch or jump. -/
theorem branch_clear {s : State} {w : BitVec 3} {ds srcs : List Dst} (hc : Clear s srcs) (hs : ∀ d ∈ ds, d ∈ srcs) :
    issueCheck (branchInfo w ds) s.seen = none ∧ skipped (branchInfo w ds) s.seen.me = false :=
  ⟨issueCheck_of_clear hc (fun _ hd => hs _ hd) rfl (fun h => nomatch h) rfl rfl (fun h => nomatch h),
    skipped_of_clear (by simpa using hc.plain) (fun _ => rfl)⟩

/-- A scalar form whose body writes one scalar register: its result and its frame. -/
theorem run_setA {s : State} {i : Info} {d : Reg} {x : Word} {l : Nat} {body : State → Res} (hs : s.me.status ≠ .halted)
    (hl : s.me.lent = none) (h1 : issueCheck i s.seen = none) (h2 : skipped i s.seen.me = false) (hb : body s.seen = .done (s.seen.setA d x l)) :
    ∃ t, run i s body = .next t ∧ Registers s t i.wt s.after { a := [d] } ∧ GivesA s t l d x := by
  refine ⟨_, run_done h1 h2 hb, ?_, givesA_setA hs hl⟩
  have hpc : (s.seen.setA d x l).me.pc + 4 = s.after := by simp [State.setA, State.after]
  rw [hpc]
  exact registers_body (bodyFrame_setA hs hl) blind_id

theorem alu_gives {s : State} {w : BitVec 3} {d a b : Reg} {l : Nat} {f : Word → Word → Word}
    (hc : Clear s [.a a, .a b]) : ∃ t, alu w d a b l f s = .next t ∧ Registers s t w s.after { a := [d] } ∧
      GivesA s t l d (f (s.seen.me.getA a) (s.seen.me.getA b)) := by
  obtain ⟨h1, h2⟩ := scalar_clear (w := w) (dd := some (.a d)) (ds := [.a a, .a b]) (l := l) hc (fun _ h => h)
  exact run_setA hc.live hc.plain h1 h2 rfl

theorem alu1_gives {s : State} {w : BitVec 3} {d a : Reg} {f : Word → Word} (hc : Clear s [.a a]) :
    ∃ t, alu1 w d a f s = .next t ∧ Registers s t w s.after { a := [d] } ∧ GivesA s t 1 d (f (s.seen.me.getA a)) := by
  obtain ⟨h1, h2⟩ := scalar_clear (w := w) (dd := some (.a d)) (ds := [.a a]) (l := 1) hc (fun _ h => h)
  exact run_setA hc.live hc.plain h1 h2 rfl

/-- A branch goes to its target where its condition holds and to the next instruction where not. -/
theorem branch_gives {s : State} {w : BitVec 3} {a b : Reg} {off : BitVec 12} {c : Word → Word → Bool}
    (hc : Clear s [.a a, .a b]) : ∃ t, branch w a b off c s = .next t ∧
      Registers s t w (if c (s.seen.me.getA a) (s.seen.me.getA b) then branchTarget s.me.pc off else s.after) {} := by
  obtain ⟨h1, h2⟩ := branch_clear (w := w) (ds := [.a a, .a b]) hc (fun _ h => h)
  have hu : s.seen = s.seen.setMe s.seen.me := by simp [State.seen]
  have hpc : s.seen.me.pc = s.me.pc := by simp
  cases hcond : c (s.seen.me.getA a) (s.seen.me.getA b)
  · have hb : (if c (s.seen.me.getA a) (s.seen.me.getA b) then Res.goto s.seen (branchTarget s.seen.me.pc off)
        else Res.done s.seen) = .done (s.seen.setMe s.seen.me) := by rw [hcond, ← hu]; rfl
    refine ⟨_, run_done h1 h2 hb, ?_⟩
    rw [State.me_setMe, hpc]
    exact registers_body (i := branchInfo w [.a a, .a b]) (c := true) (bodyFrame_same (s := s) hc.live hc.plain) blind_id
  · have hb : (if c (s.seen.me.getA a) (s.seen.me.getA b) then Res.goto s.seen (branchTarget s.seen.me.pc off)
        else Res.done s.seen) = .goto (s.seen.setMe s.seen.me) (branchTarget s.me.pc off) := by rw [hcond, ← hu, hpc]; rfl
    refine ⟨_, run_goto h1 h2 hb, ?_⟩
    exact registers_body (i := branchInfo w [.a a, .a b]) (c := true) (bodyFrame_same (s := s) hc.live hc.plain) blind_id

/-- What a branch offset means (R63). -/
theorem branchTarget_eq {n : Nat} (pc : Word) (off : BitVec n) (hn : n ≤ 64) :
    branchTarget pc off = pc + BitVec.ofInt 64 (4 * off.toInt) := by
  unfold branchTarget
  congr 1
  apply BitVec.eq_of_toInt_eq
  rw [BitVec.toInt_mul, BitVec.toInt_ofInt, BitVec.toInt_signExtend_of_le hn]
  rfl

end Sys2Proof.Machine
end

