-- ==== Sys2Proof/Laws/Translate.lean ====
section
/-! SUPPORT. Laws of translation: what a walk, a fill and a translation change, each once (R319-R328). -/

namespace Sys2Proof.Machine

/-- Whatever an access comes to, the state it leaves has a property. -/
def Acc.Leaves {α : Type} (a : Acc α) (P : State → Prop) : Prop :=
  match a with
  | .ok _ s => P s
  | .trap _ s => P s
  | .stall s => P s

theorem Acc.Leaves.ok {α : Type} {a : Acc α} {P : State → Prop} (h : a.Leaves P) {x : α} {s : State} (e : a = .ok x s) : P s := by
  subst e; exact h
theorem Acc.Leaves.trap {α : Type} {a : Acc α} {P : State → Prop} (h : a.Leaves P) {c : Cause} {s : State}
    (e : a = .trap c s) : P s := by subst e; exact h
theorem Acc.Leaves.stall {α : Type} {a : Acc α} {P : State → Prop} (h : a.Leaves P) {s : State} (e : a = .stall s) : P s := by
  subst e; exact h

/-- An access that goes on: both parts have the property from where they begin. -/
theorem Acc.Leaves.bind {α β : Type} {a : Acc α} {f : α → State → Acc β} {P Q : State → Prop} (ha : a.Leaves P)
    (hQ : ∀ s, P s → Q s) (hf : ∀ x s, P s → (f x s).Leaves Q) : (a.bind f).Leaves Q := by
  cases a with
  | ok x s => exact hf x s ha
  | trap c s => exact hQ s ha
  | stall s => exact hQ s ha

theorem OnlyTlb.refl (s : State) : OnlyTlb s s := ⟨rfl, fun _ => rfl⟩

theorem OnlyTlb.trans {s t u : State} (h : OnlyTlb s t) (k : OnlyTlb t u) : OnlyTlb s u := by
  refine ⟨?_, fun c => (k.own c).trans (h.own c)⟩
  have := k.rest
  rw [h.rest] at this
  exact this

theorem Acc.Leaves.trans {α : Type} {a : Acc α} {s t : State} (h : OnlyTlb s t) (ha : a.Leaves (OnlyTlb t)) :
    a.Leaves (OnlyTlb s) := by
  cases a <;> exact h.trans ha

theorem OnlyTlb.fast {s t : State} (h : OnlyTlb s t) (c : Nat) : t.fast c = s.fast c := by
  have := congrArg Cluster.fast (h.own c); exact this
theorem OnlyTlb.exch {s t : State} (h : OnlyTlb s t) (c : Nat) : (t.cluster c).exch = (s.cluster c).exch := by
  have := congrArg Cluster.exch (h.own c); exact this
/-- Translation leaves the trap slot where it is (R338). -/
theorem OnlyTlb.slotAway {s t : State} (h : OnlyTlb s t) (id : Nat) : t.slotAway id = s.slotAway id := by
  unfold State.slotAway State.away
  rw [h.exch]
theorem OnlyTlb.mem {s t : State} (h : OnlyTlb s t) : t.mem = s.mem := by rw [h.rest]
theorem OnlyTlb.cur {s t : State} (h : OnlyTlb s t) : t.cur = s.cur := by rw [h.rest]
theorem OnlyTlb.harts {s t : State} (h : OnlyTlb s t) : t.harts = s.harts := by rw [h.rest]
theorem OnlyTlb.parts {s t : State} (h : OnlyTlb s t) : t.parts = s.parts := by rw [h.rest]
theorem OnlyTlb.word {s t : State} (h : OnlyTlb s t) : t.word = s.word := by rw [h.rest]
theorem OnlyTlb.hart {s t : State} (h : OnlyTlb s t) (i : Nat) : t.hart i = s.hart i := by simp [State.hart, h.harts]
theorem OnlyTlb.me {s t : State} (h : OnlyTlb s t) : t.me = s.me := by simp [State.me, h.cur, h.hart]

/-- A stage-2 miss is noted, or its refusal consumed. -/
theorem State.s2stall_leaves {α : Type} (s : State) (c p ia : Nat) : (s.s2stall c p ia : Acc α).Leaves (OnlyTlb s) := by
  unfold State.s2stall
  dsimp only
  split
  · exact ⟨rfl, fun _ => rfl⟩
  · split
    · exact OnlyTlb.refl s
    · exact ⟨rfl, fun _ => rfl⟩

theorem State.stage2_leaves (s : State) (c p ia : Nat) (k : Kind) : (s.stage2 c p ia k).Leaves (OnlyTlb s) := by
  unfold State.stage2
  split
  · exact s.s2stall_leaves c p ia
  · split
    · split
      · exact OnlyTlb.refl s
      · exact s.s2stall_leaves c p ia
    · exact s.s2stall_leaves c p ia

theorem State.pteAt_leaves (s : State) (c p x va lev node : Nat) : (s.pteAt c p x va lev node).Leaves (OnlyTlb s) := by
  unfold State.pteAt
  refine (s.stage2_leaves _ _ _ _).bind (fun _ h => h) (fun key t h => ?_)
  split
  · exact h
  · split <;> exact h

/-- A walk changes nothing but what stage 2 notes. -/
theorem walk_leaves (c p x va : Nat) (k : Kind) (lev node : Nat) (s : State) : (walk c p x va k lev node s).Leaves (OnlyTlb s) := by
  induction lev generalizing node s with
  | zero =>
    refine (s.pteAt_leaves _ _ _ _ _ _).bind (fun _ h => h) (fun e t h => ?_)
    cases e <;> exact h
  | succ lev ih =>
    refine (s.pteAt_leaves _ _ _ _ _ _).bind (fun _ h => h) (fun e t h => ?_)
    cases e with
    | next n => exact Acc.Leaves.trans h (ih n t)
    | leaf l => exact h
    | bad => exact h

theorem State.stage1_leaves (s : State) (w : Who) (k : Kind) (va : Nat) : (s.stage1 w k va).Leaves (OnlyTlb s) := by
  unfold State.stage1
  split
  · exact walk_leaves _ _ _ _ _ _ _ _
  · exact OnlyTlb.refl s

/-- Filling a translation changes the TLBs alone. -/
theorem State.fillTlb_only (s : State) (c : Nat) (e : TlbEntry) : OnlyTlb s (s.fillTlb c e) := by
  refine ⟨rfl, fun d => ?_⟩
  unfold State.fillTlb
  show { (s.setCluster c _).cluster d with tlb := [] } = _
  by_cases h : d = c
  · subst h; simp
  · simp [h]

theorem State.fillDie_only (s : State) (c : Nat) (e : TlbEntry) : OnlyTlb s (s.fillDie c e) := ⟨rfl, fun _ => rfl⟩

theorem State.touch_only (s : State) (p ia : Nat) (u : Use) : OnlyTlb s (s.touch p ia u) := ⟨rfl, fun _ => rfl⟩

theorem State.xlateMiss_leaves (s : State) (w : Who) (k : Kind) (u : Use) (va : Nat) :
    (s.xlateMiss w k u va).Leaves (OnlyTlb s) := by
  unfold State.xlateMiss
  refine (s.stage1_leaves w k va).bind (fun _ h => h) (fun l t h => ?_)
  split
  · split
    · exact h
    · refine (Acc.Leaves.trans h (t.stage2_leaves _ _ _ _)).bind (fun _ h => h) (fun key r hr => ?_)
      exact ((hr.trans (r.touch_only _ _ _)).trans (State.fillTlb_only _ _ _)).trans (State.fillDie_only _ _ _)
  · exact h

theorem State.place_leaves (s : State) (w : Who) (k : Kind) (u : Use) (va : Word) : (s.place w k u va).Leaves (OnlyTlb s) := by
  unfold State.place
  dsimp only
  repeat' first
    | exact s.xlateMiss_leaves _ _ _ _
    | exact s.s2stall_leaves _ _ _
    | exact (s.touch_only _ _ _).trans (State.fillTlb_only _ _ _)
    | exact OnlyTlb.refl s
    | split

/-- Translation changes nothing but the TLBs, the use state of pages, and what has missed in stage 2. -/
theorem State.xlate_leaves (s : State) (w : Who) (k : Kind) (u : Use) (va : Word) : (s.xlate w k u va).Leaves (OnlyTlb s) := by
  unfold State.xlate
  refine (s.place_leaves w k u va).bind (fun _ h => h) (fun key t h => ?_)
  split <;> exact h

/-- Reading a virtual address changes what translation changes. -/
theorem State.readVa_leaves (s : State) (w : Who) (k : Kind) (u : Use) (va : Word) (n : Nat) :
    (s.readVa w k u va n).Leaves (OnlyTlb s) := by
  unfold State.readVa
  refine (s.xlate_leaves w k u va).bind (fun _ h => h) (fun key t h => ?_)
  split <;> exact h

end Sys2Proof.Machine
end

