-- ==== Sys2Proof/Laws/Trap.lean ====
section
/-! SUPPORT. Laws of memory under stores, and of taking a trap (R102, R103). -/

namespace Sys2Proof.Machine

/-! ### Stores of whole bytes -/

theorem Memory.read_putCells_out (m : Memory) (cs : List (Nat × Byte × Byte)) {k : Nat} (h : ∀ c ∈ cs, c.1 ≠ k) :
    (m.putCells cs).read k = m.read k := by
  induction cs generalizing m with
  | nil => rfl
  | cons c cs ih =>
    obtain ⟨j, b, x⟩ := c
    rw [Memory.putCells, ih _ (fun c hc => h c (List.mem_cons_of_mem _ hc)), Memory.read_write_ne]
    exact (h (j, b, x) (by simp)).symm

theorem Memory.putCells_append (m : Memory) (cs ds : List (Nat × Byte × Byte)) :
    m.putCells (cs ++ ds) = (m.putCells cs).putCells ds := by
  induction cs generalizing m with
  | nil => rfl
  | cons c cs ih => obtain ⟨j, b, x⟩ := c; simp only [List.cons_append, Memory.putCells, ih]

/-- The cells of a value, lowest first. -/
theorem cellsOf_succ (k n x : Nat) :
    cellsOf k (n + 1) x = (k, BitVec.ofNat 8 x, 0xFF#8) :: cellsOf (k + 1) n (x / 256) := by
  unfold cellsOf
  rw [List.range_succ_eq_map, List.map_cons, List.map_map]
  simp only [Nat.mul_zero, Nat.shiftRight_zero, Nat.add_zero, List.cons.injEq, true_and]
  apply List.map_congr_left
  intro i _
  simp only [Function.comp_apply, Nat.succ_eq_add_one, Nat.shiftRight_eq_div_pow, Nat.div_div_eq_div_mul]
  rw [show 8 * (i + 1) = 8 + 8 * i by ring, Nat.pow_add]
  simp [Nat.add_comm, Nat.add_left_comm]

theorem mem_cellsOf {k n x : Nat} {c : Nat × Byte × Byte} (h : c ∈ cellsOf k n x) : k ≤ c.1 ∧ c.1 < k + n := by
  unfold cellsOf at h
  obtain ⟨i, hi, rfl⟩ := List.mem_map.mp h
  have := List.mem_range.mp hi
  dsimp only
  omega

/-- A value stored is the value read back (R5). -/
theorem Memory.readLE_putCells_cellsOf (m : Memory) (k n x : Nat) :
    (m.putCells (cellsOf k n x)).readLE k n = x % 256 ^ n := by
  induction n generalizing m k x with
  | zero => simp [Memory.readLE, Memory.readList, leNat, Nat.mod_one]
  | succ n ih =>
    rw [cellsOf_succ, Memory.putCells]
    have h0 := Memory.read_putCells_out (m.write k (putBits (m.read k) 0xFF#8 (BitVec.ofNat 8 x)))
      (cellsOf (k + 1) n (x / 256)) (k := k) (fun c hc => by have := mem_cellsOf hc; omega)
    have h1 := ih (m.write k (putBits (m.read k) 0xFF#8 (BitVec.ofNat 8 x))) (k + 1) (x / 256)
    unfold Memory.readLE at h1 ⊢
    rw [Memory.readList, leNat, h1, h0, Memory.read_write_same]
    have h2 : putBits (m.read k) 0xFF#8 (BitVec.ofNat 8 x) = BitVec.ofNat 8 x := putBits_allOnes (n := 8) _ _
    rw [h2, BitVec.toNat_ofNat, show (2 : Nat) ^ 8 = 256 by norm_num, pow_succ', Nat.mod_mul]

/-- A value is read from bytes alone. -/
theorem Memory.readLE_congr {m m' : Memory} {k n : Nat} (h : ∀ i, k ≤ i → i < k + n → m.read i = m'.read i) :
    m.readLE k n = m'.readLE k n := by
  unfold Memory.readLE
  congr 1
  induction n generalizing k with
  | zero => rfl
  | succ n ih =>
    rw [Memory.readList, Memory.readList, h k (le_refl _) (by omega), ih (fun i hi hk => h i (by omega) (by omega))]

/-- A store elsewhere leaves a value alone. -/
theorem Memory.readLE_putCells_out (m : Memory) {cs : List (Nat × Byte × Byte)} {k n : Nat}
    (h : ∀ c ∈ cs, c.1 < k ∨ k + n ≤ c.1) : (m.putCells cs).readLE k n = m.readLE k n :=
  Memory.readLE_congr (fun i hi hk => Memory.read_putCells_out m cs (fun c hc he => by have := h c hc; omega))

/-! ### Taking a trap (R103) -/

@[simp] theorem State.hart_leaveCoop (s : State) (id i : Nat) : (s.leaveCoop id).hart i = s.hart i := by
  unfold State.leaveCoop; split <;> simp
@[simp] theorem State.me_leaveCoop (s : State) (id : Nat) : (s.leaveCoop id).me = s.me := by
  unfold State.leaveCoop; split <;> simp
@[simp] theorem State.cur_leaveCoop (s : State) (id : Nat) : (s.leaveCoop id).cur = s.cur := by
  unfold State.leaveCoop; split <;> rfl
@[simp] theorem State.mem_leaveCoop (s : State) (id : Nat) : (s.leaveCoop id).mem = s.mem := by
  unfold State.leaveCoop; split <;> rfl
/-- Leaving a cooperative operation changes the hart's cluster alone (R246). -/
theorem State.leaveCoop_rest (s : State) (id : Nat) : s.leaveCoop id = { s with clusters := (s.leaveCoop id).clusters } := by
  unfold State.leaveCoop; split <;> rfl

/-- A store changes memory, the errors it heals and the lines watched. -/
theorem State.perform_rest (s : State) (cs : List (Nat × Byte × Byte)) : s.perform cs =
    { s with mem := s.mem.putCells cs, poisoned := (s.perform cs).poisoned, badSram := (s.perform cs).badSram,
             rewritten := (s.perform cs).rewritten, watched := (s.perform cs).watched } := rfl

/-- A store brings no error (R367, R368). -/
theorem State.perform_errors (s : State) (cs : List (Nat × Byte × Byte)) :
    (∀ l, l ∈ (s.perform cs).poisoned → l ∈ s.poisoned) ∧ ∀ l, l ∈ (s.perform cs).badSram → l ∈ s.badSram :=
  ⟨fun _ h => (List.mem_filter.mp h).1, fun _ h => (List.mem_filter.mp h).1⟩

@[simp] theorem State.hart_healRecord (s : State) (id i : Nat) : (s.healRecord id).hart i = s.hart i := rfl
@[simp] theorem State.me_healRecord (s : State) (id : Nat) : (s.healRecord id).me = s.me := rfl
@[simp] theorem State.cur_healRecord (s : State) (id : Nat) : (s.healRecord id).cur = s.cur := rfl
@[simp] theorem State.mem_healRecord (s : State) (id : Nat) : (s.healRecord id).mem = s.mem := rfl
/-- Writing the trap record brings no error. -/
theorem State.healRecord_errors (s : State) (id : Nat) : ∀ l, l ∈ (s.healRecord id).badSram → l ∈ s.badSram :=
  fun _ h => (List.mem_filter.mp h).1

@[simp] theorem Hart.rest_finish (h : Hart) : h.finish.rest = h.rest := by
  unfold Hart.rest; simp

/-- The cells of the trap slot (R102). -/
def slotCells (id : Nat) (h : Hart) : List (Nat × Byte × Byte) :=
  cellsOf (slotKey id) 8 (h.getA 1).toNat ++ cellsOf (slotKey id + 8) 8 (h.getA 2).toNat
    ++ cellsOf (slotKey id + 16) 8 (h.getA 3).toNat ++ cellsOf (slotKey id + 24) 8 (h.getA 4).toNat

theorem State.takeTrap_eq {s : State} {id : Nat} {c : Cause} {v p : Word} {l : Option Lent} {m : Bool}
    (htb : (s.hart id).tb = false) : s.takeTrap id c v p l m =
      (((s.leaveCoop id).perform (slotCells id (s.hart id).finish)).healRecord id).setHart id
        ((s.hart id).finish.enter c v p l m) := by
  unfold State.takeTrap
  have : (s.hart id).finish.tb = false := by simpa [Hart.tb] using htb
  simp only [State.hart_leaveCoop, this]
  rfl

theorem mkHctl_fields (tb : Bool) (rm : BitVec 2) (chk mode : Bool) :
    (mkHctl tb rm chk mode).getLsbD 0 = mode ∧ (mkHctl tb rm chk mode).getLsbD 1 = chk ∧
      (mkHctl tb rm chk mode).extractLsb' 2 2 = rm ∧ (mkHctl tb rm chk mode).getLsbD 4 = tb := by
  cases tb <;> cases chk <;> cases mode <;> (revert rm; decide)

/-- A trap that is no double trap. -/
theorem trapped_takeTrap {s : State} {c : Cause} {v p : Word} {l : Option Lent} {m : Bool} (htb : s.me.tb = false) :
    Trapped s (s.takeTrap s.cur c v p l m) c v p := by
  rw [State.takeTrap_eq (by exact htb)]
  have hm : ∀ k, ((((s.leaveCoop s.cur).perform (slotCells s.cur (s.hart s.cur).finish)).healRecord s.cur).setHart s.cur k).me = k := by
    intro k
    have : ∀ u : State, u.cur = s.cur → (u.setHart s.cur k).me = k := fun u hu => by
      rw [← hu]; exact State.me_setMe u k
    exact this _ (by simp)
  constructor <;> (try rw [hm])
  · simp
  · rfl
  · simp [Hart.enter, State.me]
  · rfl
  · rfl
  · rfl
  · simp [Hart.enter, Hart.priv, State.me]
    cases h : (s.hart s.cur).hctl[0] <;> cases m <;> rfl
  · exact (mkHctl_fields true _ _ true).1
  · exact (mkHctl_fields true _ _ true).2.2.2
  · rfl

/-- What a trap that is no double trap leaves (R103). -/
theorem trapFrame_takeTrap {s : State} {c : Cause} {v p : Word} {l : Option Lent} {m : Bool} (htb : s.me.tb = false) :
    TrapFrame s (s.takeTrap s.cur c v p l m) := by
  rw [State.takeTrap_eq (by exact htb)]
  have hm : ∀ k, ((((s.leaveCoop s.cur).perform (slotCells s.cur (s.hart s.cur).finish)).healRecord s.cur).setHart s.cur k).me = k := by
    intro k
    have : ∀ u : State, u.cur = s.cur → (u.setHart s.cur k).me = k := fun u hu => by
      rw [← hu]; exact State.me_setMe u k
    exact this _ (by simp)
  have hmem : ((((s.leaveCoop s.cur).perform (slotCells s.cur (s.hart s.cur).finish)).healRecord s.cur).setHart s.cur
      ((s.hart s.cur).finish.enter c v p l m)).mem = s.mem.putCells (slotCells s.cur s.me.finish) := by
    simp [State.me]
  have hf := mkHctl_fields true s.me.finish.rm s.me.finish.chk true
  constructor
  · rw [hm]; exact ⟨rfl, rfl, rfl, rfl⟩
  · rw [hm]; simp [State.me]
  · intro k hk
    rw [hmem]
    have out : ∀ {j n x y : Nat} {m : Memory}, (j + 8 ≤ y ∨ y + n ≤ j) →
        (m.putCells (cellsOf j 8 x)).readLE y n = m.readLE y n := fun {j n x y m} h =>
      Memory.readLE_putCells_out m (fun c hc => by have := mem_cellsOf hc; omega)
    have same : ∀ {j : Nat} {x : Word} {m : Memory}, (m.putCells (cellsOf j 8 x.toNat)).readLE j 8 = x.toNat :=
      fun {j x m} => by rw [Memory.readLE_putCells_cellsOf]; exact Nat.mod_eq_of_lt x.isLt
    unfold slotCells
    simp only [Memory.putCells_append]
    obtain rfl | rfl | rfl | rfl : k = 0 ∨ k = 1 ∨ k = 2 ∨ k = 3 := by omega
    · rw [out (by omega), out (by omega), out (by omega)]; exact same
    · rw [out (by omega), out (by omega)]; exact same
    · rw [out (by omega)]; exact same
    · exact same
  · intro k hk
    rw [hmem, Memory.read_putCells_out]
    intro c hc
    simp only [slotCells, List.mem_append] at hc
    obtain ((hc | hc) | hc) | hc := hc <;> (have := mem_cellsOf hc; omega)
  · rw [hm]
    exact ⟨hf.2.2.1.trans (by simp [Hart.rm]), hf.2.1.trans (by simp [Hart.chk])⟩
  · rw [hm]; simp [Hart.enter, State.me]
  · rw [hm]; simp [Hart.enter, Hart.rest, State.me]
  · rw [State.leaveCoop_rest]; rfl
  · rfl
  · have h := (s.leaveCoop s.cur).perform_errors (slotCells s.cur (s.hart s.cur).finish)
    have h' := fun l hl => h.2 l (State.healRecord_errors _ s.cur l hl)
    have h1 := h.1
    rw [State.leaveCoop_rest] at h1 h' ⊢
    exact ⟨h1, h'⟩
  · intro id hid
    rw [State.hart_setHart_ne _ _ hid]; simp

end Sys2Proof.Machine
end

