-- ==== Sys2Proof/Laws/Vector.lean ====
section
/-! SUPPORT. Laws of vector registers: where elements lie (R14), what a loop over elements writes, and the element-wise
forms once for all (R113). -/

namespace Sys2Proof.Machine

/-! ### Where elements lie (R14, R15, R36) -/

theorem fmtWidth_cases (f : BitVec 4) :
    fmtWidth f = 4 ∨ fmtWidth f = 8 ∨ fmtWidth f = 16 ∨ fmtWidth f = 32 ∨ fmtWidth f = 64 := by revert f; decide

theorem fmtWidth_pos (f : BitVec 4) : 0 < fmtWidth f := by
  rcases fmtWidth_cases f with h | h | h | h | h <;> omega

/-- The lane maps of R23: every group works, or all but one. -/
def LanesGood (h : Hart) : Prop := h.lmap = lmapOf 0xFFFF ∨ ∃ g, g < 16 ∧ h.lmap = lmapOf (~~~(1#16 <<< g))

theorem lanes_gap {h : Hart} (hl : LanesGood h) :
    (h.lanes = 64 ∧ h.gap = none) ∨ ∃ g, g < 16 ∧ h.lanes = 60 ∧ h.gap = some g := by
  rcases hl with e | ⟨g, hg, e⟩
  · left; unfold Hart.lanes Hart.gap; rw [e]; decide
  · right
    refine ⟨g, hg, ?_⟩
    unfold Hart.lanes Hart.gap; rw [e]
    interval_cases g <;> decide

theorem physLane_lt {h : Hart} (hl : LanesGood h) {j : Nat} (hj : j < h.lanes) : physLane h.gap j < 64 := by
  rcases lanes_gap hl with ⟨h1, h2⟩ | ⟨g, _, h1, h2⟩ <;> rw [h2] <;> unfold physLane <;> dsimp only
  · omega
  · split <;> omega

theorem physLane_inj {h : Hart} (hl : LanesGood h) {j k : Nat}
    (he : physLane h.gap j = physLane h.gap k) : j = k := by
  rcases lanes_gap hl with ⟨_, h2⟩ | ⟨g, _, _, h2⟩ <;> rw [h2] at he <;> unfold physLane at he <;> dsimp only at he
  · exact he
  · split at he <;> split at he <;> omega

theorem lanes_pos {h : Hart} (hl : LanesGood h) : 0 < h.lanes := by
  rcases lanes_gap hl with ⟨h1, _⟩ | ⟨_, _, h1, _⟩ <;> omega

theorem lt_vlmax {h : Hart} (f : BitVec 4) (i : Nat) (hi : i < h.vlmax (fmtWidth f)) (hl : LanesGood h) :
    fmtWidth f * (i / h.lanes) + fmtWidth f ≤ 256 := by
  have hp := lanes_pos hl
  unfold Hart.vlmax at hi
  have key : ∀ n, i < n * h.lanes → i / h.lanes < n := fun n hn => (Nat.div_lt_iff_lt_mul hp).2 hn
  rcases fmtWidth_cases f with e | e | e | e | e <;> rw [e] at hi ⊢
  · have := key 64 (by omega); omega
  · have := key 32 (by omega); omega
  · have := key 16 (by omega); omega
  · have := key 8 (by omega); omega
  · have := key 4 (by omega); omega

/-- An element below VLMAX lies within the register. -/
theorem bitPos_le {h : Hart} (hl : LanesGood h) (f : BitVec 4) {i : Nat} (hi : i < h.vlmax (fmtWidth f)) :
    h.bitPos (fmtWidth f) i + fmtWidth f ≤ 16384 := by
  have h1 := lt_vlmax f i hi hl
  have h2 := physLane_lt hl (Nat.mod_lt i (lanes_pos hl))
  unfold Hart.bitPos Hart.lane
  omega

/-- Two elements below VLMAX share no bit. -/
theorem bitPos_apart {h : Hart} (hl : LanesGood h) (f : BitVec 4) {i j : Nat} (hi : i < h.vlmax (fmtWidth f))
    (hj : j < h.vlmax (fmtWidth f)) (hij : i ≠ j) :
    h.bitPos (fmtWidth f) i + fmtWidth f ≤ h.bitPos (fmtWidth f) j ∨
      h.bitPos (fmtWidth f) j + fmtWidth f ≤ h.bitPos (fmtWidth f) i := by
  have h1 := lt_vlmax f i hi hl
  have h2 := lt_vlmax f j hj hl
  unfold Hart.bitPos Hart.lane
  by_cases hlane : i % h.lanes = j % h.lanes
  · have hd : i / h.lanes ≠ j / h.lanes := fun e => hij (by
      rw [← Nat.div_add_mod i h.lanes, ← Nat.div_add_mod j h.lanes, hlane, e])
    rw [hlane]
    rcases Nat.lt_or_gt_of_ne hd with hd | hd
    · left
      have : fmtWidth f * (i / h.lanes + 1) ≤ fmtWidth f * (j / h.lanes) := Nat.mul_le_mul_left _ hd
      rw [Nat.mul_succ] at this
      omega
    · right
      have : fmtWidth f * (j / h.lanes + 1) ≤ fmtWidth f * (i / h.lanes) := Nat.mul_le_mul_left _ hd
      rw [Nat.mul_succ] at this
      omega
  · have hne : physLane h.gap (i % h.lanes) ≠ physLane h.gap (j % h.lanes) := fun e => hlane (physLane_inj hl e)
    omega

theorem getLsbD_lowMask {w : Nat} (hw : w ≤ 16384) (i : Nat) : (lowMask w).getLsbD i = decide (i < w) := by
  have : lowMask w = (BitVec.allOnes w).setWidth 16384 := by
    apply BitVec.eq_of_toNat_eq
    simp [lowMask]
  rw [this, BitVec.getLsbD_setWidth, BitVec.getLsbD_allOnes]
  by_cases h : i < w
  · simp [h]; omega
  · simp [h]

/-! ### What a list of element writes comes to -/

/-- The writes of elements, in order: number and value. -/
def putElems (h : Hart) (w : Nat) (ws : List (Nat × Nat)) (l : Lanes) : Lanes :=
  ws.foldl (fun l e => l.put (h.bitPos w e.1) w e.1 e.2) l

/-- The lanes `l` hold exactly the elements that `v` names. -/
def Holds (h : Hart) (f : BitVec 4) (l : Lanes) (v : Nat → Option Nat) : Prop :=
  ∀ j, j < h.vlmax (fmtWidth f) → ∀ b, b < fmtWidth f →
    l.mask.getLsbD (h.bitPos (fmtWidth f) j + b) = (v j).isSome ∧
      ∀ x, v j = some x → l.val.getLsbD (h.bitPos (fmtWidth f) j + b) = x.testBit b

theorem holds_empty (h : Hart) (f : BitVec 4) : Holds h f Lanes.empty (fun _ => none) := by
  intro j _ b _
  simp [Lanes.empty]

theorem holds_put {h : Hart} (hl : LanesGood h) {f : BitVec 4} {l : Lanes} {v : Nat → Option Nat} (hv : Holds h f l v)
    {i : Nat} (hi : i < h.vlmax (fmtWidth f)) (x : Nat) :
    Holds h f (l.put (h.bitPos (fmtWidth f) i) (fmtWidth f) i x) (fun j => if j = i then some x else v j) := by
  intro j hj b hb
  have hw : fmtWidth f ≤ 16384 := by have := bitPos_le hl f hi; omega
  have hjb := bitPos_le hl f hj
  have hin : h.bitPos (fmtWidth f) j + b < 16384 := by omega
  obtain ⟨h1, h2⟩ := hv j hj b hb
  have key : ((lowMask (fmtWidth f)) <<< h.bitPos (fmtWidth f) i).getLsbD (h.bitPos (fmtWidth f) j + b) = decide (j = i) := by
    rw [BitVec.getLsbD_shiftLeft, getLsbD_lowMask hw]
    by_cases hji : j = i
    · subst hji; simp [hin, hb]
    · have := bitPos_apart hl f hi hj (Ne.symm hji)
      simp only [hji, decide_false, hin, decide_true, Bool.true_and, Bool.and_eq_false_iff]
      rcases this with h3 | h3
      · right; simp; omega
      · left; simp; omega
  have bits : (BitVec.ofNat 16384 (x % 2 ^ fmtWidth f) <<< h.bitPos (fmtWidth f) i).getLsbD (h.bitPos (fmtWidth f) j + b) =
      (decide (j = i) && x.testBit b) := by
    rw [BitVec.getLsbD_shiftLeft, BitVec.getLsbD_ofNat]
    by_cases hji : j = i
    · subst hji
      have hb' : b < 16384 := by omega
      simp [hin, hb, hb', Nat.testBit_mod_two_pow]
    · have := bitPos_apart hl f hi hj (Ne.symm hji)
      simp only [hji, decide_false, Bool.false_and]
      rcases this with h3 | h3
      · rw [Nat.testBit_mod_two_pow]
        have h4 : ¬ (h.bitPos (fmtWidth f) j + b - h.bitPos (fmtWidth f) i < fmtWidth f) := by omega
        simp [h4]
      · have h4 : h.bitPos (fmtWidth f) j + b < h.bitPos (fmtWidth f) i := by omega
        simp [h4]
  unfold Lanes.put
  dsimp only
  rw [BitVec.getLsbD_or, key, h1]
  constructor
  · by_cases hji : j = i <;> simp [hji]
  · intro y hy
    rw [BitVec.getLsbD_or, BitVec.getLsbD_and, BitVec.getLsbD_not, key, bits]
    by_cases hji : j = i
    · simp only [hji, if_true, Option.some.injEq] at hy
      simp [hji, hy]
    · simp only [hji, if_false] at hy
      have := h2 y hy
      rw [BitVec.getLsbD_eq_getElem hin] at this ⊢
      simp [hji, this]
      exact fun _ => hin

/-- What a hart reads of an element when lanes have been written over a register. -/
theorem elem_putBits {h : Hart} {f : BitVec 4} {l : Lanes} {v : Nat → Option Nat} (hv : Holds h f l v)
    (old : BitVec 16384) {j : Nat} (hj : j < h.vlmax (fmtWidth f)) :
    ((putBits old l.mask l.val).toNat >>> h.bitPos (fmtWidth f) j) % 2 ^ fmtWidth f =
      ((v j).map (· % 2 ^ fmtWidth f)).getD ((old.toNat >>> h.bitPos (fmtWidth f) j) % 2 ^ fmtWidth f) := by
  apply Nat.eq_of_testBit_eq
  intro b
  by_cases hb : b < fmtWidth f
  · obtain ⟨h1, h2⟩ := hv j hj b hb
    have e : ∀ x : BitVec 16384, ((x.toNat >>> h.bitPos (fmtWidth f) j) % 2 ^ fmtWidth f).testBit b =
        x.getLsbD (h.bitPos (fmtWidth f) j + b) := fun x => by
      rw [Nat.testBit_mod_two_pow, Nat.testBit_shiftRight]; simp [hb, BitVec.getLsbD]
    rw [e, getLsbD_putBits, h1]
    cases hvj : v j with
    | none => simp [e]
    | some x => simp [h2 x hvj, Nat.testBit_mod_two_pow, hb]
  · have e : ∀ x : Nat, (x % 2 ^ fmtWidth f).testBit b = false := fun x => by
      rw [Nat.testBit_mod_two_pow]; simp [hb]
    rw [e]
    cases v j <;> simp [e]

/-! ### Element loops with operand b at hand (R113) -/

/-- Operand b of element i where it is no stream. -/
def opAt (b : VOp) (w : Nat) (h : Hart) (i : Nat) : Nat :=
  match b with
  | .vec r => h.elem r w i
  | .sca r => (h.getA r).toNat % 2 ^ w
  | .str _ => 0

theorem operand_atHand {b : VOp} (hb : atHand b = true) (s : State) (w i : Nat) (h : Hart) :
    s.operand b w i h = .ok (opAt b w h i) s := by
  cases b with
  | vec r => rfl
  | sca r => rfl
  | str r => simp [atHand] at hb

theorem vecLoop_atHand {b : VOp} (hb : atHand b = true) (act : BitVec 4096) (h : Hart)
    (f : Nat → Bool → Nat → Out → Out) (is : List Nat) (o : Out) (s : State) :
    vecLoop act b h f is o s =
      .fin (is.foldl (fun o i => if h.todo i then f i (act.getLsbD i) (opAt b h.width h i) o else o) o) s := by
  induction is generalizing o with
  | nil => rfl
  | cons i is ih =>
    unfold vecLoop
    split
    · rw [operand_atHand hb]; simp only [ih, List.foldl_cons]; rw [if_pos ‹_›]
    · simp only [ih, List.foldl_cons]; rw [if_neg ‹_›]

/-- What the fold of a loop whose element function writes register d holds: the elements taken up that it names. -/
theorem fold_holds {h : Hart} (hl : LanesGood h) (hw : h.width = fmtWidth h.fmt) (g : Nat → Option (Nat × BitVec 8)) (n : Nat)
    (hn : n ≤ h.vlmax h.width) (ok : Nat → Bool) :
    Holds h h.fmt
      ((List.range n).foldl (fun o i => if ok i then
        (match g i with | some r => (o.elem h h.width i r.1).flags r.2 | none => o) else o) Out.empty).d
      (fun i => if i < n ∧ ok i = true then (g i).map (fun r => r.1) else none) := by
  induction n with
  | zero =>
    have := holds_empty h h.fmt
    simpa [Out.empty] using this
  | succ n ih =>
    have ih := ih (by omega)
    rw [List.range_succ, List.foldl_append, List.foldl_cons, List.foldl_nil]
    generalize hO : (List.range n).foldl _ Out.empty = O at ih ⊢
    have skip : (∀ j, (if j < n + 1 ∧ ok j = true then (g j).map (fun r => r.1) else none) =
        if j < n ∧ ok j = true then (g j).map (fun r => r.1) else none) → Holds h h.fmt O.d
        (fun i => if i < n + 1 ∧ ok i = true then (g i).map (fun r => r.1) else none) := fun e => by
      simpa only [e] using ih
    by_cases hok : ok n = true
    · rw [if_pos hok]
      cases hg : g n with
      | none =>
        apply skip
        intro j
        by_cases hj : j = n
        · subst hj; simp [hg]
        · have : (j < n + 1) = (j < n) := by apply propext; omega
          simp only [this]
      | some r =>
        have hp := holds_put hl ih (i := n) (by rw [← hw]; omega) r.1
        have e : ((O.elem h h.width n r.1).flags r.2).d = O.d.put (h.bitPos (fmtWidth h.fmt) n) (fmtWidth h.fmt) n r.1 := by
          rw [← hw]; rfl
        dsimp only
        rw [e]
        refine cast ?_ hp
        congr 1
        funext j
        by_cases hj : j = n
        · subst hj; simp [hok, hg]
        · have : (j < n + 1) = (j < n) := by apply propext; omega
          simp only [hj, if_false, this]
    · rw [if_neg hok]
      apply skip
      intro j
      by_cases hj : j = n
      · subst hj; simp [hok]
      · have : (j < n + 1) = (j < n) := by apply propext; omega
        simp only [this]

/-! ### The element-wise forms once for all -/

theorem vecReady_lanes {s : State} (hr : VecReady s) : LanesGood s.seen.me := by
  unfold LanesGood; simpa using hr.lanes

theorem opAt_seen {s : State} {b : VOp} (i : Nat) : opAt b s.me.width s.seen.me i = s.opEl b i := by
  cases b <;> rfl

theorem putBits_zero {n : Nat} (x y : BitVec n) : putBits x 0 y = x := by
  apply BitVec.eq_of_getLsbD_eq
  intro i _
  rw [getLsbD_putBits]
  simp

theorem Out.flags_zero (o : Out) : o.flags 0 = o := by
  unfold Out.flags; simp

/-- A vector form whose sources may be read passes its checks. -/
theorem vec_clear {s : State} {i : Info} {srcs : List Dst} (hc : Clear s srcs) (hr : VecReady s)
    (hsub : ∀ d ∈ i.reads, d ∈ srcs) (hon : i.on = .vector) (hcsr : i.illCsr = false) (hill : i.ill = false)
    (hpriv : i.priv = false) (hlend : i.lending ≠ .whole) :
    issueCheck i s.seen = none ∧ skipped i s.seen.me = false := by
  refine ⟨issueCheck_of_clear hc hsub ?_ (fun _ => hr.type) hcsr hill (fun h => ?_),
    skipped_of_clear (by simpa using hc.plain) (fun h => absurd h hlend)⟩
  · have : isControl s.cur = false := by simpa [isControl] using hr.hart
    simp [hon, On.holds, this]
  · rw [hpriv] at h; cases h

/-- With nothing lent, element i is active by the p field alone. -/
theorem activeMask_seen {s : State} {i : Info} (hl : s.me.lent = none) {p : BitVec 3} (hp : i.pred = some p) {k : Nat}
    (hk : k < 4096) : (activeMask i s.seen.me).getLsbD k = s.active p k := by
  have hl' : s.seen.me.lent = none := by simpa using hl
  simp only [activeMask, predOf, hl', fieldPred, hp, State.active]
  by_cases h0 : p = 0
  · subst h0
    show (BitVec.allOnes 4096).getLsbD k = _
    rw [BitVec.getLsbD_allOnes]
    simp [hk]
  · have : (p != 0) = true := by simpa using h0
    have h0' : (p == 0) = false := by simpa using h0
    rw [if_pos this, h0']
    simp

theorem settle_flag (h : Hart) (f : BitVec 8) (t : Nat) :
    (∀ r, ((h.flag f).settle t).getA r = (h.settle t).getA r) ∧ (∀ r, ((h.flag f).settle t).getV r = (h.settle t).getV r) ∧
      (∀ r, ((h.flag f).settle t).getM r = (h.settle t).getM r) := Hart.settle_regs t rfl rfl rfl rfl

theorem settle_progress0 (h : Hart) (t : Nat) :
    (∀ r, ((h.progress0).settle t).getA r = (h.settle t).getA r) ∧
      (∀ r, ((h.progress0).settle t).getV r = (h.settle t).getV r) ∧
      (∀ r, ((h.progress0).settle t).getM r = (h.settle t).getM r) := Hart.settle_regs t rfl rfl rfl rfl

theorem settle_mark (h : Hart) (r : Reg) (n t : Nat) :
    (∀ q, ((h.mark r n).settle t).getA q = (h.settle t).getA q) ∧
      (∀ q, ((h.mark r n).settle t).getV q = (h.settle t).getV q) ∧
      (∀ q, ((h.mark r n).settle t).getM q = (h.settle t).getM q) := Hart.settle_regs t rfl rfl rfl rfl

theorem settle_putLanes (h : Hart) (r : Reg) (l : Lanes) (lat t : Nat) :
    (∀ q, ((h.putLanes r l lat).settle t).getA q = (h.settle t).getA q) ∧
      (∀ q, q ≠ r → ((h.putLanes r l lat).settle t).getV q = (h.settle t).getV q) ∧
      (h.now + lat ≤ t → ((h.putLanes r l lat).settle t).getV r = putBits ((h.settle t).getV r) l.mask l.val) ∧
      (∀ q, ((h.putLanes r l lat).settle t).getM q = (h.settle t).getM q) := by
  unfold Hart.putLanes
  by_cases hm : l.mask = 0
  · rw [if_pos hm]
    refine ⟨fun _ => rfl, fun _ _ => rfl, fun _ => ?_, fun _ => rfl⟩
    rw [hm, putBits_zero]
  · rw [if_neg hm]
    have h1 := settle_mark (h.write (.v r) l.mask l.val lat) r l.top t
    refine ⟨fun q => ?_, fun q hq => ?_, fun ht => ?_, fun q => ?_⟩
    · rw [h1.1, Hart.getA_settle_write_v]
    · rw [h1.2.1, Hart.getV_settle_write_ne _ _ _ _ _ hq]
    · rw [h1.2.1, Hart.getV_settle_write_at _ _ _ _ ht]
    · rw [h1.2.2, Hart.getM_settle_write_v]

theorem blind_noMarks : Blind noMarks := fun _ _ _ _ _ _ _ => rfl
theorem blind_noMarksFlags : Blind noMarksFlags := fun _ _ _ _ _ _ _ => rfl

@[simp] theorem rest_putLanes (h : Hart) (r : Reg) (l : Lanes) (lat : Nat) :
    (noMarksFlags (h.putLanes r l lat)).rest = (noMarksFlags h).rest := by
  unfold Hart.putLanes
  split
  · rfl
  · unfold Hart.mark noMarksFlags noMarks Hart.rest; simp

/-- The hart after an element-wise form that writes register d: its frame. -/
theorem bodyFrame_lanes {s : State} {d : Reg} {l : Lanes} {lat : Nat} {fl : BitVec 8} (hs : s.me.status ≠ .halted)
    (hl : s.me.lent = none) :
    BodyFrame s (((s.seen.me.putLanes d l lat).flag fl).progress0) { v := [d] } noMarksFlags := by
  have h0 : ∀ T, s.me.now ≤ T → s.seen.me.settle T = s.sees T := fun T hT => by
    simp only [State.me_seen]; exact Hart.settle_settle _ hT
  constructor
  · intro r _ T hT
    rw [(settle_progress0 _ T).1, (settle_flag _ _ T).1, (settle_putLanes _ _ _ _ T).1, h0 T hT]
  · intro r hr T hT
    rw [(settle_progress0 _ T).2.1, (settle_flag _ _ T).2.1, (settle_putLanes _ _ _ _ T).2.1 _ (by simpa using hr), h0 T hT]
  · intro r _ T hT
    rw [(settle_progress0 _ T).2.2, (settle_flag _ _ T).2.2, (settle_putLanes _ _ _ _ T).2.2.2, h0 T hT]
  · intro r _; simp [Hart.getS, Hart.flag, Hart.progress0]
  · show (noMarksFlags (s.seen.me.putLanes d l lat)).rest = _
    rw [rest_putLanes]
    unfold noMarksFlags noMarks Hart.rest; simp
  all_goals simp [hl, hs, Hart.priv, Hart.flag, Hart.progress0]

/-- The flags of a fold over elements. -/
theorem flagged_fold (s : State) (g : Nat → BitVec 8) (F : Out → Nat → Out) (hF : ∀ o k, (F o k).fl = o.fl ||| g k) :
    ((List.range s.me.vl.toNat).foldl (fun o k => if s.seen.me.todo k then F o k else o) Out.empty).fl = s.flagged g := by
  have htodo : ∀ k, s.seen.me.todo k = s.me.todo k := fun k => by simp [Hart.todo, Hart.lane, Hart.lanes, Hart.gap]
  unfold State.flagged
  suffices H : ∀ (is : List Nat) (o : Out) (f : BitVec 8), o.fl = f →
      (is.foldl (fun o k => if s.seen.me.todo k then F o k else o) o).fl =
      is.foldl (fun f k => if s.me.todo k then f ||| g k else f) f by
    exact H _ _ _ rfl
  intro is
  induction is with
  | nil => intro o f ho; exact ho
  | cons k is ih =>
    intro o f ho
    rw [List.foldl_cons, List.foldl_cons]
    apply ih
    rw [htodo]
    split
    · rw [hF, ho]
    · exact ho

theorem flagged_zero (s : State) (g : Nat → BitVec 8) (h : ∀ k, g k = 0) : s.flagged g = 0 := by
  unfold State.flagged
  generalize List.range s.me.vl.toNat = is
  induction is with
  | nil => rfl
  | cons k is ih => rw [List.foldl_cons, h]; simpa using ih

/-- An element-wise form with operand b at hand meets no error but at issue (R367). -/
theorem vecForm_atHand {b : VOp} (hb : atHand b = true) (i : Info) (f : Hart → Nat → Bool → Nat → Out → Out)
    (emit : Out → Hart → Hart) (s : State) : vecForm i b f emit s = run i s (fun s =>
      let n := s.me.vl.toNat
      let q := s.streamCut b i.srcs (activeMask i s.me) n
      (vecLoop (activeMask i s.me) b s.me (f s.me) (upTo q.1 n) Out.empty q.2).res s q.1 n emit) := by
  have h : popsStream b = false := by cases b <;> first | rfl | simp [atHand] at hb
  unfold vecForm
  rw [h]
  rfl

/-- An element-wise form with operand b at hand, whose element function writes register d: it completes, and every
instruction issued `lat` cycles after it or later finds in d the elements that `g` names (R113). -/
theorem vecForm_gives {s : State} {i : Info} {b : VOp} {d : Reg} {lat : Nat} {f : Hart → Nat → Bool → Nat → Out → Out}
    (g : Nat → Option (Nat × BitVec 8)) (hb : atHand b = true) (hr : VecReady s) (hs : s.me.status ≠ .halted)
    (hl : s.me.lent = none) (h1 : issueCheck i s.seen = none) (h2 : skipped i s.seen.me = false)
    (hf : ∀ k o, f s.seen.me k ((activeMask i s.seen.me).getLsbD k) (s.opEl b k) o =
      match g k with | some r => (o.elem s.seen.me s.seen.me.width k r.1).flags r.2 | none => o) :
    ∃ t, vecForm i b f (emitV d lat) s = .next t ∧ Registers s t i.wt s.after { v := [d] } noMarksFlags ∧
      GivesV s t lat d (fun k => if s.takes k then (g k).map (fun r => r.1 % 2 ^ s.me.width) else none) ∧
      t.me.fresh ∧ t.me.fstat = s.me.fstat ||| s.flagged (fun k => ((g k).map (fun r => r.2)).getD 0) := by
  have hw : s.seen.me.width = s.me.width := by simp [Hart.width, Hart.fmt]
  have hvl : s.seen.me.vl = s.me.vl := by simp
  have hcut : ∀ ds act n, s.seen.streamCut b ds act n = (none, s.seen) := by
    intro ds act n; cases b <;> first | rfl | simp [atHand] at hb
  let O := (List.range s.me.vl.toNat).foldl (fun o k => if s.seen.me.todo k then
    (match g k with | some r => (o.elem s.seen.me s.seen.me.width k r.1).flags r.2 | none => o) else o) Out.empty
  have hbody : (fun s : State =>
      let n := s.me.vl.toNat
      let q := s.streamCut b i.srcs (activeMask i s.me) n
      (vecLoop (activeMask i s.me) b s.me (f s.me) (upTo q.1 n) Out.empty q.2).res s q.1 n (emitV d lat)) s.seen =
      .done (s.seen.setMe (((s.seen.me.putLanes d O.d lat).flag O.fl).progress0)) := by
    dsimp only
    rw [hcut]
    dsimp only
    rw [vecLoop_atHand hb]
    simp only [hw, opAt_seen, hf, hvl, upTo, O, Loop.res, State.endOrStop, emitV, State.me_setMe, State.setMe_setMe]
  refine ⟨_, (vecForm_atHand hb i f (emitV d lat) s).trans (run_done h1 h2 hbody), ?_, ?_, ?_, ?_⟩
  · have hpc : (s.seen.setMe (((s.seen.me.putLanes d O.d lat).flag O.fl).progress0)).me.pc + 4 = s.after := by
      simp [State.after, Hart.flag, Hart.progress0]
    rw [hpc]
    exact registers_body (bodyFrame_lanes hs hl) blind_noMarksFlags
  · intro T hT k hk
    have hld : (s.seen.setMe (((s.seen.me.putLanes d O.d lat).flag O.fl).progress0)).me.lent = none := by
      simp [hl, Hart.flag, Hart.progress0]
    have hst : (s.seen.setMe (((s.seen.me.putLanes d O.d lat).flag O.fl).progress0)).me.status ≠ .halted := by
      simp [hs, Hart.flag, Hart.progress0]
    have hv := ((State.sees_retire (i := i) (c := true)
      (pc := (s.seen.setMe (((s.seen.me.putLanes d O.d lat).flag O.fl).progress0)).me.pc + 4) hld hst T).2.1 d)
    have hlmap : ∀ u : State, u.me.lmap = s.me.lmap → (u.sees T).bitPos s.me.width k = s.seen.me.bitPos s.me.width k := by
      intro u hu; unfold State.sees Hart.bitPos Hart.lane Hart.lanes Hart.gap; simp [hu]
    unfold Hart.elem
    rw [hlmap _ (by rw [State.me_retire hld hst]; simp [Hart.flag, Hart.progress0]), hlmap s rfl, hv]
    simp only [State.sees, State.me_setMe]
    rw [(settle_progress0 _ T).2.1, (settle_flag _ _ T).2.1, (settle_putLanes _ _ _ _ T).2.2.1 (by simpa using hT)]
    have h0 : s.seen.me.settle T = s.me.settle T := by simp only [State.me_seen]; exact Hart.settle_settle _ (by omega)
    rw [h0]
    have hlg := vecReady_lanes hr
    have hfmt : s.seen.me.fmt = s.me.fmt := by simp [Hart.fmt]
    have hvm : s.seen.me.vlmax s.me.width = s.me.vlmax s.me.width := by simp [Hart.vlmax, Hart.lanes]
    have hH := fold_holds hlg rfl g s.me.vl.toNat (by rw [hw, hvm]; exact hr.fits) s.seen.me.todo
    have hk' : k < s.seen.me.vlmax (fmtWidth s.seen.me.fmt) := by rw [hfmt]; show k < s.seen.me.vlmax s.me.width; rw [hvm]; exact hk
    have he := elem_putBits hH ((s.me.settle T).getV d) hk'
    have hww : fmtWidth s.seen.me.fmt = s.me.width := by rw [hfmt]; rfl
    rw [hww] at he
    rw [he]
    have htodo : s.seen.me.todo k = s.me.todo k := by simp [Hart.todo, Hart.lane, Hart.lanes, Hart.gap]
    unfold State.takes
    rw [htodo]
    by_cases hc : k < s.me.vl.toNat ∧ s.me.todo k = true
    · rw [if_pos hc, if_pos (by simpa using hc), Option.map_map]
      rfl
    · rw [if_neg hc, if_neg (by simpa using hc)]; rfl
  · rw [State.me_retire (by simp [hl, Hart.flag, Hart.progress0]) (by simp [hs, Hart.flag, Hart.progress0])]
    simp [Hart.fresh, Hart.flag, Hart.progress0]
  · rw [State.me_retire (by simp [hl, Hart.flag, Hart.progress0]) (by simp [hs, Hart.flag, Hart.progress0])]
    have hfl : O.fl = s.flagged (fun k => ((g k).map (fun r => r.2)).getD 0) :=
      flagged_fold s _ (fun o k => match g k with
        | some r => (o.elem s.seen.me s.seen.me.width k r.1).flags r.2
        | none => o) (fun o k => by cases g k <;> simp [Out.flags, Out.elem])
    rw [← hfl]
    simp [Hart.flag, Hart.progress0]

/-! ### Forms that write a mask register -/

theorem settle_putMBits (h : Hart) (r : MReg) (x : MBits) (lat t : Nat) :
    (∀ q, ((h.putMBits r x lat).settle t).getA q = (h.settle t).getA q) ∧
      (∀ q, ((h.putMBits r x lat).settle t).getV q = (h.settle t).getV q) ∧
      (∀ q, q ≠ r → ((h.putMBits r x lat).settle t).getM q = (h.settle t).getM q) ∧
      (h.now + lat ≤ t → ((h.putMBits r x lat).settle t).getM r = putBits ((h.settle t).getM r) x.mask x.val) := by
  unfold Hart.putMBits
  by_cases hm : x.mask = 0
  · rw [if_pos hm]
    exact ⟨fun _ => rfl, fun _ => rfl, fun _ _ => rfl, fun _ => by rw [hm, putBits_zero]⟩
  · rw [if_neg hm]
    exact ⟨fun q => Hart.getA_settle_write_m _ _ _ _ _ _ _, fun q => Hart.getV_settle_write_m _ _ _ _ _ _ _,
      fun q hq => Hart.getM_settle_write_ne _ _ _ _ _ hq, fun ht => Hart.getM_settle_setM_at _ _ _ _ ht⟩

/-- The hart after an element-wise form that writes mask register d: its frame. -/
theorem bodyFrame_mbits {s : State} {d : MReg} {x : MBits} {lat : Nat} {fl : BitVec 8} (hs : s.me.status ≠ .halted)
    (hl : s.me.lent = none) :
    BodyFrame s (((s.seen.me.putMBits d x lat).flag fl).progress0) { m := [d] } noMarksFlags := by
  have h0 : ∀ T, s.me.now ≤ T → s.seen.me.settle T = s.sees T := fun T hT => by
    simp only [State.me_seen]; exact Hart.settle_settle _ hT
  have hr : ∀ h : Hart, (noMarksFlags (h.putMBits d x lat)).rest = (noMarksFlags h).rest := fun h => by
    unfold Hart.putMBits Hart.setM
    split
    · rfl
    · unfold noMarksFlags noMarks Hart.rest; simp
  constructor
  · intro r _ T hT
    rw [(settle_progress0 _ T).1, (settle_flag _ _ T).1, (settle_putMBits _ _ _ _ T).1, h0 T hT]
  · intro r _ T hT
    rw [(settle_progress0 _ T).2.1, (settle_flag _ _ T).2.1, (settle_putMBits _ _ _ _ T).2.1, h0 T hT]
  · intro r hr T hT
    rw [(settle_progress0 _ T).2.2, (settle_flag _ _ T).2.2, (settle_putMBits _ _ _ _ T).2.2.1 _ (by simpa using hr), h0 T hT]
  · intro r _; unfold Hart.putMBits Hart.setM; split <;> simp [Hart.getS, Hart.flag, Hart.progress0]
  · show (noMarksFlags (s.seen.me.putMBits d x lat)).rest = _
    rw [hr]
    unfold noMarksFlags noMarks Hart.rest; simp
  all_goals (unfold Hart.putMBits Hart.setM; split <;> simp [hl, hs, Hart.priv, Hart.flag, Hart.progress0])

/-- What the fold of a loop whose element function writes a mask register holds. -/
theorem fold_bits (g : Nat → Option (Bool × BitVec 8)) (n : Nat) (ok : Nat → Bool) (j : Nat) (hj : j < 4096) :
    let O := (List.range n).foldl (fun o i => if ok i then
      (match g i with | some r => (o.bit i r.1).flags r.2 | none => o) else o) Out.empty
    O.b.mask.getLsbD j = (decide (j < n) && ok j && (g j).isSome) ∧
      ∀ r, j < n → ok j = true → g j = some r → O.b.val.getLsbD j = r.1 := by
  induction n with
  | zero => simp [Out.empty, MBits.empty]
  | succ n ih =>
    have one : ∀ i : Nat, (1#4096 <<< i).getLsbD j = decide (j = i) := fun i => by
      rw [BitVec.getLsbD_shiftLeft, BitVec.getLsbD_one]
      by_cases hij : j = i
      · subst hij; simp [hj]
      · by_cases h2 : j < i
        · simp [hij, h2]
        · have : j - i ≠ 0 := by omega
          simp [hij, this]
    dsimp only at ih ⊢
    rw [List.range_succ, List.foldl_append, List.foldl_cons, List.foldl_nil]
    generalize (List.range n).foldl _ Out.empty = O at ih ⊢
    by_cases hok : ok n = true
    · rw [if_pos hok]
      cases hg : g n with
      | none =>
        refine ⟨?_, fun r hr ho he => ?_⟩
        · dsimp only; rw [ih.1]
          by_cases hjn : j = n
          · subst hjn; simp [hg]
          · have : (j < n + 1) = (j < n) := by apply propext; omega
            simp only [this]
        · by_cases hjn : j = n
          · subst hjn; rw [hg] at he; cases he
          · exact ih.2 r (by omega) ho he
      | some r =>
        refine ⟨?_, fun q hq ho he => ?_⟩
        · simp only [Out.flags, Out.bit, MBits.put, BitVec.getLsbD_or, one, ih.1]
          by_cases hjn : j = n
          · subst hjn; simp [hok, hg]
          · have : (j < n + 1) = (j < n) := by apply propext; omega
            simp [hjn, this]
        · simp only [Out.flags, Out.bit, MBits.put]
          by_cases hjn : j = n
          · subst hjn
            rw [hg] at he; cases he
            cases hr1 : r.1
            · rw [if_neg (by simp), BitVec.getLsbD_and, BitVec.getLsbD_not, one]; simp
            · rw [if_pos rfl, BitVec.getLsbD_or, one]; simp
          · have := ih.2 q (by omega) ho he
            split
            · rw [BitVec.getLsbD_or, one, this]; simp [hjn]
            · rw [BitVec.getLsbD_and, BitVec.getLsbD_not, one, this]; simp [hjn, hj]
    · rw [if_neg hok]
      refine ⟨?_, fun r hr ho he => ?_⟩
      · rw [ih.1]
        by_cases hjn : j = n
        · subst hjn; simp [hok]
        · have : (j < n + 1) = (j < n) := by apply propext; omega
          simp only [this]
      · by_cases hjn : j = n
        · subst hjn; exact absurd ho hok
        · exact ih.2 r (by omega) ho he

/-- An element-wise form with operand b at hand, whose element function writes mask register d (R113). -/
theorem vecForm_givesM {s : State} {i : Info} {b : VOp} {d : MReg} {lat : Nat} {f : Hart → Nat → Bool → Nat → Out → Out}
    (g : Nat → Option (Bool × BitVec 8)) (hb : atHand b = true) (hs : s.me.status ≠ .halted)
    (hl : s.me.lent = none) (h1 : issueCheck i s.seen = none) (h2 : skipped i s.seen.me = false)
    (hf : ∀ k o, f s.seen.me k ((activeMask i s.seen.me).getLsbD k) (s.opEl b k) o =
      match g k with | some r => (o.bit k r.1).flags r.2 | none => o) :
    ∃ t, vecForm i b f (emitM d lat) s = .next t ∧ Registers s t i.wt s.after { m := [d] } noMarksFlags ∧
      GivesM s t lat d (fun k => if s.takes k then (g k).map (fun r => r.1) else none) ∧
      t.me.fresh ∧ t.me.fstat = s.me.fstat ||| s.flagged (fun k => ((g k).map (fun r => r.2)).getD 0) := by
  have hw : s.seen.me.width = s.me.width := by simp [Hart.width, Hart.fmt]
  have hvl : s.seen.me.vl = s.me.vl := by simp
  have hcut : ∀ ds act n, s.seen.streamCut b ds act n = (none, s.seen) := by
    intro ds act n; cases b <;> first | rfl | simp [atHand] at hb
  let O := (List.range s.me.vl.toNat).foldl (fun o k => if s.seen.me.todo k then
    (match g k with | some r => (o.bit k r.1).flags r.2 | none => o) else o) Out.empty
  have hbody : (fun s : State =>
      let n := s.me.vl.toNat
      let q := s.streamCut b i.srcs (activeMask i s.me) n
      (vecLoop (activeMask i s.me) b s.me (f s.me) (upTo q.1 n) Out.empty q.2).res s q.1 n (emitM d lat)) s.seen =
      .done (s.seen.setMe (((s.seen.me.putMBits d O.b lat).flag O.fl).progress0)) := by
    dsimp only
    rw [hcut]
    dsimp only
    rw [vecLoop_atHand hb]
    simp only [hw, opAt_seen, hf, hvl, upTo, O, Loop.res, State.endOrStop, emitM, State.me_setMe, State.setMe_setMe]
  have hB := bodyFrame_mbits (d := d) (x := O.b) (lat := lat) (fl := O.fl) hs hl
  have hld : (s.seen.setMe (((s.seen.me.putMBits d O.b lat).flag O.fl).progress0)).me.lent = none := by
    rw [State.me_setMe]; exact hB.lent
  have hst : (s.seen.setMe (((s.seen.me.putMBits d O.b lat).flag O.fl).progress0)).me.status ≠ .halted := by
    rw [State.me_setMe]; exact hB.live
  have hfs : (s.seen.me.putMBits d O.b lat).fstat = s.me.fstat := by
    unfold Hart.putMBits Hart.setM; split <;> simp
  refine ⟨_, (vecForm_atHand hb i f (emitM d lat) s).trans (run_done h1 h2 hbody), ?_, ?_, ?_, ?_⟩
  · have hpc : (s.seen.setMe (((s.seen.me.putMBits d O.b lat).flag O.fl).progress0)).me.pc + 4 = s.after := by
      rw [State.me_setMe]; unfold Hart.putMBits Hart.setM; split <;> simp [State.after, Hart.flag, Hart.progress0]
    rw [hpc]
    exact registers_body hB blind_noMarksFlags
  · intro T hT k hk
    rw [(State.sees_retire hld hst T).2.2]
    simp only [State.sees, State.me_setMe]
    rw [(settle_progress0 _ T).2.2, (settle_flag _ _ T).2.2, (settle_putMBits _ _ _ _ T).2.2.2 (by simpa using hT)]
    have h0 : s.seen.me.settle T = s.me.settle T := by simp only [State.me_seen]; exact Hart.settle_settle _ (by omega)
    rw [h0, getLsbD_putBits]
    obtain ⟨hm, hv⟩ := fold_bits g s.me.vl.toNat s.seen.me.todo k hk
    have htodo : s.seen.me.todo k = s.me.todo k := by simp [Hart.todo, Hart.lane, Hart.lanes, Hart.gap]
    unfold State.takes
    rw [hm]
    by_cases hc : k < s.me.vl.toNat ∧ s.me.todo k = true
    · have e : (decide (k < s.me.vl.toNat) && s.me.todo k) = true := by simpa using hc
      rw [htodo, e]
      cases hg : g k with
      | none => simp
      | some r =>
        have := hv r hc.1 (by rw [htodo]; exact hc.2) hg
        simpa [O] using this
    · have e : (decide (k < s.me.vl.toNat) && s.me.todo k) = false := by
        rw [Bool.eq_false_iff]; simpa using hc
      rw [htodo, e]
      simp
  · rw [State.me_retire hld hst, State.me_setMe]
    exact ⟨rfl, rfl⟩
  · rw [State.me_retire hld hst, State.me_setMe]
    show (s.seen.me.putMBits d O.b lat).fstat ||| O.fl = _
    have hfl : O.fl = s.flagged (fun k => ((g k).map (fun r => r.2)).getD 0) :=
      flagged_fold s _ (fun o k => match g k with | some r => (o.bit k r.1).flags r.2 | none => o)
        (fun o k => by cases g k <;> simp [Out.flags, Out.bit])
    rw [hfs, hfl]

/-- A form that sets no flag leaves them as they were. -/
theorem registers_noFlags {s t : State} {w : BitVec 3} {pc : Word} {ws : Writes} (h : Registers s t w pc ws noMarksFlags)
    (hf : t.me.fstat = s.me.fstat) : Registers s t w pc ws noMarks := by
  refine ⟨h.done, ⟨h.hart.a, h.hart.v, h.hart.m, h.hart.st, ?_⟩, h.only⟩
  have := congrArg (fun k : Hart => { k with fstat := t.me.fstat }) h.hart.rest
  have e1 : ({ (noMarksFlags t.me).rest with fstat := t.me.fstat } : Hart) = (noMarks t.me).rest := rfl
  have e2 : ({ (noMarksFlags s.me).rest with fstat := t.me.fstat } : Hart) = (noMarks s.me).rest := by rw [hf]; rfl
  exact e1.symm.trans (this.trans e2)

end Sys2Proof.Machine
end

