-- ==== Sys2Proof/Tests/Slice0.lean ====
section
/-! SUPPORT. Tests: ill-formed terms that the check refuses, words written out from the encodings of R57 to R65, small steps
with results worked out by hand, and for each statement with hypotheses a state that meets them. -/

namespace Sys2Proof.Tests

open Sys2Proof Sys2Proof.Machine

-- One theorem at a time: what waits for the kernel together takes memory together.
set_option Elab.async false
set_option maxRecDepth 8000

/-! ### States to test on -/

/-- A module in which hart `id` has the turn. -/
def on (id : Nat) (h : Hart) : State := { State.reset with cur := id, harts := [(id, h)] }

/-- Vector hart 0 in mode P and w64, with 4 elements of which 3 are live; `a1` to `a3` hold 8, 5 and −1. -/
def vh : Hart :=
  { Hart.reset 0 with
    status := .running, hctl := 1, vtype := 3, vl := 4, live := 3, pc := 0x1000
    a := ((Hart.reset 0).a.set 1 8).set 2 5 |>.set 3 0xFFFFFFFFFFFFFFFF }

/-- Control core 8 in mode P. -/
def ch : Hart := { Hart.reset 8 with status := .running, hctl := 1, pc := 0x1000, a := (Hart.reset 8).a.set 1 1 }

/-- The module with the turn at vector hart 0. -/
def sv : State := on 0 vh
/-- The module with the turn at a control core. -/
def sc : State := on 8 ch
/-- Vector hart 0 in format code `f`. -/
def svf (f : Word) : State := on 0 { vh with vtype := f }

theorem clear_of {s : State} (h : s.me.status = .running) (hl : s.me.lent = none) (hp : s.me.pend = [])
    (hc : s.me.chk = false) (hb : s.badSram = []) (l : List Dst) : Clear s l := by
  have hk : s.seen.me.chk = s.me.chk := by simp [Hart.settle, hp, settleFrom, Hart.chk]
  refine ⟨by rw [h]; decide, hl, fun x => ?_, by simp [State.srcBad, hb]⟩
  rw [hk, hc] at x
  exact absurd x (by decide)

theorem on_me (id : Nat) (h : Hart) : (on id h).me = h := by simp [on, State.me, State.hart, tget]

theorem chk_off : (1 : Word).getLsbD 1 = false := by decide

theorem clear_on {id : Nat} {h : Hart} (hs : h.status = .running) (hl : h.lent = none) (hp : h.pend = [])
    (hc : h.hctl.getLsbD 1 = false) (l : List Dst) : Clear (on id h) l :=
  clear_of (by rw [on_me, hs]) (by rw [on_me, hl]) (by rw [on_me, hp]) (by rw [on_me]; exact hc) rfl l

theorem unlogged_of {s : State} (h : s.parts = []) : Unlogged s := by
  intro c hc
  simp [State.ctx, h, tget] at hc

theorem clear_sv (l : List Dst) : Clear sv l := clear_on rfl rfl rfl (by decide) l
theorem clear_sc (l : List Dst) : Clear sc l := clear_on rfl rfl rfl (by decide) l
theorem ready_svf (f : Word) (h : (on 0 { vh with vtype := f }).me.vbad = false)
    (hv : (4 : Nat) ≤ (svf f).me.vlmax (svf f).me.width) : VecReady (svf f) :=
  ⟨show (0 : Nat) % 16 ≠ 8 by decide, h, .inl rfl, hv⟩
theorem ready_sv : VecReady sv := ready_svf 3 rfl (by decide)

/-- A word at an offset of the scratchpad of cluster 0. -/
def poke (s : State) (l : List (Nat × Nat)) : State :=
  { s with mem := l.foldl (fun m e => m.writeLE (scratchBase 0 + e.1) 8 e.2) s.mem }

/-- Vector hart 0 with other values in `a1` and `a2`. -/
def sva (x y : Word) : State := on 0 { vh with a := (vh.a.set 1 x).set 2 y }
/-- Control core 8 with other values in `a1` and `a2`. -/
def sca (x y : Word) : State := on 8 { ch with a := (ch.a.set 1 x).set 2 y }

/-! ### Decoding: words of the manual's listings, each with the assembly that it stands for -/

/-- `mfc a7, vl`; `jr a30`; `fence.all mo`; `tlb.inv a4, 0`; `tret`; `brk 1`; `wait 0`; `svc 42`; `fence.c a5, mo`. -/
theorem test_decode_sys : Decode.word 0x00700406 = .ok (.mfc 0 7 0x001) ∧
    Decode.word 0x000F0001 = .ok (.jr 0 30) ∧
    Decode.word 0x00000C09 = .ok (.fenceAll 0 3) ∧
    Decode.word 0x0002000F = .ok (.tlbInv 0 4 0) ∧
    Decode.word 0x00000003 = .ok (.tret 0) ∧
    Decode.word 0x00000404 = .ok (.brk 0 1) ∧
    Decode.word 0x00000010 = .ok (.wait 0 0) ∧
    Decode.word 0x00102802 = .ok (.svc 0 42) ∧
    Decode.word 0x00028C08 = .ok (.fenceC 0 5 3) := by
  refine ⟨rfl, rfl, rfl, rfl, rfl, rfl, rfl, rfl, rfl⟩

/-- `add a5, a0, a0`; `zext a12, a4, 1`. -/
theorem test_decode_alu : Decode.word 0x02500000 = .ok (.add 0 5 0 0) ∧
    Decode.word 0x02C2041B = .ok (.zext 0 12 4 1) := by
  refine ⟨rfl, rfl⟩

/-- `ldk a5, 0x7FF, 3`; `addi a10, a0, 0x83`; `shli a14, a7, 3`; `ldk a7, 0xF, 5`. -/
theorem test_decode_alui : Decode.word 0x0451F7FF = .ok (.ldk 0 5 3 2047) ∧
    Decode.word 0x04A00083 = .ok (.addi 0 10 0 131) ∧
    Decode.word 0x04E3C003 = .ok (.shli 0 14 7 3) ∧
    Decode.word 0x0472F00F = .ok (.ldk 0 7 5 0xF) := by
  refine ⟨rfl, rfl, rfl, rfl⟩

/-- `ssb a5, a6, loop`; `jal a30, chain`; `jal a31, sub1`. -/
theorem test_decode_br : Decode.word 0x078A6FFD = .ok (.ssb 0 5 6 4093) ∧
    Decode.word 0x07FC0015 = .ok (.jal 0 30 21) ∧
    Decode.word 0x07FE000A = .ok (.jal 0 31 10) := by
  refine ⟨rfl, rfl, rfl⟩

/-- `ld.d a15, a1, a14`. -/
theorem test_decode_mem : Decode.word 0x08F0B803 = .ok (.ldD 0 15 1 14 0) := rfl

/-- `amo.add.mo a5, a6, a7, c1`. -/
theorem test_decode_bank : Decode.word 0x0A531C53 = .ok (.amoAddMo 0 5 6 7 1) := rfl

/-- `vamo.retry v3, a8, v9, c1`. -/
theorem test_decode_scatter : Decode.word 0x0C342474 = .ok (.vamoRetry 0 3 8 9 1) := rfl

/-- `setvl a7, a4, a10`; `mclr m6 ~1`; `mshr m6, m6, a12`; `mand m4, m2, m3 ~1`; `mpop a8, m4 ~1`; `mput m3, a8, a0`. -/
theorem test_decode_vctl : Decode.word 0x0E722800 = .ok (.setvl 0 7 4 10) ∧
    Decode.word 0x2E60000D = .ok (.mclr 1 6 0) ∧
    Decode.word 0x0E633007 = .ok (.mshr 0 6 6 12) ∧
    Decode.word 0x2E410C01 = .ok (.mand 1 4 2 3 0) ∧
    Decode.word 0x2E820008 = .ok (.mpop 1 8 4 0) ∧
    Decode.word 0x0E34000B = .ok (.mput 0 3 8 0) := by
  refine ⟨rfl, rfl, rfl, rfl, rfl, rfl⟩

/-- `vadd v3, v1, v2`; `vgen m1, v1, v2`; `vadc v3, v1, v2, m1 ~1`; `vmov v1, s1 ~1`; `vadc v2, v4, v6, m1`. -/
theorem test_decode_vint : Decode.word 0x10308800 = .ok (.vadd 0 3 1 (.vec 2) 0) ∧
    Decode.word 0x1010881C = .ok (.vgen 0 1 1 (.vec 2) 0) ∧
    Decode.word 0x30308842 = .ok (.vadc 1 3 1 (.vec 2) 1) ∧
    Decode.word 0x3010061D = .ok (.vmov 1 1 (.str 1) 0) ∧
    Decode.word 0x10221842 = .ok (.vadc 0 2 4 (.vec 6) 1) := by
  refine ⟨rfl, rfl, rfl, rfl, rfl⟩

/-- `vfma v3, v1, s2 ~1`; `vfadd v4, v1, v2 ~3`. -/
theorem test_decode_vfp : Decode.word 0x32308A03 = .ok (.vfma 1 3 1 (.str 2) 0) ∧
    Decode.word 0x72408800 = .ok (.vfadd 3 4 1 (.vec 2) 0) := by
  refine ⟨rfl, rfl⟩

/-- `vld v3, a4, a0, c2 ?m1`; `vldq v2, a1, a14`. -/
theorem test_decode_vmem : Decode.word 0x14320088 = .ok (.vld 0 3 4 0 2 1) ∧
    Decode.word 0x1420B806 = .ok (.vldq 0 2 1 14 0) := by
  refine ⟨rfl, rfl⟩

/-- `vfredsum a9, v3`; `vcvt v4, v2, w32 ~2`; `vvacc v4, v8, m2`; `vfredsum a8, v4 ?m2`; `vxch v3, v1, a5`; `vcvt v2,
v4, f64`. -/
theorem test_decode_vxr : Decode.word 0x1691800C = .ok (.vfredsum 0 9 3 0) ∧
    Decode.word 0x56410810 = .ok (.vcvt 2 4 2 2 0) ∧
    Decode.word 0x16440813 = .ok (.vvacc 0 4 8 2 0) ∧
    Decode.word 0x1682008C = .ok (.vfredsum 0 8 4 2) ∧
    Decode.word 0x16309400 = .ok (.vxch 0 3 1 5 0) ∧
    Decode.word 0x16221010 = .ok (.vcvt 0 2 4 4 0) := by
  refine ⟨rfl, rfl, rfl, rfl, rfl, rfl⟩

/-- `sp.open s1, a4, a5`; `sp.gath s2, a6, s1`; `sp.isect s6, s1, s2`; `sp.union s4, s1, s2, m3`; `sp.skip s1, a9`;
`sp.crd v1, s4`; `sp.take a9, s4, a8`; `sp.close s1`; `cx.acc m5, v2, v3 ?m1`; `cx.get v6, v2, m7`; `cx.clr`; `vprune
v2, v1, a5 ?m1`; `grm.bind a1`; `grm.eval a10, a2`. -/
theorem test_decode_spin : Decode.word 0x18121400 = .ok (.spOpen 0 1 4 5) ∧
    Decode.word 0x18230402 = .ok (.spGath 0 2 6 1) ∧
    Decode.word 0x18608803 = .ok (.spIsect 0 6 1 2) ∧
    Decode.word 0x184088C4 = .ok (.spUnion 0 4 1 2 3) ∧
    Decode.word 0x18148005 = .ok (.spSkip 0 1 9) ∧
    Decode.word 0x18120006 = .ok (.spCrd 0 1 4 0) ∧
    Decode.word 0x18922008 = .ok (.spTake 0 9 4 8) ∧
    Decode.word 0x1810000B = .ok (.spClose 0 1) ∧
    Decode.word 0x18510C4C = .ok (.cxAcc 0 5 2 (.vec 3) 1) ∧
    Decode.word 0x18611C0D = .ok (.cxGet 0 6 2 7 0) ∧
    Decode.word 0x1800000F = .ok (.cxClr 0) ∧
    Decode.word 0x18209450 = .ok (.vprune 0 2 1 5 1) ∧
    Decode.word 0x18008011 = .ok (.grmBind 0 1) ∧
    Decode.word 0x18050812 = .ok (.grmEval 0 10 2) := by
  refine ⟨rfl, rfl, rfl, rfl, rfl, rfl, rfl, rfl, rfl, rfl, rfl, rfl, rfl, rfl⟩

/-- `mx.claim a5, a6`; `mx.rel a5`; `mx.mm z1, o2, o4`; `mx.mms z0, o0, o2, m3`; `mx.wait`; `vto o3, v8, a4`; `vfrom v6,
z2, a7 ?m1`; `mx.mm z0, o0, o1`. -/
theorem test_decode_mx : Decode.word 0x1A530000 = .ok (.mxClaim 0 5 6) ∧
    Decode.word 0x1A028001 = .ok (.mxRel 0 5) ∧
    Decode.word 0x1A111003 = .ok (.mxMm 0 1 2 4) ∧
    Decode.word 0x1A0008C4 = .ok (.mxMms 0 0 0 2 3) ∧
    Decode.word 0x1A000007 = .ok (.mxWait 0) ∧
    Decode.word 0x1A341009 = .ok (.vto 0 3 8 4 0) ∧
    Decode.word 0x1A611C4A = .ok (.vfrom 0 6 2 7 1) ∧
    Decode.word 0x1A000403 = .ok (.mxMm 0 0 0 1) := by
  refine ⟨rfl, rfl, rfl, rfl, rfl, rfl, rfl, rfl⟩

/-- `fork a5, a6`; `rdv a5`; `dma.sg a7, a8, ch2`; `dma.lay a7, a10, v3, ch1`; `dma.wait a7, ch2`; `bar.wait a9, a5,
a6`; `net.send a7, a8, ch4`; `tick.wait a9, a5`. -/
theorem test_decode_eng : Decode.word 0x1C029800 = .ok (.fork 0 5 6) ∧
    Decode.word 0x1C028001 = .ok (.rdv 0 5) ∧
    Decode.word 0x1C740082 = .ok (.dmaSg 0 7 8 2) ∧
    Decode.word 0x1C750C43 = .ok (.dmaLay 0 7 10 3 1) ∧
    Decode.word 0x1C038084 = .ok (.dmaWait 0 7 2) ∧
    Decode.word 0x1C929809 = .ok (.barWait 0 9 5 6) ∧
    Decode.word 0x1C74010A = .ok (.netSend 0 7 8 4) ∧
    Decode.word 0x1C92800E = .ok (.tickWait 0 9 5) := by
  refine ⟨rfl, rfl, rfl, rfl, rfl, rfl, rfl, rfl⟩

/-- `pfx ?m9 -> v12`. -/
theorem test_decode_pfx : Decode.word 0x1F264000 = .ok (.pfx 9 0 12 1) := rfl

/-- R66: words that no form assigns, reserved fields that are not zero, and a prefix with `wt` ≠ 0. -/
theorem test_decode_reserved : [0x00000012, 0x0200001C, 0x0A00000E, 0x0C00000A, 0x0E00000E, 0x1000001E, 0x12000015, 0x16000015,
      0x18000014, 0x1A00000B, 0x1C00000F, 0xFFFFFFFF, 0x3E0C4000, 0x00008000, 0x02110E00, 0x10114200].all
    (fun x => match Decode.word (BitVec.ofNat 32 x) with | .ok _ => false | .error _ => true) = true := rfl

/-! ### Ill-formed instructions: one for each check -/

/-- R58, R60, R62, R65, R68: fields outside their range. -/
theorem test_illFormed_words : [Instr.mtc 0 1 0x000, .fenceC 0 1 6, .fenceAll 0 31, .sext 0 1 2 3, .zext 0 1 2 3, .ldk 0 1 6 0,
    .vadc 0 1 2 (.vec 3) 0, .vsbc 0 1 2 (.vec 3) 0, .vperm 0 1 2 (.sca 3) 0, .vfdot 0 1 2 (.sca 3) 0, .spUnion 0 1 2 3 0,
    .cxAcc 0 1 2 (.sca 3) 0, .mxMms 0 0 0 1 0, .dmaSg 0 1 2 6, .dmaLay 0 1 2 3 6, .dmaWait 0 1 7, .dmaSt 0 1 2 6, .netSend 0 1 2 3,
    .netMist 0 1 2 6, .netFetch 0 1 2 0, .netWait 0 1 2 7, .pfx 1 0 5 0, .pfx 0 1 0 1].all (fun i => !i.wellFormed) = true := rfl

/-- A request for a partition or a context that does not exist. -/
def badMsg : Msg :=
  { conn := 0, src := 0, seq := 0, part := 16, ctx := 0, kind := 1, blen := 0, permitted := true, wellFormed := true }
def badCtx : Msg := { badMsg with part := 0, ctx := 8 }

/-- R1, R22, R349: harts, clusters, partitions, contexts, channels and stacks that do not exist. -/
theorem test_illFormed_steps : [Instr.trapEntry 9, .wfeWake 4096, .preemptionRequest [0, 15], .graceWindowExpiry 9,
    .graceWindowForcedStop 9, .spindleFetch 9 0, .postedPartPerform 9 0, .fixedLatencyResult 9, .accessPerformsAtHome 9 (.queued 0 0),
    .frontTickReached 9, .shadowPreload 256, .clusterFlip 256, .granuleExchange 256 0, .walkerDispatch 256, .loomOpStart 256,
    .loomOpComplete 256, .slotBusyEnd 256 0, .shadowWritebackComplete 256, .channelTransferStart 0 6, .listElementStart 0 6 0,
    .chunkTransfer 256 0 0, .listElementComplete 0 6 0, .transferAck 0 6 0 0, .retryLimit 256 0 0 0, .rmaReadResponse 0 6 0 [],
    .gangSwitchTick 16, .launchCompletion 16 0 0, .priorityAging 0 8 0, .gangLaunchTick 16 0 0, .stage2Fault 16 0 .refuse,
    .pageMigration 16 0 0, .pageEviction 16, .allBankRefresh 16 0 .due, .warmReset [(512, true)], .watchdogExpiry [(512, true)],
    .partitionCreate 0 [256] 10 false, .partitionCreate 0 [] 9 false].all (fun i => !i.wellFormed) = true := rfl
theorem test_illFormed_requests : [Instr.launch badMsg 0, .graphReplay badCtx 0, .patch badMsg 0 0 0 [], .map badCtx (.resetArea 0),
    .unmap badMsg .resetArea, .contextLoad badCtx 0 ⟨.plain, 0, 0⟩, .contextSave badMsg, .gangSwitch badCtx 0 1 0, .query badMsg 0,
    .attestation badCtx 0, .partitionReset badMsg].all (fun i => !i.wellFormed) = true := rfl

/-! ### Small steps: the worked examples of the manual -/

/-- What `f` gives of the state after an instruction, where one goes on. -/
def gives {α : Type} (i : Instr) (s : State) (f : State → α) : Option α :=
  match exec i s with
  | .next t => some (f t)
  | _ => none

/-- Scalar register r with every result complete. -/
def aOf (r : Reg) (t : State) : Nat := (t.me.finish.getA r).toNat
/-- The first `n` elements of vector register r with every result complete. -/
def vOf (r : Reg) (n : Nat) (t : State) : List Nat := (List.range n).map (t.me.finish.elem r t.me.width)
/-- The first `n` bits of mask register r with every result complete. -/
def mOf (r : MReg) (n : Nat) (t : State) : Nat := (t.me.finish.getM r).toNat % 2 ^ n

/-- A vector register of these elements of `w` bits, on 64 lanes. -/
def vecOf (w : Nat) (xs : List Nat) : BitVec 16384 :=
  xs.zipIdx.foldl (fun v e => v ||| (BitVec.ofNat 16384 e.1 <<< (256 * (e.2 % 64) + w * (e.2 / 64)))) 0

/-- Vector hart 0 in format `f` with `n` live elements, `v1`, `v2` and `v3` given. -/
def vs (f : Word) (n : Nat) (x y z : BitVec 16384) : State :=
  on 0 { vh with vtype := f, vl := BitVec.ofNat 13 n, live := BitVec.ofNat 13 n, v := ((vh.v.set 1 x).set 2 y).set 3 z }

/-- R84, R85: −7 / 2 and −2^63 / −1, and the remainders. -/
theorem test_div : gives (.div 0 4 1 2) (sva (-7) 2) (aOf 4) = some (2 ^ 64 - 3) ∧
    gives (.div 0 4 1 2) (sva 0x8000000000000000 (-1)) (aOf 4) = some (2 ^ 63) := by decide +kernel
theorem test_rem : gives (.rem 0 4 1 2) (sva (-7) 2) (aOf 4) = some (2 ^ 64 - 1) ∧
    gives (.rem 0 4 1 0) (sva 7 0) (aOf 4) = some 7 := by decide +kernel
theorem test_divn : gives (.divn 0 4 1 2) (sva (-7) 2) (aOf 4) = some 0x7FFFFFFFFFFFFFFC := by decide +kernel
theorem test_add_wraps : gives (.add 0 1 3 1) sv (aOf 1) = some 7 := by decide +kernel
/-- R87: the step of the manual's constant that sets its top digit. -/
theorem test_ldk : gives (.ldk 0 1 5 0xF) (sva 0x0123456789ABCDEF 0) (aOf 1) = some 0xF123456789ABCDEF := by decide +kernel
/-- R88: `ssb` with 444 − 256, and with 188 − 188, three words back. -/
theorem test_ssb : gives (.ssb 0 1 2 0xFFD) (sva 444 256) (fun t => (aOf 1 t, t.me.pc.toNat)) = some (188, 0xFF4) ∧
    gives (.ssb 0 1 2 0xFFD) (sva 188 188) (fun t => (aOf 1 t, t.me.pc.toNat)) = some (0, 0x1004) := by decide +kernel
/-- R88: the link and the target of `jal`. -/
theorem test_jal : gives (.jal 0 31 10) sv (fun t => (aOf 31 t, t.me.pc.toNat)) = some (0x1004, 0x1028) := by decide +kernel

/-- R108: the rows of the table for `setvl`. -/
theorem test_setvl : gives (.setvl 0 4 1 2) (sva 40 0xA5) (fun t => (aOf 4 t, t.me.vl.toNat, t.me.live.toNat)) = some (32, 32, 32) ∧
    gives (.setvl 0 4 1 2) (sva 8 0xA5) (fun t => (aOf 4 t, t.me.vl.toNat, t.me.live.toNat)) = some (32, 32, 8) := by decide +kernel
theorem test_setvl_q4x : gives (.setvl 0 4 1 2) (sva 600 0xAA) (aOf 4) = some 576 ∧
    gives (.setvl 0 4 1 2) (sva (-4) 0xA5) (fun t => (aOf 4 t, t.me.vbad)) = some (0, false) := by decide +kernel

/-- R119: the four elements of the example of `vadc`. -/
theorem test_vadc : gives (.vadc 0 4 1 (.vec 2) 1)
      (let s := vs 3 4 (vecOf 64 [2 ^ 64 - 1, 1, 2 ^ 64 - 1, 5]) (vecOf 64 [1, 2, 0, 7]) 0
       s.setMe { s.me with m := s.me.m.set 1 5 }) (fun t => (vOf 4 4 t, mOf 9 4 t)) = some ([1, 3, 0, 12], 5) := by decide +kernel

/-- R125, R126: the rows of the table in w32. -/
def eight8 : State :=
  let s := vs 2 8 (vecOf 32 [10, 11, 12, 13, 14, 15, 16, 17]) 0 0
  s.setMe { s.me with m := s.me.m.set 1 0xA6, a := s.me.a.set 5 2 }
theorem test_vxch : gives (.vxch 0 3 1 5 0) eight8 (vOf 3 8) = some [12, 13, 10, 11, 16, 17, 14, 15] := by decide +kernel
theorem test_vcmpr : gives (.vcmpr 0 3 1 1) eight8 (vOf 3 8) = some [11, 12, 15, 17, 0, 0, 0, 0] := by decide +kernel
theorem test_vrank : gives (.vrank 0 3 1) eight8 (vOf 3 8) = some [0, 0, 1, 2, 2, 2, 3, 3] := by decide +kernel

/-- R51 to R54: 2^24 in element 0, 1.0 in elements 5 and 69, in block order and in lane order. -/
def sum96 : BitVec 16384 :=
  vecOf 32 (((List.replicate 96 0).set 0 0x4B800000).set 5 0x3F800000 |>.set 69 0x3F800000)
theorem test_vfredsum_blocks : gives (.vfredsum 0 4 1 0) (vs 0x85 96 sum96 0 0) (aOf 4) = some 0x4B800000 := by decide +kernel
theorem test_vfredsum_lanes : gives (.vfredsum 0 4 1 0) (vs 0x05 96 sum96 0 0) (aOf 4) = some 0x4B800001 := by decide +kernel
/-- R133: the second row of the table for `vfdot`: 1 + 2^−12 squared, a tie. -/
theorem test_vfdot : gives (.vfdot 0 4 1 (.vec 2) 0) (vs 0x85 1 (vecOf 32 [0x3F800800]) (vecOf 32 [0x3F800800]) 0)
    (fun t => (aOf 4 t, t.me.fstat.toNat)) = some (0x3F801000, 1) := by decide +kernel

/-- R134, R135: 4.5, 7.0, 0.0, 0.75 with counts 2, 3, 0, 3 and 1.5, 3.0, 2.0, 0.25 under mask 0b1011. -/
theorem test_vvacc : gives (.vvacc 0 1 3 2 0)
      (let s := vs 5 4 (vecOf 32 [0x40900000, 0x40E00000, 0, 0x3F400000]) (vecOf 32 [2, 3, 0, 3])
         (vecOf 32 [0x3FC00000, 0x40400000, 0x40000000, 0x3E800000])
       s.setMe { s.me with m := s.me.m.set 2 0xB }) (fun t => (vOf 1 4 t, vOf 2 4 t))
    = some ([0x40C00000, 0x41200000, 0, 0x3F800000], [3, 4, 0, 4]) := by decide +kernel
/-- R124: a sum register above `v30`. -/
theorem test_vvacc_v31 : gives (.vvacc 0 31 3 2 0) (vs 5 4 0 0 0) (fun t => t.me.tcause.toNat) = some 1 := by decide +kernel
theorem test_vrescl : gives (.vrescl 0 1 2 9 0)
      (let s := vs 5 4 (vecOf 32 [0x40C00000, 0x41200000, 0, 0x3F800000]) (vecOf 32 [3, 4, 0, 4]) 0
       s.setMe { s.me with a := s.me.a.set 9 4 }) (vOf 1 4) = some [0x41000000, 0x41200000, 0, 0x3F800000] := by decide +kernel

/-- R103: the trap of the manual's page fault on a scalar load, in mode U at `0x2000`. -/
theorem test_page_fault : gives (.ldD 1 5 6 0 1)
      (on 0x32 { vh with hctl := 0, tvec := 0x30000, pc := 0x2000, scpwin := 0x10000000000,
                         a := (vh.a.set 6 0x400000001000).set 1 0x11 })
      (fun t => [t.me.pc.toNat, t.me.hctl.toNat, t.me.tcause.toNat, t.me.tval.toNat, t.me.tpc.toNat, t.me.tstat.toNat,
        t.mem.readLE (scratchBase 3 + 0x5FFE40) 8]) = some [0x30000, 0x11, 5, 0x400000001000, 0x2000, 0, 0x11] := by decide +kernel

/-- R276, R277: 256 to come: after 192 bytes 64 are; 192 more begin phase 1 with 128 in excess, which `bar.wait` reads. -/
theorem test_barArr : gives (.barArr 0 1 2) (poke (sva 0x40 192) [(0x40, 0x0001000000000040), (0x48, 0)])
    (fun t => t.mem.readLE (scratchBase 0 + 0x40) 16) = some 0x00000100800100000001000000000100 := by decide +kernel
theorem test_barWait : gives (.barWait 0 9 1 0) (poke (sva 0x40 0) [(0x40, 0x0001000000000100), (0x48, 0x0000010080010000)])
    (aOf 9) = some 0x01008001 := by decide +kernel
theorem test_barInit : gives (.barInit 0 1 2) (sva 0x40 256) (fun t => t.mem.readLE (scratchBase 0 + 0x40) 16)
    = some 0x0001000000000100 := by decide +kernel

/-- R222, R223: the pruned elements and the generator after three steps. -/
theorem test_vprune : gives (.vprune 0 2 1 5 1)
      (let s := vs 5 4 (vecOf 32 [0x3F800000, 0x40000000, 0xC0200000, 0x40E00000]) (vecOf 32 [9, 9, 9, 9]) 0
       s.setMe { s.me with m := s.me.m.set 1 7, a := s.me.a.set 5 0x40800000, rng0 := 0, rng1 := 0x8000000000000000 })
      (fun t => (vOf 2 4 t, t.me.rng0.toNat, t.me.rng1.toNat))
    = some ([0x3F800000, 0, 0xC0200000, 9], 0x0000400000000800, 0x9000082000000800) := by decide +kernel

/-- R72: an odd base register. -/
theorem test_vamo_retry_odd : gives (.vamoRetry 0 3 9 9 1) (vs 3 4 0 0 0) (fun t => t.me.tcause.toNat) = some 1 := by
  decide +kernel

/-- R156, R157: elements 0, 1 and 3 of the scatter have been done, element 2 has missed; the retry does it. -/
theorem test_vamo_retry : gives (.vamoRetry 0 3 8 9 1)
      (let s := vs 3 4 0 0 (vecOf 64 [1, 1, 5, 1])
       poke (s.setMe { s.me with a := (s.me.a.set 8 0x100).set 9 0x30, v := s.me.v.set 9 (vecOf 64 [0, 1, 2, 3]), smiss := 4 })
         [(0x100, 11), (0x108, 21), (0x110, 30), (0x118, 41)])
      (fun t => ((List.range 4).map (fun k => t.mem.readLE (scratchBase 0 + 0x100 + 8 * k) 8), t.me.smiss.toNat))
    = some ([11, 21, 35, 41], 0) := by decide +kernel

/-- R250 to R253: the grammar of three rules, evaluated and read out. -/
def ruled : State :=
  poke (sva 0x3000 0x200)
    [(0x140, 0x0000000200000000), (0x148, 0x0000000100000002), (0x150, 0x0001000300000003), (0x158, 0x0000080100000000),
      (0x160, 0x8000000000001800), (0x168, 0x0000100180080200), (0x170, 0x3F00000040000000), (0x178, 0xBF800000),
      (0x200, 0x400000003F800000), (0x208, 0x4080000040400000)]
def rules3 : Grammar :=
  { ncol := 4, ndict := 3, nrow := 2, nrules := 3, rtab := 0x140, stab := 0x158, dtab := 0x170, omap := 0x17C, rows := [2, 1] }
theorem test_grmEval : gives (.grmEval 0 1 2)
      { ruled with
        harts := [(0, { vh with a := (vh.a.set 1 0x1000).set 2 0x200 })]
        clusters := [(0, { Cluster.reset with fast := { Fast.reset with gram := some rules3 } })] }
      (fun t => (((t.fast 0).rvf[0]).toNat, (t.fast 0).rvalid.toNat, t.me.fstat.toNat)) = some (0x40400000, 1, 0) := by decide +kernel
/-- What rule 2 comes to with the rows of rules 0 and 1 as they are then. -/
theorem test_grmEval_wave1 : (match Eval.rule { id := 0, reader := { priv := true, views := [] }, g := rules3, x := 0x200, nb := 1, rm := 0, journal := false, begun := false, floor := 0 } 2
      0x0001000300000003 { ruled with clusters := [(0, { Cluster.reset with
        fast := { Fast.reset with rvf := (Fast.reset.rvf.set 0 0x40400000).set 1 0x41000000, rvalid := 3 } })] } with
    | .ok r _ => some (r.1.toNat, r.2.toNat)
    | _ => none) = some (0xC0600000, 0) := by decide +kernel

/-- R43, R44: the block `5E 07 D3 48 00 …` of 16 elements decodes to 0.75, −1.25, 24, 0, 0 …, in F32. -/
theorem test_q4x_block : ((Block.ofBytes [0x5E, 0x07, 0xD3, 0x48, 0, 0, 0, 0, 0, 0]).decode.1.map (fun x => (Fmt.f32.round 0 x).1)).take 5
    = [0x3F400000, 0xBFA00000, 0x41C00000, 0, 0] := by decide +kernel

/-- R304: the indices of iterations 0 to 8 of the record for two dimensions, dimension 1 innermost and serpentine. -/
theorem test_indices :
    let r := lrecOf ((0x0000000000201123#512) ||| (0x0001000300800002#512 <<< 384))
    ((List.range 9).map (fun n => (r.index n 0).toNat), (List.range 9).map (fun n => (r.index n 1).toNat), r.total)
      = ([0, 0, 0, 0, 128, 128, 128, 128, 256], [0, 1, 2, 3, 3, 2, 1, 0, 0], 12) := by decide +kernel

/-- R317 to R321: the leaf of 64 KiB of the worked example, read at level 0, and its entry for the address. -/
theorem test_leaf : readPte 0x000000400ABC021F 0
      = .leaf { ia := 0x400ABC0000, size := 65536, r := true, w := true, x := false, u := true } ∧
    pteIndex 0x135678 0 = 309 := by decide +kernel

/-! ### Witnesses: for each statement with hypotheses, states and operands that meet them, clause by clause -/

theorem clear_sva (x y : Word) (l : List Dst) : Clear (sva x y) l := clear_on rfl rfl rfl chk_off l
theorem clear_sca (x y : Word) (l : List Dst) : Clear (sca x y) l := clear_on rfl rfl rfl chk_off l
theorem clear_svf (f : Word) (l : List Dst) : Clear (svf f) l :=
  clear_on rfl rfl rfl chk_off l

theorem mayTrap_of {s : State} (ht : s.me.tb = false) (ha : ∀ k, s.away k = false) : MayTrap s := ⟨ht, ha _⟩
theorem home_of {s : State} (h : ∀ c, (s.cluster c).exch = []) (k : Nat) : s.away k = false := by
  simp [State.away, h]
theorem home_on (id : Nat) (h : Hart) : ∀ k, (on id h).away k = false := home_of (fun _ => rfl)
theorem mayTrap_on {id : Nat} {h : Hart} (ht : h.tb = false) : MayTrap (on id h) :=
  mayTrap_of (by rw [on_me, ht]) (home_on id h)
theorem mayTrap_sv : MayTrap sv := mayTrap_on rfl
theorem exch_of {s : State} (h : ∀ e ∈ s.clusters, e.2.exch = []) (c : Nat) : (s.cluster c).exch = [] := by
  simp only [State.cluster]
  generalize s.clusters = l at h
  induction l with
  | nil => rfl
  | cons e t ih =>
    simp only [tget]
    split
    · exact h e (.head _)
    · exact ih (fun x hx => h x (.tail _ hx))
theorem mayTrap_at {s : State} (ht : s.me.tb = false) (h : ∀ e ∈ s.clusters, e.2.exch = []) : MayTrap s :=
  mayTrap_of ht (home_of (exch_of h))
theorem acc_of {α : Type} {x : Acc α} (h : (match x with | .ok _ _ => true | _ => false) = true) : ∃ k r, x = .ok k r := by
  cases x
  · exact ⟨_, _, rfl⟩
  · cases h
  · cases h
theorem acc_ok {α : Type} {x : Acc α} {P : α → State → Prop} [∀ k r, Decidable (P k r)]
    (h : (match x with | .ok k r => decide (P k r) | _ => false) = true) : ∃ k r, x = .ok k r ∧ P k r := by
  cases x
  · exact ⟨_, _, rfl, of_decide_eq_true h⟩
  · cases h
  · cases h
theorem acc_trap {α : Type} {x : Acc α} {P : Cause → State → Prop} [∀ k r, Decidable (P k r)]
    (h : (match x with | .trap k r => decide (P k r) | _ => false) = true) : ∃ k r, x = .trap k r ∧ P k r := by
  cases x
  · cases h
  · exact ⟨_, _, rfl, of_decide_eq_true h⟩
  · cases h
theorem some_of {α : Type} {x : Option α} (h : x.isSome = true) : ∃ r, x = some r := by
  cases x
  · cases h
  · exact ⟨_, rfl⟩
theorem amo_missed {x : Amo} (h : (match x with | .missed _ => true | _ => false) = true) : ∃ r, x = .missed r := by
  cases x
  case missed r => exact ⟨r, rfl⟩
  all_goals cases h
theorem amo_fault {x : Amo} (h : (match x with | .fault _ _ => true | _ => false) = true) : ∃ c r, x = .fault c r := by
  cases x
  case fault c r => exact ⟨c, r, rfl⟩
  all_goals cases h
theorem set_bad {x : SetRead} (h : (match x with | .bad _ => true | _ => false) = true) : ∃ r, x = .bad r := by
  cases x
  case bad r => exact ⟨r, rfl⟩
  all_goals cases h
theorem landed_of {s : State} (h : s.me.queue = []) : Landed s := fun q hq => by rw [h] at hq; cases hq

/-- A vector hart at address 0x601000, and the bytes there, in a page that is cached. -/
def placedBytes (st : Status) (bs : List Byte) : State :=
  let s := (on 0 { vh with pc := 0x601000 }).placeBytes bs
  s.setMe { s.me with status := st }
/-- The same with one word. -/
def placed (st : Status) (x : Nat) : State := placedBytes st (leBytes 4 x)
/-- The same with two. -/
def placed2 (x y : Nat) : State := placedBytes .running (leBytes 4 x ++ leBytes 4 y)

/-- AluResults: the overflow and the division by zero. -/
theorem test_witness_AluResults : Clear (sva 0x8000000000000000 0xFFFFFFFFFFFFFFFF) [.a 1, .a 2] ∧
    (sva 0x8000000000000000 0xFFFFFFFFFFFFFFFF).seen.me.getA 2 ≠ 0 ∧ Clear sv [.a 1, .a 0] ∧ sv.seen.me.getA 0 = 0 :=
  ⟨clear_sva _ _ _, by decide, clear_sv _, rfl⟩

/-- AluImmediateResults: a source of 0 and another; every k of `ldk` and of the widths at its boundary. -/
theorem test_witness_AluImmediateResults : Clear sv [.a 1] ∧ sv.seen.me.getA 1 ≠ 0 ∧ Clear sv [.a 0] ∧
    sv.seen.me.getA 0 = 0 ∧ (2 : BitVec 5).toNat < 3 ∧ (4 : BitVec 5).toNat < 5 ∧ (5 : BitVec 5).toNat = 5 :=
  ⟨clear_sv _, by decide, clear_sv _, rfl, by decide, by decide, rfl⟩

/-- BranchResults: equal and unequal sources. -/
theorem test_witness_BranchResults : Clear sv [.a 1, .a 1] ∧ Clear sv [.a 1, .a 2] ∧
    sv.seen.me.getA 1 ≠ sv.seen.me.getA 2 := ⟨clear_sv _, clear_sv _, by decide⟩

/-- JumpResults: an aligned and a misaligned target. -/
theorem test_witness_JumpResults : Clear sv [.a 1, .a 2] ∧ (sv.seen.me.getA 1).toNat % 4 = 0 ∧
    (sv.seen.me.getA 2).toNat % 4 ≠ 0 ∧ MayTrap sv := ⟨clear_sv _, rfl, by decide, mayTrap_sv⟩

/-- Vector hart 0 under a lent state. -/
def svl (l : Lent) : State := on 0 { vh with lent := some l }

/-- PairResults: a prefix before an addition, before a branch and before a word that cannot be fetched; a lent predicate that is
false, and a copy register. -/
theorem test_witness_PairResults : (let l : Lent := { pred := 0, inv := false, creg := 24, cv := true, viaTret := false }
     Clear (placed2 0x1E0C4000 0x02110C00) [] ∧
       (∃ r, (placed2 0x1E0C4000 0x02110C00).seen.codeAt (placed2 0x1E0C4000 0x02110C00).after = .ok 0x02110C00 r) ∧
       pairWordBad l 0x02110C00 = false ∧
       (∃ r, (placed2 0x1E0C4000 0x06C20003).seen.codeAt (placed2 0x1E0C4000 0x06C20003).after = .ok 0x06C20003 r) ∧
       pairWordBad l 0x06C20003 = true ∧ MayTrap (placed2 0x1E0C4000 0x06C20003) ∧ Clear sv [] ∧
       ∃ c r, sv.seen.codeAt sv.after = .trap c r) ∧
    (let s := svl { pred := 1, inv := false, creg := 0, cv := false, viaTret := false }
     s.me.status ≠ .halted ∧ Readable s [.m 1] ∧ (s.seen.me.getM 1).getLsbD 0 = false ∧ MayTrap s) ∧
    (let s := svl { pred := 0, inv := false, creg := 9, cv := true, viaTret := false }
     s.me.status ≠ .halted ∧ Readable s [.a 1, .a 2]) := by
  refine ⟨⟨clear_of (s := placed2 _ _) rfl rfl rfl chk_off rfl _, ⟨_, rfl⟩, by decide, ⟨_, rfl⟩, by decide,
      mayTrap_at rfl (by intro e he; cases he with | head => rfl | tail _ h => cases h), clear_sv _, ⟨_, _, rfl⟩⟩,
    ⟨by decide, ⟨?_, rfl⟩, by decide +kernel, mayTrap_on rfl⟩, ⟨by decide, ⟨?_, rfl⟩⟩⟩ <;> exact fun h => absurd h (by decide)

/-- TrapEntry, TrapReturn and HaltAndDoubleTrap: `tb` clear and set, `tpc` aligned and not, a hart of its own fellows. -/
theorem test_witness_Traps : (Clear sv [] ∧ MayTrap sv ∧ sv.me.priv = true ∧ sv.me.tpc.toNat % 4 = 0 ∧ sv.slotAway sv.cur = false) ∧
    (let s := on 0 { vh with tpc := 2 }; Clear s [] ∧ s.me.priv = true ∧ s.me.tpc.toNat % 4 ≠ 0 ∧ MayTrap s) ∧
    (let s := on 0 { vh with hctl := 0x11 }; Clear s [] ∧ s.me.tb = true ∧ s.cur ∈ s.fellows s.cur) ∧
    sv.cur ∈ sv.fellows sv.cur :=
  ⟨⟨clear_sv _, mayTrap_sv, rfl, rfl, mayTrap_sv.home⟩, ⟨clear_on rfl rfl rfl rfl _, rfl, by decide, mayTrap_on rfl⟩,
    ⟨clear_on rfl rfl rfl rfl _, rfl, by decide⟩, by decide⟩

/-- TrapRoundTrip: a program that comes to `svc` with nothing queued. -/
theorem test_witness_TrapRoundTrip : Clear sv [] ∧ MayTrap sv ∧ sv.after.toNat % 4 = 0 ∧ sv.me.queue = [] ∧
    ∃ t, exec (.svc 0 5) sv = .next t := ⟨clear_sv _, mayTrap_sv, by decide, rfl, _, rfl⟩

/-- ControlReads and ControlWrites: each mode and each kind of hart; types and lengths that are valid and not. -/
theorem test_witness_Control : (Clear sv [.a 1] ∧ sv.me.priv = true ∧ sv.cur % 16 ≠ 8 ∧ MayTrap sv ∧ Unlogged sv ∧
      ∀ c, sv.csrBad c = false) ∧
    (let s := on 0 { vh with hctl := 0 }; Clear s [] ∧ s.me.priv = false ∧ MayTrap s) ∧
    (Clear sc [] ∧ sc.cur % 16 = 8 ∧ MayTrap sc) ∧ csrOf 0x040 = none ∧ csrOf 0x3FF = none ∧
    (sv.me.vbad = false ∧ (sva 256 0).me.vlmax (sva 256 0).me.width = 256) ∧ vtypeBad 0x4B = false ∧ vtypeBad 0x0A = true ∧
    vtypeBad 0x100 = true :=
  ⟨⟨clear_sv _, rfl, by decide, mayTrap_sv, unlogged_of rfl, fun _ => rfl⟩, ⟨clear_on rfl rfl rfl rfl _, rfl, mayTrap_on rfl⟩,
    ⟨clear_sc _, rfl, mayTrap_on rfl⟩, by decide, by decide, ⟨rfl, by decide⟩, by decide, by decide, by decide⟩

/-- A vector hart that checks, with a result of `a1` that is readable two cycles on. -/
def waits : State :=
  on 0 { vh with hctl := 2, pend := [{ dst := .a 1, mask := BitVec.allOnes 16384, val := 7, ready := 2 }] }

/-- IssueTraps: each clause. -/
theorem test_witness_IssueTraps : (waits.me.lent = none ∧ MayTrap waits ∧ waits.me.chk = true ∧
      waits.seen.me.waits (.a 1) = true ∧ waits.seen.me.waits (.a 2) = false) ∧
    (let s := { sv with badSram := [SramLoc.scalar 0 1] }
     s.me.lent = none ∧ MayTrap s ∧ s.me.chk = false ∧ SramLoc.scalar s.cur (1 : Reg).toNat ∈ s.badSram) ∧
    5 < (6 : BitVec 5).toNat ∧
    (let s := on 0 { vh with hctl := 0, a := (Hart.reset 0).a.set 1 0xFFFF }
     Clear s [.a 1, .a 0] ∧ s.me.priv = false ∧ MayTrap s ∧ (s.seen.me.getA 0).toNat < 2 ∧ s.cur % 16 ≠ 8 ∧
       s.seen.me.getA 1 = s.maskInForce.setWidth 64 ∧
       (s.seen.me.getA 0).toNat % 2 ^ 13 ≤ (if s.me.vbad then 0 else s.me.vlmax s.me.width) ∧ vtypeBad (s.seen.me.getA 1) = true ∧
       s.me.vl.toNat ≤ s.me.vlmax (fmtWidth ((s.seen.me.getA 0).extractLsb' 0 4))) ∧
    (let s := on 8 { ch with hctl := 0 }
     Clear s [.a 1, .a 1] ∧ s.me.priv = false ∧ MayTrap s ∧ s.cur % 16 = 8) ∧
    (Unlogged sv ∧ Clear sv [.a 1, .a 0, .a 3] ∧ MayTrap sv ∧ (∃ r, sv.seen.readSet 0 = .bad r) ∧
      (let s := on 0 { vh with banks := [{ id := 0, size := 4096, bases := [0x2000, 0x3000] }] }
       ∃ bs r, s.seen.readSet 0 = .ok bs r)) :=
  ⟨⟨rfl, mayTrap_on rfl, rfl, by decide +kernel, by decide +kernel⟩, ⟨rfl, mayTrap_of rfl (home_of fun _ => rfl), rfl, by decide⟩, by decide,
    ⟨clear_on rfl rfl rfl rfl _, rfl, mayTrap_on rfl, by decide, by decide, by decide, by decide, by decide, by decide⟩,
    ⟨clear_on rfl rfl rfl rfl _, rfl, mayTrap_on rfl, rfl⟩,
    ⟨unlogged_of rfl, clear_sv _, mayTrap_sv, set_bad (by decide +kernel), _, _, rfl⟩⟩

/-- A bank set in entry 1 of the table at 0x1000: two banks of 4 KiB at 0x2000 and 0x3000. -/
def banked (s : State) : State :=
  (poke s [(0x1008, 0x4001), (0x4000, 0x1000 * 2 ^ 16 + 2), (0x4008, 0x2000), (0x4010, 0x3000)])

/-- WaitAndTime, WfeResults, FenceResults: each clause. -/
theorem test_witness_Waits : Clear sv [.a 1, .a 2] ∧ Unlogged sv ∧ Landed sv ∧ MayTrap sv ∧
    (∃ key x q r, sv.seen.xlate (sv.seen.who sv.cur) .load .other 8 = .ok key q ∧ q.loadHome 0 key 8 = .ok x r ∧
      BitVec.ofNat 64 x ≠ sv.seen.me.getA 1 ∧ BitVec.ofNat 64 x = sv.seen.me.getA 0 ∧ r.me.async = []) ∧
    sv.me.woken = false ∧ sv.me.asleep = false ∧ sv.me.preempt = false ∧ (sv.seen.me.getA 2).toNat % 8 ≠ 0 ∧
    (let s := on 0 { vh with asleep := true }; s.me.asleep = true ∧ tget s.watched s.cur = none) ∧
    (let s := { sv with watched := [(0, 5)] }; tget s.watched 0 = some 5 ∧ ∃ c ∈ [(320, 0#8, 0xFF#8)], c.1 / 64 = 5) ∧
    (5 : BitVec 5).toNat ≤ 5 ∧ ((sva 0x10001 0).seen.me.getA 1).extractLsb' 0 16 ≠ 0 ∧
    ((sva 0x10001 0).seen.me.getA 1).extractLsb' 16 16 ≠ 0 ∧ (sv.seen.me.getA 0).extractLsb' 0 16 = 0 :=
  ⟨clear_sv _, unlogged_of rfl, landed_of rfl, mayTrap_sv, ⟨_, _, _, _, rfl, rfl, by decide, by decide, rfl⟩, rfl, rfl, rfl,
    by decide, ⟨rfl, rfl⟩, ⟨rfl, _, .head _, rfl⟩, by decide, by decide, by decide, by decide⟩

/-- A transfer of hart 0 that writes region 4. -/
def writing : Transfer :=
  { id := 0, kind := .fetch, hart := 0, who := sv.who 0, launch := none, started := false, elem := none, running := false,
    skip := false, barKey := none, barPage := none, chunk := 0, next := 0, dests := [4], desc := none, burst := none, old := [],
    came := [] }
/-- Channel 2 has issued transfers of hart 0, those of a list not complete, with `a1` = 0. -/
def issued (xs : List Transfer) : State :=
  { sva 0 1 with clusters := [(0, { Cluster.reset with
      fast := { Fast.reset with chans := Fast.reset.chans.set 2 { Channel.reset with next := 100, xfers := xs } } })] }
/-- An element of one chunk of 8 bytes from 0x1000 to 0x2000, with an arrival at a barrier at 0x3000 if `arr`. -/
def element (arr : Bool) : Element :=
  { addr := 0x40, src := 0x1000, dst := 0x2000, arr := arr, cskip := false, side := false, ndim := 1, len := 8, next := 0, padr := 0,
    pexp := 0, badr := 0x3000, ext := [1], str := [0] }
/-- A list element under way that has translated its barrier. -/
def atBarrier : Transfer :=
  { writing with kind := .list, started := true, elem := some (element true), running := true, barKey := some 0x3000,
                   barPage := some (0x3000, 4096) }

/-- TlbInvResults: b = 1, which names every page; b = 0 with an address in the page of a barrier that an element holds, and with one
outside it. -/
theorem test_witness_TlbInvResults :
    let held := fun (s : State) (b : BitVec 5) => s.barHeld s.myClusters (fun t _ => match t.barPage with
      | some g => decide (b = 1 ∨ (let z := s.seen; let va := (s.seen.me.getA 1).toNat; let k := z.storedPage (z.who s.cur) va
          (g.1 ≤ va ∧ va < g.1 + g.2) ∨ (t.who.ctx = (s.spaceOf s.myCluster).2 ∧ g.1 < k.1 + k.2 ∧ k.1 < g.1 + g.2)))
      | none => decide (b = 1))
    let s := fun (va : Word) => ({ sva va 1 with clusters := (issued [atBarrier]).clusters } : State)
    held (s 0x3008) 0 = true ∧ held (s 0x8000) 1 = true ∧ held (s 0x8000) 0 = false ∧ held sv 1 = false ∧
      Clear (s 0x8000) (if (1 : BitVec 5) = 1 then [] else [.a 1]) ∧ Clear (s 0x8000) (if (0 : BitVec 5) = 1 then [] else [.a 1]) :=
  ⟨by decide +kernel, by decide +kernel, by decide +kernel, by decide +kernel,
    clear_of (s := { sva 0x8000 1 with clusters := (issued [atBarrier]).clusters }) rfl rfl rfl chk_off rfl _,
    clear_of (s := { sva 0x8000 1 with clusters := (issued [atBarrier]).clusters }) rfl rfl rfl chk_off rfl _⟩

/-- TlbInvResults and LanemapResults: b = 0 and 1 and another, with no barrier held and with one; a mask in force and another
value. -/
theorem test_witness_System : Clear sv [.a 1] ∧ sv.me.priv = true ∧ (1 : BitVec 5).toNat < 2 ∧
    2 ≤ (2 : BitVec 5).toNat ∧ MayTrap sv ∧ Unlogged sv ∧ sv.barHeld sv.myClusters (fun _ _ => true) = false ∧
    (∀ e ∈ sv.transfersOn sv.myClusters, e.2.2.burst = none) ∧ (issued [atBarrier]).barHeld (issued [atBarrier]).myClusters
      (fun _ _ => true) = true ∧ Clear (issued [atBarrier]) [.a 1] ∧ (issued [atBarrier]).me.priv = true ∧ (sva 0xFFFF 1).seen.me.getA 2 = 1 ∧
    (sva 0xFFFF 1).seen.me.getA 1 = (sva 0xFFFF 1).maskInForce.setWidth 64 ∧
    sv.seen.me.getA 1 ≠ sv.maskInForce.setWidth 64 ∧ Clear (sva 0xFFFF 1) [.a 1] :=
  ⟨clear_sv _, rfl, by decide, by decide, mayTrap_sv, unlogged_of rfl, rfl, (fun _ h => by cases h), rfl,
    clear_of (s := issued [atBarrier]) rfl rfl rfl chk_off rfl _, rfl, by decide, by decide, by decide, clear_sva _ _ _⟩

/-- SetvlResults: a valid type with 0 and with 5 elements, an invalid one, and a request pending. -/
theorem test_witness_SetvlResults : Clear sv [.a 2, .a 1] ∧ sv.cur % 16 ≠ 8 ∧ sv.me.preempt = false ∧
    vtypeBad (sv.seen.me.getA 1) = false ∧ vtypeBad (sv.seen.me.getA 3) = true ∧
    (let s := on 0 { vh with preempt := true }; Clear s [.a 2, .a 1] ∧ s.me.preempt = true) :=
  ⟨clear_sv _, by decide, rfl, by decide, by decide, clear_on rfl rfl rfl rfl _, rfl⟩

/-- MaskResults: a vector hart and a control core; a mask with a bit set below `vl` and an empty one. -/
theorem test_witness_MaskResults : Clear sv ([.m 1, .m 2, .a 1, .a 2] ++ predSrc 3) ∧ sv.me.vbad = false ∧
    Clear sc ([.m 1, .m 2, .a 1, .a 2] ++ predSrc 0) ∧ sc.cur % 16 = 8 ∧
    (let s := on 0 { vh with m := vh.m.set 1 0x8 }
     Clear s ([.m 1] ++ predSrc 0) ∧ (s.seen.me.getM 1).getLsbD 3 = true ∧ s.active 0 3 = true ∧
       ∀ j, j < 3 → (s.seen.me.getM 1).getLsbD j = false) ∧ ∀ j, (sv.seen.me.getM 1).getLsbD j = false :=
  ⟨clear_sv _, rfl, clear_sc _, rfl, ⟨clear_on rfl rfl rfl rfl _, by decide +kernel, by decide, by decide +kernel⟩, fun j => by
    rw [show sv.seen.me.getM 1 = 0#4096 from rfl]; exact BitVec.getLsbD_zero⟩

/-- The vector arithmetic statements: an integer, a floating-point and a 4-bit type; operand b a vector and a scalar. -/
theorem test_witness_VectorArithmetic : (VecReady sv ∧ sv.me.fmt ≠ 10 ∧ sv.me.fmt ≠ 11 ∧ isFloat sv.me.fmt = false) ∧
    (VecReady (svf 5) ∧ isFloat (svf 5).me.fmt = true) ∧ (VecReady (svf 0x1A) ∧ (svf 0x1A).me.fmt = 10) ∧
    VecReady (svf 11) ∧ atHand (.vec 31) = true ∧ atHand (.sca 0) = true ∧
    (∀ l, Clear sv l) ∧ (∀ l, Clear (svf 5) l) ∧ (∀ l, Clear (svf 0x1A) l) ∧ ∀ l, Clear (svf 11) l :=
  ⟨⟨ready_sv, by decide, by decide, by decide⟩, ⟨ready_svf 5 rfl (by decide), by decide⟩,
    ⟨ready_svf 0x1A rfl (by decide), by decide⟩, ready_svf 11 rfl (by decide), rfl, rfl, clear_sv, clear_svf 5,
    clear_svf 0x1A, clear_svf 11⟩

/-- A stream of the 8 words from address 0 on, in w64. -/
def bound : Stream :=
  { core := { StreamCore.closed with kind := .bind, fmt := 3, mode := true, ca := { Cursor.idle with endp := 8 } }, buf := [], held := none }
/-- The test hart with that stream in `s3`. -/
def svs : State := on 0 { vh with st := vh.st.set 3 bound }

/-- StreamOperandResults. -/
theorem test_witness_StreamOperandResults : VecReady svs ∧ svs.partly = none ∧ svs.me.fmt ≠ 10 ∧ Clear svs ([.v 1] ++ predSrc 0) ∧
    Unlogged svs ∧ svs.me.preempt = false ∧ (svs.me.getS 3).isOpen = true ∧ (svs.me.getS 3).core.fmt = svs.me.fmt ∧
    ∃ ys u, OperandSeq (.str 3) svs.me.width svs.seen.me svs.seen ((List.range svs.me.vl.toNat).filter svs.me.todo) ys u :=
  ⟨⟨by decide, rfl, .inl rfl, by decide⟩, rfl, by decide, clear_on rfl rfl rfl rfl _, unlogged_of rfl, rfl, rfl, by decide,
    _, _, .cons rfl (.cons rfl (.cons rfl (.cons rfl (.nil _))))⟩

/-- VectorMoves and FloatReductions with a stream: `vperm` over the stream of StreamOperandResults, `vfdot` over 8 words in F64, and
over two of which the second lies beyond the window. -/
def boundF (at0 : Word) : Stream := { bound with core := { bound.core with fmt := 4, ca := { Cursor.idle with vbase := at0, endp := 8 } } }
def svsf (at0 : Word) : State := on 0 { vh with vtype := 4, st := vh.st.set 3 (boundF at0) }
theorem test_witness_StreamReductions : (4 : Reg) ≠ 1 ∧ VecReady (svsf 0) ∧ isFloat (svsf 0).me.fmt = true ∧ Unlogged (svsf 0) ∧
    ((svsf 0).me.getS 3).isOpen = true ∧ ((svsf 0).me.getS 3).core.fmt = (svsf 0).me.fmt ∧
    (∃ ys u, OperandSeq (.str 3) (svsf 0).me.width (svsf 0).seen.me (svsf 0).seen (List.range (svsf 0).me.vl.toNat) ys u) ∧
    MayTrap (svsf 0x5FFFF8) ∧ (1 : Nat) < (svsf 0x5FFFF8).me.vl.toNat ∧
    ∃ ys u c v u', OperandSeq (.str 3) 64 (svsf 0x5FFFF8).seen.me (svsf 0x5FFFF8).seen (List.range 1) ys u ∧
      u.operand (.str 3) 64 1 (svsf 0x5FFFF8).seen.me = .fault c v u' :=
  ⟨by decide, ⟨by decide, rfl, .inl rfl, by decide⟩, rfl, unlogged_of rfl, rfl, rfl,
    ⟨_, _, .cons rfl (.cons rfl (.cons rfl (.cons rfl (.nil _))))⟩, mayTrap_on rfl, by decide, _, _, _, _, _, .cons rfl (.nil _), rfl⟩

/-- VectorMoves: a distance of `vxch` at its bound. -/
theorem test_witness_VectorMoves : VecReady sv ∧ (sva 2 0).seen.me.getA 1 = 2 ∧ 2 * 2 ≤ sv.me.vl.toNat ∧
    (4 : Reg) ≠ 5 ∧ VOp.vec 6 ≠ .vec 4 := ⟨ready_sv, by decide, by decide, by decide, by decide⟩

/-- VectorToScalar: an index at `vl` and one below it. -/
theorem test_witness_VectorToScalar : VecReady sv ∧ sv.me.vl.toNat ≤ (sva 4 3).seen.me.getA 1 ∧
    (sva 4 3).seen.me.getA 2 < 4 ∧ Clear (sva 4 3) [.v 1, .a 1] := ⟨ready_sv, by decide, by decide, clear_sva _ _ _⟩

/-- VectorConversions: a conversion of w64 from F64, and distinct registers; d = 31 and d = 30. -/
theorem test_witness_VectorConversions : cvtBad sv.me 1 2 4 = false ∧ VecReady sv ∧ sv.me.tb = false ∧ (30 : Reg) ≠ 31 ∧
    Clear sv ((List.range 32).map (fun k => Dst.v (BitVec.ofNat 5 k)) ++ predSrc 0) :=
  ⟨by decide, ready_sv, rfl, by decide, clear_sv _⟩

/-- ScalarLoads, ScalarStores and AtomicResults: an address in the window that translates, one outside the address space,
and a misaligned one; a home within the scope, and one wider (peer memory, through a cached translation). -/
def peered : State :=
  { sv with
    clusters := [(0, { Cluster.reset with tlb :=
      [{ part := 16, ctx := 8, va := 0x40000000, size := 4096, ia := 2 ^ 60, key := 2 ^ 53, r := true, w := true,
         x := true, u := true, page := 0x40000000, pageSize := 4096 }] })] }

theorem test_witness_WordAccesses : (Clear sv [.a 1, .a 0, .a 2] ∧ Unlogged sv ∧ MayTrap sv ∧ Landed sv ∧ sv.queued = false ∧
      sv.me.queue = [] ∧ sv.me.posted = []) ∧
    (∃ key r, sv.seen.xlate (sv.seen.who sv.cur) .load .other 8 = .ok key r ∧ r.badAt key = false) ∧
    (let s := { sv with queued := true }
     s.queued = true ∧ Clear s [.a 1, .a 0, .a 2] ∧ Landed s ∧
       ∃ key r, s.seen.xlate (s.seen.who s.cur) .load .other 8 = .ok key r ∧ r.badAt key = false) ∧
    (let s := { sv with badSram := [SramLoc.scratch 0 1] }
     s.seen.srcBad [.a 1, .a 0, .a 2] = false ∧ (∃ key r, s.seen.xlate (s.seen.who s.cur) .load .other 8 = .ok key r ∧
       (match r.loadHome 0 key 8 with | .trap .eccFatal _ => true | _ => false) = true)) ∧
    (∃ key r, sv.seen.xlate (sv.seen.who sv.cur) .store .other 0x5FFFF8 = .ok key r ∧ r.badAt key = false) ∧
    (∃ c r, sv.seen.xlate (sv.seen.who sv.cur) .store .other 0x100000000000000 = .trap c r ∧ r.badAt 0 = false) ∧
    (∃ key r, sv.seen.xlate (sv.seen.who sv.cur) .atomic .other 8 = .ok key r ∧ homeScope (sv.cur / 16) key ≤ 0 ∧
      r.badAt key = false) ∧
    (let s := { sv with queued := true }
     ∃ key r, s.seen.xlate (s.seen.who s.cur) .atomic .other 8 = .ok key r ∧ homeScope (s.cur / 16) key ≤ 0 ∧ r.badAt key = false) ∧
    (∃ key r, peered.seen.xlate (peered.seen.who peered.cur) .atomic .other 0x40000000 = .ok key r ∧
      3 < homeScope (peered.cur / 16) key) ∧ (sv.seen.me.getA 2).toNat % 8 ≠ 0 :=
  ⟨⟨clear_sv _, unlogged_of rfl, mayTrap_sv, landed_of rfl, rfl, rfl, rfl⟩, acc_ok (by decide +kernel),
    ⟨rfl, clear_of (s := { sv with queued := true }) rfl rfl rfl chk_off rfl _, landed_of rfl, acc_ok (by decide +kernel)⟩,
    ⟨by decide, acc_ok (by decide +kernel)⟩, acc_ok (by decide +kernel), acc_trap (by decide +kernel), acc_ok (by decide +kernel),
    acc_ok (by decide +kernel), acc_ok (by decide +kernel), by decide⟩

/-- A vector of addresses: elements 0 to 3 of `v1` hold 1, 2, 3, 4 in w64. -/
def svx : State := on 0 { vh with v := vh.v.set 1 (1 + 2 * 2 ^ 256 + 3 * 2 ^ 512 + 4 * 2 ^ 768), smiss := 2 }
/-- The same in F64. -/
def svxf : State := on 0 { vh with v := vh.v.set 1 (1 + 2 * 2 ^ 256 + 3 * 2 ^ 512 + 4 * 2 ^ 768), vtype := 4 }

theorem clear_svx (l : List Dst) : Clear svx l := clear_on rfl rfl rfl rfl l
theorem ready_svx : VecReady svx := ⟨by decide, rfl, .inl rfl, by decide⟩

theorem amo_missed1 : ∃ u, AmoSeq 0 0 .add 8 peered.me.fmt none false (fun _ => 0x40000000) (peered.el 2) peered.seen [0] [0] 0 u := by
  obtain ⟨r, h⟩ := amo_missed (x := peered.seen.amoAt 0 0 .elem .add 8 peered.me.fmt 0x40000000 (peered.el 2 0) 0 none false none)
    (by decide +kernel)
  exact ⟨r, .missed h (.nil _)⟩

/-- ScatterResults: three live elements in the window, none missed, and an element in peer memory that misses; a retry of
element 1, and a reserved value. -/
theorem test_witness_ScatterResults : (VecReady svx ∧ Clear svx [.v 2, .a 1, .a 2, .v 1] ∧ Unlogged svx ∧
      svx.me.preempt = false ∧ MayTrap svx ∧ Landed svx ∧ svx.partly = none) ∧
    (∃ ms fl u, AmoSeq 0 0 .add 8 svx.me.fmt none false (fun i => BitVec.ofNat 64 (8 + 8 * (i + 1))) (svx.el 2) svx.seen [0, 1, 2]
      ms fl u) ∧
    (∃ ms fl u, AmoSeq 0 0 .fadd 8 svxf.me.fmt none true (fun i => BitVec.ofNat 64 (8 + 8 * (i + 1))) (svxf.el 2) svxf.seen [0]
      ms fl u) ∧
    (∃ u, AmoSeq 0 0 .add 8 peered.me.fmt none false (fun _ => 0x40000000) (peered.el 2) peered.seen [0] [0] 0 u) ∧
    ((List.range svx.me.vl.toNat).filter (fun i => svx.me.todo i && decide (i < svx.me.live.toNat) &&
      svx.me.smiss.getLsbD i)) = [1] ∧ (0x55 : Word) = BitVec.ofNat 64 (5 + 16 * 5) ∧ 5 < (6 : Word).toNat % 8 ∧
    6 ≤ (0x60 : Word).toNat / 16 ∧ (8 : Word).getLsbD 3 = true ∧ (2 : Reg).getLsbD 0 = false ∧ (1 : Reg).getLsbD 0 = true ∧
    (∃ u, AmoSeq 0 0 .add 8 svx.me.fmt none false (fun i => BitVec.ofNat 64 (8 + 8 * (i + 1))) (svx.el 2)
      ({ svx with queued := true } : State).seen [0, 1, 2] [] 0 u) ∧
    (∃ ms fl u c r, AmoSeq 0 0 .add 8 svx.me.fmt none false (fun i => 0x5FFFF8 + BitVec.ofNat 64 (8 * i)) (svx.el 2) svx.seen [0]
      ms fl u ∧ u.amoAt 0 0 .elem .add 8 svx.me.fmt 0x600000 (svx.el 2 1) 0 none false none = .fault c r) ∧
    (0x5FFFF8 : Word).toNat % 8 = 0 ∧ (0x5FFFFC : Word).toNat % 8 ≠ 0 ∧ sv.ctlBad [0x40] = false ∧
    ({ svx with badSram := [.control 0 0x40] } : State).ctlBad [0x40] = true ∧
    MayTrap ({ svx with badSram := [.control 0 0x40] } : State) :=
  ⟨⟨ready_svx, clear_svx _, unlogged_of rfl, rfl, mayTrap_on rfl, landed_of rfl, rfl⟩, ⟨_, _, _, .did rfl (.did rfl (.did rfl (.nil _)))⟩,
    ⟨_, _, _, .did rfl (.nil _)⟩, amo_missed1, by decide +kernel, by decide, by decide, by decide, by decide, rfl, rfl,
    ⟨_, .late rfl (.late rfl (.late rfl (.nil _)))⟩, ⟨_, _, _, _, _, .did rfl (.nil _), rfl⟩, by decide, by decide, rfl, rfl,
    mayTrap_of rfl (home_of fun _ => rfl)⟩

/-- Vector hart 0 with two elements of its three before the end of the window, and then none. -/
def edge : State := sva 0x5FFFF0 0
def beyond : State := sva 0x600000 0

/-- VectorLoads and VectorStores, where an element faults: the third one, and the first. -/
theorem test_witness_VectorFaults : (VecReady edge ∧ MayTrap edge ∧ Clear edge ([.v 4, .a 1, .a 2, .v 3] ++ predSrc 0) ∧
      (List.range edge.me.vl.toNat).filter (fun i => decide (i < edge.me.live.toNat) && edge.active 0 i) = [0, 1] ++ 2 :: []) ∧
    (∃ x u, LoadSeq 0 .unit 8 edge.seen [0x5FFFF0, 0x5FFFF8] x u ∧
      ∃ y r, u.loadElem 0 .unit edge.seen.me 0x600000 (edge.seen.me.placeOf 4 2) = .trap y r ∧ y ≠ .eccFatal) ∧
    (∃ ks u, KeySeq 0 .unit 8 edge.seen [0x5FFFF0, 0x5FFFF8] ks u ∧
      ∃ y r, u.storeElem 0 .unit 8 0x600000 = .trap y r ∧ y = .pageStore) ∧
    (MayTrap beyond ∧ ∃ y r, beyond.seen.loadElem 0 .unit beyond.seen.me 0x600000 (beyond.seen.me.placeOf 4 0) = .trap y r ∧ y = .pageLoad) :=
  ⟨⟨⟨by decide, rfl, .inl rfl, by decide⟩, mayTrap_on rfl, clear_sva _ _ _, by decide⟩,
    ⟨_, _, .cons rfl (.cons rfl (.nil _)), acc_trap (by decide +kernel)⟩,
    ⟨_, _, .cons rfl (.cons rfl (.nil _)), acc_trap (by decide +kernel)⟩, mayTrap_on rfl, acc_trap (by decide +kernel)⟩

/-- Vector hart 0 with two blocks of 16, one before the end of the window. -/
def blocked : State := on 0 { vh with vtype := 0x15, vl := 32, live := 32, a := vh.a.set 1 0x5FFFF6 }

/-- BlockForms, where a block faults. -/
theorem test_witness_BlockFaults : (VecReady blocked ∧ MayTrap blocked ∧ (32 + 16 - 1) / 16 = 2) ∧
    (∃ x u, LoadSeq 0 .unit 1 blocked.seen ((List.range 10).map (fun i => 0x5FFFF6 + BitVec.ofNat 64 i)) x u ∧
      ∃ y r, u.loadBlock 0 blocked.seen.me 0x600000 4 1 = .trap y r ∧ y ≠ .eccFatal) ∧
    ∃ y r, blocked.seen.loadBlock 0 blocked.seen.me 0x600000 4 0 = .trap y r ∧ y = .pageLoad :=
  ⟨⟨⟨by decide, rfl, .inl rfl, by decide⟩, mayTrap_on rfl, rfl⟩,
    ⟨_, _, .cons rfl (.cons rfl (.cons rfl (.cons rfl (.cons rfl (.cons rfl (.cons rfl (.cons rfl (.cons rfl (.cons rfl
      (.nil _)))))))))), acc_trap (by decide +kernel)⟩, acc_trap (by decide +kernel)⟩

/-- The words of blocks in their class queue, and the combination of banks, where accesses perform late. -/
theorem late_block {s : State} {a : Word} {j : Nat}
    (h : (match s.lateBlock 0 s.seen.me a 4 j with | .ok b _ => b | _ => false) = true) :
    ∃ r, s.lateBlock 0 s.seen.me a 4 j = .ok true r := by
  cases hx : s.lateBlock 0 s.seen.me a 4 j with
  | ok b r => rw [hx] at h; simp only at h; subst h; exact ⟨r, rfl⟩
  | trap c r => rw [hx] at h; cases h
  | stall r => rw [hx] at h; cases h

/-- VectorLoads and BlockForms with `queued` set: live elements and blocks in the window, and an element and a block beyond it. -/
theorem test_witness_LateVectorLoads : (let s := { edge with queued := true }
     (∃ u, LateSeq 0 .unit 8 s.seen [(0x5FFFF0, s.seen.me.placeOf 4 0), (0x5FFFF8, s.seen.me.placeOf 4 1)] u ∧
       ∃ y r, u.loadElem 0 .unit s.seen.me 0x600000 (s.seen.me.placeOf 4 2) = .trap y r ∧ y ≠ .eccFatal) ∧
     ∃ u, LateSeq 0 .unit 8 s.seen [] u) ∧
    (let s := { blocked with queued := true }
     s.me.fresh ∧ s.me.live.toNat ≤ s.me.vl.toNat ∧
     ∃ u, LateBlocks 0 s.seen.me (fun j => 0x5FFFF6 + BitVec.ofNat 64 (j * 10)) 4 s.seen (List.range 1) u ∧
       ∃ y r, u.loadBlock 0 s.seen.me 0x600000 4 1 = .trap y r ∧ y ≠ .eccFatal) :=
  ⟨⟨⟨_, .cons rfl (.cons rfl (.nil _)), acc_trap (by decide +kernel)⟩, _, .nil _⟩,
    ⟨rfl, rfl⟩, by decide, _, .cons rfl (.nil _), acc_trap (by decide +kernel)⟩

/-- VectorLoads, VectorStores and BlockForms: live elements in the window; block types and one without blocks. -/
theorem test_witness_VectorAccesses : (VecReady sv ∧ Unlogged sv ∧ Landed sv ∧ sv.partly = none ∧ sv.me.fmt ≠ 10 ∧
      sv.me.fmt ≠ 11 ∧ sv.me.preempt = false ∧
      Clear sv ([.v 4, .a 1, .a 2, .v 3] ++ predSrc 0)) ∧
    (∃ x u, LoadSeq 0 .unit 8 sv.seen [8, 16, 24] x u) ∧ (∃ ks u, KeySeq 0 .unit 8 sv.seen [8, 16, 24] ks u) ∧
    (∃ x u, LoadSeq 0 .unit 1 (svf 11).seen [8, 8, 9] x u) ∧
    (let s := svf 0x15
     VecReady s ∧ s.me.fresh ∧ s.me.live.toNat ≤ s.me.vl.toNat ∧ 1 ≤ s.me.blen ∧ isFloat s.me.fmt = true ∧
       (∃ x u, LoadSeq 0 .unit 1 s.seen ((List.range 10).map (fun i => 8 + BitVec.ofNat 64 i)) x u) ∧
       ∃ ks u, KeySeq 0 .unit 1 s.seen ((List.range 10).map (fun i => 8 + BitVec.ofNat 64 i)) ks u) ∧
    (VecReady (svf 0x1A) ∧ (svf 0x1A).me.fmt = 10 ∧ 1 ≤ (svf 0x1A).me.blen ∧ (svf 0x1A).me.blen ≤ 4 ∧ (4 : Reg) ≠ 31) ∧
    ((svf 5).me.blen = 0 ∧ MayTrap (svf 5)) :=
  ⟨⟨ready_sv, unlogged_of rfl, landed_of rfl, rfl, by decide, by decide, rfl, clear_sv _⟩, ⟨_, _, .cons rfl (.cons rfl (.cons rfl (.nil _)))⟩,
    ⟨_, _, .cons rfl (.cons rfl (.cons rfl (.nil _)))⟩, ⟨_, _, .cons rfl (.cons rfl (.cons rfl (.nil _)))⟩,
    ⟨ready_svf 0x15 rfl (by decide), ⟨rfl, rfl⟩, by decide, by decide, by decide,
      ⟨_, _, .cons rfl (.cons rfl (.cons rfl (.cons rfl (.cons rfl (.cons rfl (.cons rfl (.cons rfl (.cons rfl (.cons rfl
        (.nil _))))))))))⟩,
      ⟨_, _, .cons rfl (.cons rfl (.cons rfl (.cons rfl (.cons rfl (.cons rfl (.cons rfl (.cons rfl (.cons rfl (.cons rfl
        (.nil _))))))))))⟩⟩, ⟨ready_svf 0x1A rfl (by decide), by decide, by decide, by decide, by decide⟩, by decide, mayTrap_on rfl⟩

/-- The test hart with a copy of bank set 0: two banks of 4 KiB. -/
def svb : State := on 0 { vh with banks := [{ id := 0, size := 4096, bases := [0x2000, 0x3000] }] }
/-- The same with bank 1 outside the window, and with bank 0 done before. -/
def svbOut : State := on 0 { vh with banks := [{ id := 0, size := 4096, bases := [0x2000, 0x600000] }] }
def svbDone : State := on 0 { vh with banks := [{ id := 0, size := 4096, bases := [0x2000, 0x3000] }], bdone := 1 }

/-- EveryBankLoads, EveryBankWrites and EveryBankVectors: a bank that is not permitted, and one done before; a queue. -/
theorem test_witness_EveryBankPartial : (Clear svbOut [.a 1, .a 0, .a 3] ∧ Unlogged svbOut ∧ Landed svbOut ∧ MayTrap svbOut ∧
      svbOut.me.bdone = 0 ∧ VecReady svbOut) ∧
    (∃ bs r, svbOut.seen.readSet 0 = .ok bs r ∧ bs.bases.length = 2 ∧
      (∃ xs ks u, BankSeq 0 .other 8 r [(0, 0x2008), (1, 0x600008)] xs ks u ∧ ks.length < 2) ∧
      (∃ ls u, BankKeySeq .store .other r [(0, 0x2008), (1, 0x600008)] ls u ∧ ls.length < 2 ∧ ls ≠ []) ∧
      (∃ xs ks u, BankSeq 0 .unit 8 r [(0, 0x2008), (1, 0x600008)] xs ks u ∧ ks.length < 2) ∧
      (∃ ls u, BankKeySeq .store .unit r [(0, 0x2008), (1, 0x600008)] ls u ∧ ls.length < 2)) ∧
    (svbDone.me.bdone ≠ 0 ∧ ∃ bs r, svbDone.seen.readSet 0 = .ok bs r ∧
      (bs.bases.zipIdx.map (fun b => (b.2, b.1 + BitVec.ofNat 64 8))).filter (fun p => !svbDone.me.bdone.getLsbD p.1) = [(1, 0x3008)] ∧
      ∃ xs ks u, BankSeq 0 .other 8 r [(1, 0x3008)] xs ks u ∧ ks.length = 1) ∧
    (let s := { svbOut with queued := true }
     s.queued = true ∧ Clear s [.a 1, .a 0, .a 3] ∧ ∃ bs r, s.seen.readSet 0 = .ok bs r ∧
       ∃ ls u, BankKeySeq .store .other r [(0, 0x2008), (1, 0x600008)] ls u ∧ ls.length < 2 ∧ ls ≠ []) :=
  ⟨⟨clear_on rfl rfl rfl chk_off _, unlogged_of rfl, landed_of rfl, mayTrap_on rfl, rfl, ⟨by decide, rfl, .inl rfl, by decide⟩⟩,
    ⟨_, _, rfl, rfl, ⟨_, _, _, .read rfl (.refused rfl (by decide) (.nil _)), by decide⟩,
      ⟨_, _, .found rfl (.refused rfl (by decide) (.nil _)), by decide, by decide⟩,
      ⟨_, _, _, .read rfl (.refused rfl (by decide) (.nil _)), by decide⟩,
      ⟨_, _, .found rfl (.refused rfl (by decide) (.nil _)), by decide⟩⟩,
    ⟨by decide, _, _, rfl, by decide, _, _, _, .read rfl (.nil _), rfl⟩,
    ⟨rfl, clear_of (s := { svbOut with queued := true }) rfl rfl rfl chk_off rfl _, _, _, rfl, _, _,
      .found rfl (.refused rfl (by decide) (.nil _)), by decide, by decide⟩⟩

/-- EveryBankLoads and EveryBankVectors: the banks of a load wait in their class queue, or perform at once; a bank of the second
element that is not permitted, of a load and of a store. -/
theorem test_witness_EveryBankLate :
    (let b0 : Banks := { acc := none, done := 0, fl := 0, miss := false }
     let all : Place := { dst := .a 4, pos := 0, w := 64, sh := 0, copy := none }
     (svb.lateBanks 0 .other 8 .add 4 [(0, 0x2008), (1, 0x3008)] b0 all = none) ∧
     (({ svb with queued := true } : State).lateBanks 0 .other 8 .add 4 [(0, 0x2008), (1, 0x600008)] b0 all = none) ∧
     (∃ u, ({ svb with queued := true } : State).lateBanks 0 .other 8 .add 4 [(0, 0x2008), (1, 0x3008)] b0 all = some u) ∧
     ∃ u, LateBanks 0 8 .add svb.me.fmt (fun i => [(0, 0x2008 + BitVec.ofNat 64 (8 * i)), (1, 0x3008 + BitVec.ofNat 64 (8 * i))])
       (svb.seen.me.placeOf 4) ({ svb with queued := true } : State).seen [0, 1] u) ∧
    (let s := on 0 { vh with banks := [{ id := 0, size := 4096, bases := [0x2000, 0x5FFFF8] }] }
     MayTrap s ∧ s.queued = false ∧ s.me.posted = [] ∧ s.me.queue = [] ∧
       (List.range s.me.vl.toNat).filter (fun i => decide (i < s.me.live.toNat) && s.me.todo i) = [0] ++ 1 :: [2] ∧
       (∃ x u xs ks v, LoadSeq 0 .other 8 s.seen [0x2000, 0x5FFFF8] x u ∧
         BankSeq 0 .other 8 u [(0, 0x2008), (1, 0x600000)] xs ks v ∧ ks.length < 2 ∧ xs ≠ []) ∧
       ∃ cells u ls v, BankStoreSeq 0 8 s.seen [([0x2000, 0x5FFFF8], 7)] cells u ∧
         BankKeySeq .store .other u [(0, 0x2008), (1, 0x600000)] ls v ∧ ls.length < 2) :=
  ⟨⟨rfl, by decide +kernel, some_of (by decide +kernel), _, .cons rfl (.cons rfl (.nil _))⟩,
    ⟨mayTrap_on rfl, rfl, rfl, rfl, by decide, ⟨_, _, _, _, _, .cons rfl (.cons rfl (.nil _)), .read rfl (.refused rfl (by decide) (.nil _)),
      by decide, by decide⟩, _, _, _, _, .cons (.cons rfl (.cons rfl (.nil _))) (.nil _), .found rfl (.refused rfl (by decide) (.nil _)),
      by decide⟩⟩

/-- EveryBankLoads, EveryBankWrites and EveryBankVectors: the last offset that fits. -/
theorem test_witness_EveryBank : (Clear svb [.a 1, .a 0, .v 3] ∧ Unlogged svb ∧ svb.me.bdone = 0 ∧ svb.me.queue = [] ∧
      svb.me.posted = [] ∧ VecReady svb ∧ svb.me.preempt = false ∧ Landed svb ∧ svb.partly = none) ∧
    (∃ bs r, svb.seen.readSet 0 = .ok bs r ∧ bs.bases.length ≤ 64 ∧ bs.bases ≠ [] ∧ 4088 % 8 = 0 ∧ 4088 + 8 ≤ bs.size ∧
      (∃ x xs u, LoadSeq 0 .other 8 r (bs.bases.map (fun v => v + BitVec.ofNat 64 4088)) (x :: xs) u) ∧
      (∃ ks u, XlateSeq .store .other r (bs.bases.map (fun v => v + BitVec.ofNat 64 4088)) ks u) ∧
      (∃ ks u, XlateSeq .atomic .other r (bs.bases.map (fun v => v + BitVec.ofNat 64 4088)) ks u) ∧
      ∃ cells u, BankStoreSeq 0 8 r [(bs.bases.map (fun v => v + BitVec.ofNat 64 8), 7)] cells u) :=
  ⟨⟨clear_on rfl rfl rfl rfl _, unlogged_of rfl, rfl, rfl, rfl, ⟨by decide, rfl, .inl rfl, by decide⟩, rfl, landed_of rfl, rfl⟩,
    ⟨_, _, rfl, by decide, by decide, rfl, by decide, ⟨_, _, _, .cons rfl (.cons rfl (.nil _))⟩,
      ⟨_, _, .cons rfl (.cons rfl (.nil _))⟩, ⟨_, _, .cons rfl (.cons rfl (.nil _))⟩,
      ⟨_, _, .cons (.cons rfl (.cons rfl (.nil _))) (.nil _)⟩⟩⟩
/-- A descriptor of one dense level of 4 values in F64 at address 0x40, and another address of zeros. -/
def dense : State := poke (sva 0x40 0) [(0x40, 0x41), (0x48, 0x400), (0x60, 4 * 2 ^ 32)]
/-- Fibre streams along that level in `s1` and `s2`. -/
def walk4 : Cursor :=
  { Cursor.idle with da := 0x40, vfmt := 4, vbase := 0x400, ext := 4, vals := true, known := true, endp := 4 }
def fibre : Stream := 
  { core := { StreamCore.closed with kind := .fibre, fmt := 4, mode := true, ca := walk4 }, buf := [], held := none }
def svq : State := on 0 { vh with st := (vh.st.set 1 fibre).set 2 fibre, a := (vh.a.set 1 0x40).set 2 0 }

/-- StreamsOpened: each clause. -/
theorem test_witness_StreamsOpened : (sv.cur % 16 ≠ 8 ∧ sv.me.vbad = false ∧ Clear sv [.a 1, .a 2] ∧ Unlogged sv ∧
      MayTrap sv ∧ Landed sv) ∧ (((sva 0x40 1).seen.me.getA 2).toNat / 2 ^ 62 = 0 ∧ ((sva 0x40 1).seen.me.getA 2).toNat % 2 ^ 62 ≠ 0) ∧
    (∃ ws r q c, dense.seen.startStream.loadWords 0x40 20 = .ok ws r ∧ descOf ws = some q ∧ q.cursor 0x40 0 0 = some c) ∧
    (∃ ws r, sv.seen.startStream.loadWords 0x40 20 = .ok ws r ∧ descOf ws = none) ∧ (sv.seen.me.getA 1).toNat % 64 ≠ 0 ∧
    (sv.me.fmt.toNat < 10 ∧ (sv.seen.me.getA 2).toNat < 2 ^ 32 ∧ (sv.seen.me.getA 1).toNat % (sv.me.width / 8) = 0) ∧
    ((svq.me.getS 1).core.kind = .fibre ∧ (svq.me.getS 2).core.kind = .fibre ∧ (4 : SReg).toNat % 2 = 0 ∧
      (1 : SReg) ≠ 2 ∧ (4 : SReg) ≠ 1) ∧ (7 : BitVec 3) ≠ 0 ∧
    ∃ ws r q u, sv.seen.startStream.loadWords 0x40 8 = .ok ws r ∧ restoreStream (sv.reader 0) ws r = .ok q u :=
  ⟨⟨by decide, rfl, clear_sv _, unlogged_of rfl, mayTrap_sv, landed_of rfl⟩, ⟨by decide, by decide⟩, ⟨_, _, _, _, rfl, rfl, rfl⟩, ⟨_, _, rfl, rfl⟩, by decide,
    ⟨by decide, by decide, by decide⟩, ⟨rfl, rfl, by decide, by decide, by decide⟩, by decide, ⟨_, _, _, _, rfl, rfl⟩⟩

/-- StreamsRead: each clause, on a bound array, a fibre and a closed stream. -/
theorem test_witness_StreamsRead : (VecReady svs ∧ Clear svs ([.a 1] ++ predSrc 0) ∧ Unlogged svs ∧ svs.me.preempt = false ∧
      MayTrap svs ∧ svs.partly = none ∧ svs.bufferBad svs.cur 3 = false ∧ (svs.me.getS 3).isOpen = true ∧ (sv.me.getS 3).isOpen = false) ∧
    (∃ u v', SkipSeq 0 1 1 svs.seen bound u v') ∧
    (∃ es u, PeekSeq 0 svs.seen bound es u ∧ es.length = min svs.me.live.toNat svs.me.vl.toNat) ∧
    (svs.me.width = 64 ∧ svs.seen.me.getA 0 = 0 ∧ svs.seen.me.getA 1 ≠ 0 ∧ ∃ n u, streamLeft 0 bound svs.seen = .ok n u) ∧
    (∃ key ws r u, svs.seen.xlate (svs.seen.who svs.cur) .store .other 0x40 = .ok key r ∧
      recordOf 0 bound.core (r.drainPosted 0 (fun p => p.cls == 0 && p.key / 64 == key / 64)) = .ok ws u) ∧
    ∃ u v', SkipSeq 0 2 2 svq.seen fibre u v' :=
  ⟨⟨⟨by decide, rfl, .inl rfl, by decide⟩, clear_on rfl rfl rfl rfl _, unlogged_of rfl, rfl, mayTrap_on rfl, rfl, rfl, rfl, rfl⟩,
    ⟨_, _, .pass rfl (by decide) (.stop rfl (by decide))⟩,
    ⟨_, _, .cons rfl (.cons rfl (.cons rfl (.nil _ _))), by decide⟩, ⟨rfl, rfl, by decide, _, _, rfl⟩, ⟨_, _, _, _, rfl, rfl⟩,
    ⟨_, _, .pass rfl (by decide) (.pass rfl (by decide) (.stop rfl (by decide)))⟩⟩

/-- StreamsRead: a pair whose spindle has produced nothing and may fetch, while accesses perform apart. -/
theorem test_witness_StreamsRead_awaits :
    let v : Stream := { core := { StreamCore.closed with kind := .isectA, fmt := 4, mode := true, ca := walk4, cb := walk4 }, buf := [], held := none }
    let s := { on 0 { vh with vtype := 4, st := vh.st.set 2 v } with queued := true }
    v.awaits s = true ∧ v.isOpen = true ∧ s.seen.me.getA 1 ≠ 0 ∧ VecReady s ∧ ∃ n u, streamLeft 0 v s.seen = .ok n u ∧ 0 < n :=
  ⟨by decide, by decide, by decide, ⟨by decide, rfl, .inl rfl, by decide⟩, _, _, rfl, by decide⟩

/-- SkeinAndPrune: an accumulation of three live elements and a pad, and the formats. -/
theorem test_witness_SkeinAndPrune : (VecReady svx ∧ Unlogged svx ∧ svx.me.preempt = false ∧ svx.partly = none ∧ svx.queued = false ∧
      svx.skeinOut svx.myCluster = false ∧ svx.me.fmt = svx.myFast.skfmt ∧ Clear svx ([.v 1] ++ opSrcs (.vec 2) ++ predSrc 0)) ∧
    (∃ os fl u, AccSeq 1 (.vec 2) (svx.active 0) svx.seen.me svx.seen ((List.range svx.me.vl.toNat).filter svx.me.todo)
      os fl u) ∧
    (∀ i, i < svx.me.vl.toNat → svx.active 0 i = true → svx.sharedBad svx.myCluster 3 (svx.el 1 i % 2 ^ 32) = false) ∧
    svx.me.fmt ∈ ([2, 3, 4, 5] : List (BitVec 4)) ∧ svx.me.fmt ≠ 10 ∧ svx.ctlBad [0x31, 0x32] = false ∧
    (∀ x, VOp.vec 2 = .str x → (svx.me.getS x).isOpen = true ∧ (svx.me.getS x).core.fmt = svx.me.fmt) :=
  ⟨⟨ready_svx, unlogged_of rfl, rfl, rfl, rfl, rfl, rfl, clear_svx _⟩,
    ⟨_, _, _, .put rfl rfl rfl rfl (.put rfl rfl rfl rfl (.put rfl rfl rfl rfl (.pass rfl rfl (.nil _))))⟩,
    fun _ _ _ => rfl, by decide, by decide, rfl, fun _ h => by cases h⟩

/-- A grammar of two rules, its row map naming rule 1, whose rules have no symbols. -/
def bindable : State := poke (sva 0x40 0)
  [(0x40, 1 * 2 ^ 44 + 1 * 2 ^ 32 + 1 * 2 ^ 16 + 2), (0x48, 0x400), (0x50, 0x500), (0x58, 0x600), (0x60, 0x700), (0x700, 1)]
def gram : Grammar :=
  { ncol := 1, ndict := 1, nrow := 1, nrules := 2, rtab := 0x400, stab := 0x500, dtab := 0x600, omap := 0x700, rows := [1] }
def grammared (f : Word) : State :=
  { on 0 { vh with vtype := f, a := (vh.a.set 1 (2 * 2 ^ 12)).set 2 0x800 } with
    clusters := [(0, { Cluster.reset with fast := { Fast.reset with gram := some gram, rvalid := 3 } })] }

/-- GrammarResults: each clause. -/
theorem test_witness_GrammarResults : (bindable.cur % 16 ≠ 8 ∧ Clear bindable ([.a 1, .a 2] ++ predSrc 0) ∧ Unlogged bindable ∧
      bindable.me.preempt = false ∧ bindable.myFast.gram = none ∧ MayTrap bindable ∧ Landed bindable ∧ bindable.engineBusy = false) ∧
    (let s := { on 0 vh with harts := [(0, vh), (1, { Hart.reset 1 with status := .running, engaged := some (.evaluating []) })] }
     s.engineBusy = true ∧ Clear s ([.a 1, .a 2] ++ predSrc 0) ∧ s.me.status = .running ∧ (s.seen.me.getA 0).toNat % 64 = 0) ∧
    (∃ ws g n rows r u, bindable.seen.loadWords 0x40 8 = .ok ws r ∧ grammarOf ws = some (g, n) ∧
      r.loadHalves g.omap n = .ok rows u ∧ ∀ x ∈ rows, x < g.nrules) ∧
    ((grammared 3).myFast.gram = some gram ∧ (grammared 3).queued = false ∧ (grammared 3).engineBusy = false ∧ (2 * 2 ^ 12) % 2 ^ 12 + 2 * 2 ^ 12 / 2 ^ 12 % 2 ^ 13 ≤ gram.nrules ∧
      ∃ fl u, EvalSeq { id := 0, reader := { priv := true, views := (grammared 3).evalViews }, g := gram, x := 0x800, nb := 1, rm := 0, journal := false, begun := false, floor := 0 }
        (grammared 3).seen.startStream [0, 1] fl u) ∧
    (VecReady (grammared 5) ∧ isFloat (grammared 5).me.fmt = true ∧ gram.rows[0]? = some 1 ∧
      (grammared 5).myFast.rvalid.getLsbD 1 = true ∧ (grammared 5).sharedBad 0 2 1 = false) :=
  ⟨⟨by decide, clear_of rfl rfl rfl rfl rfl _, unlogged_of rfl, rfl, rfl, mayTrap_of rfl (home_of fun _ => rfl), landed_of rfl,
      by decide⟩,
    ⟨by decide, clear_of rfl rfl rfl rfl rfl _, rfl, by decide⟩, ⟨_, _, _, _, _, _, rfl, rfl, rfl, by decide⟩,
    ⟨rfl, rfl, by decide, by decide, _, _, .cons rfl rfl (.cons rfl rfl (.nil _))⟩,
    ⟨⟨by decide, rfl, .inl rfl, by decide⟩, rfl, rfl, by decide +kernel, rfl⟩⟩

/-- A control core whose cluster has slots 0 and 1 claimed and 1 × 1 × 1 F32 matrices configured, with a loom queue. -/
def loomed (x : Word) (q : List LoomOp) : State :=
  { sca x 0 with
    clusters := [(0, { Cluster.reset with queue := q, fast := { Fast.reset with claimed := 3, cfg := some 0x1540100101 } })] }
/-- The same as member 0 of a pair with cluster 1, which is at its operation, or is not. -/
def paired (at1 : Bool) : State :=
  { sca 1 0 with
    clusters := [(0, { Cluster.reset with fast := { Fast.reset with claimed := 3, cfg := some 0x1540100101, coop := 3 } }),
      (1, { Cluster.reset with fast := { Fast.reset with coop := 3, coopAt := at1 } })] }

theorem clear_loomed (x : Word) (q : List LoomOp) (l : List Dst) : Clear (loomed x q) l :=
  clear_of (s := loomed x q) rfl rfl rfl chk_off rfl l

/-- LoomIssue: each clause, with an empty and a full queue. -/
theorem test_witness_LoomIssue : ((loomed 1 []).cur % 16 = 8 ∧ Clear (loomed 1 []) [.a 1, .m 1] ∧ (loomed 1 []).myQueue = []) ∧
    ((14 : Nat) ≤ (unclaimed (loomed 14 []).myFast.claimed).length ∧ (loomed 14 []).slotBusy 0 15 = false) ∧
    (mxCfgBad 0x1540100101 = false ∧ coopBad 3 0 = false ∧ cvtIll (loomed 1 []).myFast 0x51 = false ∧
      mmBad (loomed 1 []).myFast 3 0 1 none = false ∧ mmBad (loomed 1 []).myFast 3 0 1 (some 1) = false ∧
      (loomed 1 []).myFast.cfg = some 0x1540100101 ∧ (loomed 1 []).myFast.coop = 0) ∧
    (let q := List.replicate 8 (plainOp (.zero 1))
     (loomed 1 q).myQueue ≠ [] ∧ 8 ≤ (loomed 1 q).myQueue.length ∧ Clear (loomed 1 q) [.a 1, .m 1] ∧
       mmBad (loomed 1 q).myFast 3 0 1 none = false) ∧
    (let s := paired true
     Clear s [.a 1, .m 1] ∧ s.myFast.coop ≠ 0 ∧ mmBad s.myFast 3 0 1 none = false ∧
       (s.setMyFast { s.myFast with coopAt := true }).coopReady s.myCluster = true) ∧
    (let s := paired false
     Clear s [.a 1, .m 1] ∧ s.me.preempt = false ∧
       (s.setMyFast { s.myFast with coopAt := true }).coopReady s.myCluster = false) :=
  ⟨⟨rfl, clear_loomed _ _ _, rfl⟩, ⟨by decide, by decide⟩,
    ⟨by decide, by decide, by decide, by decide, by decide +kernel, rfl, rfl⟩, ⟨by decide, by decide, clear_loomed _ _ _, by decide⟩,
    ⟨clear_of rfl rfl rfl rfl rfl _, by decide, by decide, by decide⟩, ⟨clear_of rfl rfl rfl rfl rfl _, rfl, by decide⟩⟩
/-- Vector hart 0 in format code `f` with row 2 in `a1`, slot 0 claimed, tile 0 converted to F32, and a loom queue. -/
def slotted (f : Word) (q : List LoomOp) : State :=
  { on 0 { vh with vtype := f, a := vh.a.set 1 2 } with
    clusters := [(0, { Cluster.reset with
      queue := q, fast := { Fast.reset with claimed := 1, tmode := Fast.reset.tmode.set 0 (.converted 5) } })] }

/-- An operation that reads slot 0 and changes tile 0. -/
def readsSlot : LoomOp := { plainOp (.zero 1) with reading := 1, started := true }

/-- SlotsAndTiles: each clause, in F32 and in Q4X. -/
theorem test_witness_SlotsAndTiles : (VecReady (slotted 5 []) ∧ Clear (slotted 5 []) ([.v 1, .v 2, .a 1] ++ predSrc 0) ∧
      vtoBad ((slotted 5 []).cluster 0).claimed (slotted 5 []).seen.me 0 1 1 0 = false ∧ (slotted 5 []).slotBusy 0 0 = false ∧
      (slotted 5 []).me.fmt ≠ 10 ∧ (slotted 5 []).queued = false) ∧
    (let s := { slotted 5 [] with queued := true }
     s.queued = true ∧ s.me.engaged ≠ some .writing ∧ VecReady s ∧ Clear s ([.v 1, .v 2, .a 1] ++ predSrc 0) ∧
       vtoBad (s.cluster 0).claimed s.seen.me 0 1 1 0 = false ∧ s.slotBusy 0 0 = false) ∧
    (let s := on 0 { vh with engaged := some .taking, a := vh.a.set 1 2 }
     VecReady s ∧ Clear s ([.v 1, .v 2, .a 1] ++ predSrc 0) ∧ s.slotBusy 0 0 = false ∧
       vtoBad (s.cluster 0).claimed s.seen.me 0 1 1 0 = true ∧
       (decide (s.me.engaged ≠ some .taking) && vtoBad (s.cluster 0).claimed s.seen.me 0 1 1 0) = false) ∧
    (let s := on 0 { vh with engaged := some .writing }
     s.me.engaged = some .writing ∧ VecReady s ∧ Clear s ([.v 1, .v 2, .a 1] ++ predSrc 0)) ∧
    (VecReady (slotted 0x1A []) ∧ Clear (slotted 0x1A []) ([.v 1, .v 2, .a 1] ++ predSrc 0) ∧
      vtoBad ((slotted 0x1A []).cluster 0).claimed (slotted 0x1A []).seen.me 0 1 1 0 = false ∧ (slotted 0x1A []).me.fmt = 10) ∧
    ((slotted 5 [readsSlot]).slotBusy 0 0 = true ∧ ((slotted 5 [readsSlot]).cluster 0).onTile 0 ((slotted 5 [readsSlot]).readMark (slotted 5 [readsSlot]).seen.me 0).1 = true ∧
      VecReady (slotted 5 [readsSlot]) ∧ Clear (slotted 5 [readsSlot]) ([.v 1, .v 2, .a 1] ++ predSrc 0)) ∧
    (((slotted 5 []).cluster 0).onTile 0 ((slotted 5 []).readMark (slotted 5 []).seen.me 0).1 = false ∧
      ((slotted 5 []).readMark (slotted 5 []).seen.me 0).2 = .converted (slotted 5 []).me.fmt ∧
      (slotted 5 []).myQueue.any (fun q => q.started && q.onTile 0) = false ∧
      ((slotted 5 []).seen.me.getA 1).toNat < 128 ∧
      64 * ((slotted 5 []).seen.me.getA 1).toNat + (slotted 5 []).me.vl.toNat ≤ 8192 ∧
      ∀ i, i < (slotted 5 []).me.vl.toNat → (slotted 5 []).active 0 i = true →
        (slotted 5 []).sharedBad 0 1 (8192 * 0 + 64 * 2 + i) = false) :=
  ⟨⟨⟨by decide, rfl, .inl rfl, by decide⟩, clear_of (s := slotted 5 []) rfl rfl rfl chk_off rfl _, by decide, by decide, by decide, rfl⟩,
    ⟨rfl, by decide, ⟨by decide, rfl, .inl rfl, by decide⟩, clear_of (s := { slotted 5 [] with queued := true }) rfl rfl rfl chk_off rfl _,
      by decide, by decide⟩,
    ⟨⟨by decide, rfl, .inl rfl, by decide⟩, clear_on rfl rfl rfl chk_off _, by decide, by decide, by decide⟩,
    ⟨rfl, ⟨by decide, rfl, .inl rfl, by decide⟩, clear_on rfl rfl rfl chk_off _⟩,
    ⟨⟨by decide, rfl, .inl rfl, by decide⟩, clear_of (s := slotted 0x1A []) rfl rfl rfl chk_off rfl _, by decide, by decide⟩,
    ⟨by decide, by decide, ⟨by decide, rfl, .inl rfl, by decide⟩, clear_of (s := slotted 5 [readsSlot]) rfl rfl rfl chk_off rfl _⟩,
    ⟨by decide, by decide, by decide, by decide, by decide, fun _ _ _ => rfl⟩⟩

/-- A fork table at address 0 for vector hart 1, and control core 8 with another party of harts. -/
def forking (party arrived : BitVec 8) (x : Word) : State :=
  let i : Iter := { part := 0, ctx := 0, launch := 0, n := 0 }
  poke { sca 0 x with
    clusters := [(0, { Cluster.reset with fast := { Fast.reset with party := party, arrived := arrived, iter := some i } })] }
    [(0x40, 0x2000), (0x48, 7)]

theorem clear_forking (p q : BitVec 8) (x : Word) (l : List Dst) : Clear (forking p q x) l :=
  clear_of (s := forking p q x) rfl rfl rfl chk_off rfl l

/-- ForkAndRendezvous: each clause. -/
theorem test_witness_ForkAndRendezvous : (Clear (forking 0 0 2) [.a 1, .a 2] ∧ Unlogged (forking 0 0 2) ∧ Landed (forking 0 0 2) ∧
      (forking 0 0 2).cur % 16 = 8 ∧ (forking 0 0 2).seen.me.getA 2 = 2 ∧ (forking 0 0 2).seen.me.getA 1 = 0 ∧
      (forking 0 0 2).myFast.party &&& (2 : Word).setWidth 8 = 0 ∧
      ∃ es r, ((forking 0 0 2).seen.drainHart (forking 0 0 2).cur).forkEntries 0 (harts8 ((2 : Word).setWidth 8)) = .ok es r ∧
        es.all (fun e => !forkBad e.2) = true) ∧
    (Clear sv [.a 1, .a 2] ∧ Unlogged sv ∧ Landed sv ∧ sv.cur % 16 ≠ 8) ∧
    (Clear (forking 2 2 1) [.a 2, .a 1] ∧ (forking 2 2 1).seen.me.getA 2 = 1 ∧ (forking 2 2 1).seen.me.getA 1 = 0 ∧
      (forking 2 2 1).myFast.party &&& ~~~(forking 2 2 1).myFast.arrived = 0 ∧ (forking 2 2 1).myFast.iter ≠ none) ∧
    (forking 2 0 0).myFast.party &&& ~~~(forking 2 0 0).myFast.arrived ≠ 0 ∧ (forking 2 0 0).me.preempt = false :=
  ⟨⟨clear_forking _ _ _ _, unlogged_of rfl, landed_of rfl, rfl, by decide, rfl, by decide, _, _, rfl, rfl⟩,
    ⟨clear_sv _, unlogged_of rfl, landed_of rfl, by decide⟩,
    ⟨clear_forking _ _ _ _, by decide, rfl, by decide, by decide⟩, by decide, rfl⟩

/-- A barrier word of phase 3 with 5 of 9 bytes to come at address 0x40, and a count in `a2`. -/
def barred (n : Word) : State := poke (sva 0x40 n) [(0x40, 9 * 2 ^ 40 + 5), (0x48, 3 * 2 ^ 16)]

/-- A partition of cluster 0 with nothing in it. -/
def partOf0 : Part :=
  { clusters := [0], grace := 10, journal := false, halted := false, running := none, ctxs := [], regions := [],
    resetArea := none, routes := [], switch := none, doubleTrap := false, haltedBy := none }
/-- A publishable region. -/
def region4 : Region := { n := 4, lo := 0x10000000, size := 65536, visible := 0x10000, shadow := 0x20000 }
/-- A partition with publishable region 4, of which vector hart 0 is one of the harts, with `a1` = 4. -/
def published (fast : Fast) : State :=
  { sva 4 0 with
    clusters := [(0, { Cluster.reset with fast := fast })], parts := [(0, { partOf0 with regions := [region4] })] }

/-- BarriersAndPublish: each clause, a count below, at and beyond what is to come. -/
theorem test_witness_BarriersAndPublish : (Clear (barred 5) [.a 1, .a 2] ∧ Unlogged (barred 5) ∧ Landed (barred 5) ∧
      ((barred 5).seen.me.getA 1).toNat % 16 = 0 ∧ (5 : Word).toNat < 2 ^ 40 ∧ (5 : Word) ≠ 0) ∧
    (let s := poke (sva 0x40 5) [(0x40, 5), (0x48, 2 ^ 63)]
     MayTrap s ∧ Clear s [.a 1, .a 2] ∧ ∃ key r, s.seen.xlate (s.seen.who 0) .atomic .other 0x40 = .ok key r ∧
       (r.drain 0 (fun _ => true)).badAt key = false ∧ (r.drain 0 (fun _ => true)).badAt (key + 8) = false ∧
       2 ^ 105 ≤ (r.drain 0 (fun _ => true)).mem.readLE key 16) ∧
    (∃ key r, (barred 5).seen.xlate ((barred 5).seen.who 0) .atomic .other 0x40 = .ok key r ∧
      (r.drain 0 (fun _ => true)).badAt key = false ∧ (r.drain 0 (fun _ => true)).badAt (key + 8) = false ∧
      (r.drain 0 (fun _ => true)).mem.readLE key 16 < 2 ^ 105 ∧
      BarHas (r.drain 0 (fun _ => true)).mem key 5 9 3 0 false) ∧
    (∃ key r, (barred 3).seen.xlate ((barred 3).seen.who 0) .load .other 0x40 = .ok key r ∧
      r.badAt key = false ∧ r.badAt (key + 8) = false ∧ BarHas r.mem key 5 9 3 0 false ∧ (3 : Word).toNat = 3 ∧ (barred 3).me.preempt = false) ∧
    (((sva 0x48 0).seen.me.getA 1).toNat % 16 ≠ 0 ∧ ((sva 0x48 0).seen.me.getA 1).toNat < 2 ^ 40 ∧ MayTrap (sva 0x48 0)) ∧
    (Unlogged (published Fast.reset) ∧ Clear (published Fast.reset) [.a 1, .a 2] ∧
      (∃ g ∈ (published Fast.reset).myRegions, g.n = ((published Fast.reset).seen.me.getA 1).toNat) ∧
      (published Fast.reset).pubWaits 4 = false ∧
      ∀ e ∈ (published Fast.reset).transfersOn [0], e.2.2.burst = none) ∧
    (published { Fast.reset with chans := Fast.reset.chans.set 2 { Channel.reset with xfers := [writing] } }).pubWaits 4
      = true :=
  ⟨⟨clear_of (s := barred 5) rfl rfl rfl chk_off rfl _, unlogged_of rfl, landed_of rfl, by decide, by decide, by decide⟩,
    ⟨mayTrap_of rfl (home_of fun _ => rfl), clear_of (s := poke (sva 0x40 5) _) rfl rfl rfl chk_off rfl _, acc_ok (by decide +kernel)⟩,
    ⟨_, _, rfl, by decide, by decide, by decide, ⟨by decide, by decide, by decide, by decide, by decide⟩⟩,
    ⟨_, _, rfl, by decide, by decide, ⟨by decide, by decide, by decide, by decide, by decide⟩, rfl, rfl⟩,
    ⟨by decide, by decide, mayTrap_on rfl⟩,
    ⟨(fun c hc => by cases hc), clear_of (s := published Fast.reset) rfl rfl rfl chk_off rfl _,
      ⟨_, .head _, by decide⟩, by decide, (fun _ h => by cases h)⟩, by decide⟩
/-- A list element of one chunk of 8 bytes at address 0x40, from `x` to `y`, and another address of zeros. -/
def listed (x y : Nat) : State := poke (sva 0x40 0) [(0x40, x), (0x48, y), (0x50, 2 ^ 24 + 8), (0x80, 2 ^ 40)]
/-- A descriptor of 256 bytes by route `r` at address 0x40, in a partition with route 0. -/
def routed (r : Nat) : State :=
  { poke (sva 0x40 0) [(0x40, 0x1000), (0x48, 0x2000), (0x50, r * 2 ^ 40 + 256)] with
    parts := [(0, { partOf0 with routes := [(0, .host)] })] }
/-- The operands of `dma.lay` for one chunk of 8 bytes: `a1` to `a3`, and one element of `v1`. -/
def laid : State :=
  on 0 { vh with vl := 1, live := 1, a := ((vh.a.set 1 0x1000).set 2 0x2000).set 3 8, v := vh.v.set 1 0x10000000000 }

theorem lay_elem : ∃ e, elementOf 0 (layWords laid.seen.me 1 1) = some e ∧ e.fault (laid.who 0).regions = none := by
  have h : (match elementOf 0 (layWords laid.seen.me 1 1) with
      | some e => decide (e.fault (laid.who 0).regions = none)
      | none => false) = true := by decide +kernel
  split at h
  · rename_i e he
    exact ⟨e, he, of_decide_eq_true h⟩
  · cases h

set_option maxRecDepth 4000 in
/-- TransferForms: each clause. -/
theorem test_witness_TransferForms : (Clear (listed 0x1000 0x2000) [.a 1] ∧ Unlogged (listed 0x1000 0x2000) ∧
      MayTrap (listed 0x1000 0x2000) ∧ Landed (listed 0x1000 0x2000) ∧ ((listed 0x1000 0x2000).seen.me.getA 1).toNat % 32 = 0 ∧
      ((listed 0x1000 0x2000).chan 0 2).xfers.length < 64 ∧
      (∃ ws r e, (listed 0x1000 0x2000).seen.loadWords 0x40 12 = .ok ws r ∧ elementOf 0x40 ws = some e ∧
        e.fault ((listed 0x1000 0x2000).who 0).regions = none) ∧
      (∃ ws r e c, (listed 0x1000 0x1000).seen.loadWords 0x40 12 = .ok ws r ∧ elementOf 0x40 ws = some e ∧
        e.fault ((listed 0x1000 0x1000).who 0).regions = some c) ∧
      ∃ ws r, sv.seen.loadWords 0x40 12 = .ok ws r ∧ elementOf 0x40 ws = none) ∧
    (Clear laid [.a 1, .a 2, .a 3, .v 1] ∧ layBad laid.seen.me 1 1 = false ∧
      ∃ e, elementOf 0 (layWords laid.seen.me 1 1) = some e ∧ e.fault (laid.who 0).regions = none) ∧
    ((Clear (routed 0) [.a 1] ∧ ((routed 0).seen.me.getA 1).toNat % 64 = 0) ∧
      (∃ ws r f, (routed 0).seen.loadWords 0x40 8 = .ok ws r ∧ fabDescOf false ws = some f ∧ (routed 0).routed f.route = true) ∧
      (∃ ws r f, (routed 0).seen.loadWords 0x40 8 = .ok ws r ∧ fabDescOf true ws = some f ∧ (routed 0).routed f.route = true) ∧
      (∃ ws r f, (routed 1).seen.loadWords 0x40 8 = .ok ws r ∧ fabDescOf true ws = some f ∧ (routed 1).routed f.route = false) ∧
      ∃ ws r, sv.seen.loadWords 0x40 8 = .ok ws r ∧ fabDescOf false ws = none ∧ fabDescOf true ws = none) ∧
    (Clear (issued []) [.a 1] ∧ Unlogged (issued []) ∧ idBad (issued []) 2 0 = false ∧ (issued []).seen.me.getA 1 = 0 ∧
      (((issued []).chan 0 2).find 0).isNone ∧ idBad (issued [writing]) 2 0 = false ∧
      (((issued [writing]).chan 0 2).find 0).isSome ∧ (issued [writing]).me.preempt = false ∧
      64 ≤ ((issued (List.replicate 64 writing)).chan 0 2).xfers.length) ∧
    ((0 : Word).toNat * 1000 ≤ sv.mtime ∧ sv.mtime < (1 : Word).toNat * 1000 ∧ (2 : BitVec 3).toNat < 6) :=
  ⟨⟨clear_of (s := listed 0x1000 0x2000) rfl rfl rfl chk_off rfl _, unlogged_of rfl, mayTrap_of rfl (home_of fun _ => rfl),
      landed_of rfl, by decide, by decide,
      ⟨_, _, _, rfl, rfl, rfl⟩, ⟨_, _, _, _, rfl, rfl, rfl⟩, ⟨_, _, rfl, rfl⟩⟩,
    ⟨clear_on rfl rfl rfl chk_off _, by decide +kernel, lay_elem⟩,
    ⟨⟨clear_of (s := routed 0) rfl rfl rfl chk_off rfl _, by decide⟩, ⟨_, _, _, rfl, rfl, rfl⟩, ⟨_, _, _, rfl, rfl, rfl⟩,
      ⟨_, _, _, rfl, rfl, rfl⟩, ⟨_, _, rfl, rfl, rfl⟩⟩,
    ⟨clear_of (s := issued []) rfl rfl rfl chk_off rfl _, unlogged_of rfl, by decide, rfl, rfl, by decide, rfl, rfl, by decide⟩,
    ⟨by decide, by decide, by decide⟩⟩

/-- A load of eight bytes for `a5`, and its entry in a class queue. -/
def late5 : LateLoad :=
  { va := 0x40, key := 0x40, n := 8, use := .place { dst := .a 5, pos := 0, w := 64, sh := 0, copy := none } }
def loading : Issued := { cls := 2, grp := 0, cells := [], load := some late5 }
/-- A pending cause, a queued store, a posted part and a result of the fixed-latency class. -/
def busyHart : Hart :=
  { vh with
    async := [{ cause := .fabric, tval := 0 }], queue := [{ cls := 0, grp := 0, cells := [(scratchBase 0, 7#8, 0xFF#8)], load := none }],
    posted := [{ cls := 1, key := scratchBase 0, op := .add, operand := 3, va := 0 }], preempt := true, expired := true,
    pend := [{ dst := .a 1, mask := BitVec.allOnes 16384, val := 7, ready := 2 }] }

/-- HartEvents: each clause with a hypothesis. -/
theorem test_witness_HartEvents : (let s := on 0 busyHart
     (∃ c cs, (s.hart 0).async = c :: cs) ∧ (s.hart 0).status = .running ∧ (s.hart 0).tb = false ∧ (s.hart 0).asleep = false ∧
       (s.hart 0).preempt = true ∧ (∀ q ∈ (s.hart 0).queue, q.load = none) ∧ s.slotAway 0 = false ∧
       s.windowEnd 0 + 1000 ≤ ({ s with mtime := 300000 } : State).mtime ∧ s.mtime < s.windowEnd 0 ∧ s.mayStop 0 = true ∧
       (s.hart 0).live? = true ∧
       (∃ q, ((s.hart 0).queue.filter (fun q => q.cls == 0))[0]? = some q ∧ q.free [] = true) ∧
       ∃ p, (s.hart 0).posted[0]? = some p ∧ s.badAt p.key = false ∧ ∀ q ∈ (s.hart 0).posted.take 0, q.key / 8 ≠ p.key / 8) ∧
    (∀ c, (on 0 busyHart).ctx ((on 0 busyHart).spaceOf (clusterOf 0)).1 ((on 0 busyHart).spaceOf (clusterOf 0)).2 = some c →
      c.mode = .plain) ∧ ((on 0 vh).hart 0).async = [] ∧ ((on 0 vh).hart 0).preempt = false ∧
    (let s := on 0 { vh with queue := [loading] }
     ((s.hart 0).queue.filter (fun q => q.cls == 2))[0]? = some loading ∧ loading.free [] = true ∧ s.badAt 0x40 = false ∧
       ({ s with poisoned := [1] } : State).badAt 0x40 = true ∧ loading.free [{ loading with grp := 1 }] = false ∧
       (∀ q ∈ (s.hart 0).queue, q.cls ≠ 3) ∧ s.badAt (8 * 5) = false) ∧
    ((on 0 { vh with asleep := true }).hart 0).asleep = true ∧ ((on 0 { vh with status := .waiting }).hart 0).status = .waiting :=
  ⟨⟨⟨_, _, rfl⟩, rfl, rfl, rfl, rfl, (fun q hq => by cases hq with | head => rfl | tail _ h => cases h), by decide +kernel,
      by decide +kernel, by decide +kernel, by decide, by decide, ⟨_, rfl, rfl⟩, _, rfl, rfl, fun _ h => by cases h⟩,
    (fun c h => by cases h), rfl, rfl, ⟨by decide, rfl, by decide +kernel, by decide +kernel, by decide,
      (fun q hq => by cases hq with | head => decide | tail _ h => cases h), by decide +kernel⟩, rfl, rfl⟩
/-- HartEvents: a part of a gather, an atomic, and the tests that a queued access meets. -/
theorem test_witness_HartEvents_late :
    let part : Issued := { cls := 2, grp := 0, cells := [], load := some { late5 with use := .part 0 0 } }
    let rmw : Issued := { cls := 2, grp := 0, cells := [], load := some { late5 with use := .rmw .add 4 0 1 0 none false } }
    ∀ q ∈ [part, rmw], let s := on 0 { vh with queue := [q] }
      ((s.hart 0).queue.filter (fun q => q.cls == 2))[0]? = some q ∧ q.free [] = true ∧ (∀ j ∈ q.keys, s.away j = false) ∧
        s.badAt 0x40 = false ∧ q.free [{ q with grp := 1 }] = false := by
  intro part rmw q hq
  have h : ∀ j, (on 0 { vh with queue := [q] }).away j = false := home_on 0 _
  refine ⟨?_, ?_, fun j _ => h j, ?_, ?_⟩ <;> (fin_cases hq <;> decide +kernel)

/-- A cluster whose loom queue has these operations. -/
def woven (q : List LoomOp) : State := { on 0 vh with clusters := [(0, { Cluster.reset with queue := q })] }

/-- UnitEvents: each clause with a hypothesis. -/
theorem test_witness_UnitEvents : (MayTrap sv ∧ sv.me.live? = true ∧ sv.me.lent = none) ∧
    (let l : Lent := { pred := 0, inv := false, creg := 24, cv := true, viaTret := false }
     MayTrap (svl l) ∧ (svl l).me.live? = true ∧ (svl l).me.lent = some l ∧ pairWordBad l 0xFFFFFFFF = true ∧
       pairWordBad l 0x00000012 = false) ∧
    (on 0 { vh with status := .halted }).me.live? = false ∧
    ((svs.hart 0).mayFetch ((svs.hart 0).getS 3) = true ∧
      ∃ e r e' u, ((svs.hart 0).getS 3).ahead.step 0 svs = .ok (some e) r ∧
        fetchVal 0 ((svs.hart 0).getS 3).ahead e r = .ok e' u) ∧
    (let v := { bound with core := { bound.core with ca := { Cursor.idle with vbase := 0x600000, endp := 8 } } }
     let s := on 0 { vh with st := vh.st.set 3 v }
     (s.hart 0).mayFetch ((s.hart 0).getS 3) = true ∧ ∃ e r c va u, v.ahead.step 0 s = .ok (some e) r ∧
       fetchVal 0 v.ahead e r = .fault c va u) ∧
    (let v := { fibre with core := { fibre.core with ca := { walk4 with kind := 1, known := false, parr := 0x600000 } } }
     let s := on 0 { vh with st := vh.st.set 3 v }
     (s.hart 0).mayFetch ((s.hart 0).getS 3) = true ∧ ∃ c va r, v.ahead.step 0 s = .fault c va r) ∧
    (let s := woven [{ plainOp (.zero 1) with started := true }, plainOp (.zero 2)]
     s.coopHead 0 = false ∧ (∃ o os, (s.cluster 0).queue = o :: os ∧ o.started = true)) ∧
    (let s := woven [plainOp (.mm 0 1 2 0x1540100101 none false none 0)]
     s.coopHead 0 = false ∧ nextStart (s.cluster 0).queue = some 0 ∧
       ∃ o, (s.cluster 0).queue[0]? = some o ∧ o.coop = false ∧ o.what = .mm 0 1 2 0x1540100101 none false none 0) ∧
    (let s := placed .waiting 0x1C11000E
     (s.hart 0).status = .waiting ∧ ∃ key r, ({ s with cur := 0 } : State).xlate (s.who 0) .fetch .other (s.hart 0).pc = .ok key r ∧
       r.badAt key = false ∧ encode (.tickWait 0 1 2) = some (BitVec.ofNat 32 (r.mem.readLE key 4))) :=
  ⟨⟨mayTrap_sv, by decide, rfl⟩, ⟨mayTrap_on rfl, by decide, rfl, by decide, by decide⟩, by decide,
    ⟨by decide, _, _, _, _, rfl, rfl⟩, ⟨by decide, _, _, _, _, _, rfl, rfl⟩, ⟨by decide, _, _, _, rfl⟩,
    ⟨by decide, _, _, rfl, rfl⟩, ⟨by decide, by decide, _, rfl, rfl, rfl⟩, ⟨rfl, _, _, rfl, rfl, rfl⟩⟩

/-- StepRunsTurn: a word that decodes, one that no form assigns, a fetch that fails, an event and a turn. -/
theorem test_witness_StepRunsTurn : (let s := placed .running 0x00000000
     s.agenda = [] ∧ s.cur < 4096 ∧ s.cur % 16 < 9 ∧ s.me.status = .running ∧ s.me.async = [] ∧ s.me.preempt = false ∧ Landed s ∧
       (s.land s.cur).atBoundary.isNone = true ∧
       ∃ t, s.fetchWord = .word 0 t ∧ Decode.word 0 = .ok (.nop 0) ∧ t.me.late = false ∧ floatWord 0 = false) ∧
    (let s := placed .running 0x00000000
     ({ s with harts := [(0, { s.me with async := [{ cause := .fabric, tval := 0 }] })] } : State).atBoundary.isSome = true) ∧
    (∃ t, (placed .running 0x00008000).fetchWord = .word 0x00008000 t ∧ Decode.word 0x00008000 = .error .reserved) ∧
    (∃ c va t, sv.fetchWord = .fault c va t) ∧ (Instr.syncLoss).isEvent = true ∧ ∃ v, turn State.reset = .next v :=
  ⟨⟨rfl, by decide, by decide, rfl, rfl, rfl, landed_of rfl, by decide +kernel, _, rfl, rfl, rfl, by decide⟩, by decide +kernel, ⟨_, rfl, rfl⟩,
    ⟨_, _, _, rfl⟩, rfl, _, rfl⟩

/-- An atomic with no result register that waits joins its flags before a SYS word issues, and not before an `add` (R21, R183). -/
theorem test_interlock_flags :
    (let q : Issued := { cls := 2, grp := 0, cells := [], load := some { late5 with use := .rmw .add 4 0 1 0 none false } }
     let s := on 0 { vh with queue := [q] }
     (s.interlock 0x00000000).me.queue.isEmpty && !(s.interlock 0x02000000).me.queue.isEmpty) = true := by decide +kernel

/-- StepRunsTurn: a misaligned load traps while a load of `a5` waits: it is executed from the state in which that has performed. -/
theorem test_witness_StepRunsTurn_late : (let s := placed .running 0x08810003
     let s := s.setMe { s.me with queue := [loading] }
     (s.land s.cur).atBoundary.isNone &&
     (match s.fetchWord with
      | .word x t =>
        let u : State := { (t.interlock x) with word := x }
        (match Decode.word x with
        | .ok i =>
          (match exec i u, exec i (u.land u.cur) with
          | .next v, .next v' => u.broke v && u.me.late && v'.early == s.early && v'.me.queue.isEmpty
          | _, _ => false)
        | _ => false)
      | _ => false)) = true := by decide +kernel

/-- StepKeepsInv: the reset state meets the invariant, and a step goes on from it. -/
theorem test_witness_StepKeepsInv : State.reset.Inv ∧ (∃ t, step State.reset = .next t) ∧ ∃ t, step (placed .running 0) = .next t :=
  ⟨⟨rfl, by decide⟩, ⟨_, rfl⟩, ⟨_, rfl⟩⟩
/-! A module in service: partition 0 has cluster 0, context 0 runs and context 1 is resident; 1 GiB from address 0 on is mapped to
HBM4 as it stands, through three nodes of stage 1. -/

/-- A plain context. -/
def ctxOf (ls : List Launch) : Ctx :=
  { root := 0, images := [], launches := ls, nextLaunch := 7, dispatches := 0, graphs := [], mode := .plain, region := [], log := [],
    used := [], diverged := none }
/-- The stage-2 page of 1 GiB. -/
def giant : S2Page :=
  { part := 0, ia := 0, size := 2 ^ 30, r := true, w := true, x := true, hbm := some 0, holder := none, pinned := true,
    use := .ordinary, fill := 0, born := 0 }
/-- The nodes of stage 1, a launch record at 0x40000 and a graph of one node at 0x30000. -/
def tables : Memory :=
  [(0, 0x1001), (0x1000, 0x2001), (0x2000, 0x93F), (0x30000, 1), (0x30008, 0x20010), (0x30010, 0x40000), (0x40008, 0x10000),
    (0x40018, 0x20000)].foldl (fun m (e : Nat × Nat) => m.writeLE e.1 8 e.2) []
/-- The module in service, its partition changed by `f`. -/
def serving (f : Part → Part) : State :=
  { sc with
    mem := tables
    boot := { Boot.reset with stage := .service, ports := List.replicate 12 { trained := true, rate := 0, filter := [3] } }
    parts := [(0, f { partOf0 with running := some 0, ctxs := [(0, ctxOf []), (1, ctxOf [])] })]
    s2 := [giant], synced := true }
/-- The module in service. -/
def served : State := serving id

/-- The module in service with a posted part of hart 0, whose context replays a log in which another atomic of that hart comes
first. -/
def replaying (f : State → State) : State :=
  let c := { ctxOf [] with mode := .replay, log := [(0, [{ kind := 3, hart := 0, seq := 0, words := [0x100] }])] }
  let p : Posted := { cls := 1, key := scratchBase 0, op := .add, operand := 3, va := 0 }
  f { serving (fun q => { q with ctxs := [(0, c)] }) with cur := 0, harts := [(0, { vh with pc := 0x601000, posted := [p] })] }

/-- StepRunsTurn: a fetch that misses in stage 2; an instruction and an event that ask for a posted part too early (R381). -/
theorem test_witness_StepRunsTurn_held :
    (match ({ served with s2 := [], harts := [(8, { ch with pc := 0x601000 })] } : State).fetchWord with
      | .stall _ => true
      | _ => false) = true ∧
    (match (replaying (fun s => s.placeBytes (leBytes 4 0x00000C09))).fetchWord with
      | .word x t =>
        let u : State := { (t.interlock x) with word := x }
        (match exec (.fenceAll 0 3) u with
          | .next v => x == 0x00000C09 && v.early != u.early
          | _ => false)
      | _ => false) = true ∧
    (let e : S2Page := { giant with ia := 2 ^ 31, hbm := some (2 ^ 31), holder := some (.peer 0), size := 4096, pinned := false }
     let s := replaying (fun s => { s with s2 := [giant, e] })
     (match exec (.pageEviction 0) s with
      | .next v => v.early != s.early
      | _ => false) = true) := by
  refine ⟨by decide +kernel, by decide +kernel, by decide +kernel⟩

/-- The launch record at 0x40000. -/
def record0 : BitVec 512 := (0x10000#512 <<< 64) ||| (0x20000#512 <<< 192)

theorem inr_of {α β : Type} {x : α ⊕ β} (h : x.isRight = true) : ∃ r, x = .inr r := by
  cases x
  · cases h
  · exact ⟨_, rfl⟩
theorem inl_of {α β : Type} {x : α ⊕ β} (h : x.isLeft = true) : ∃ r, x = .inl r := by
  cases x
  · exact ⟨_, rfl⟩
  · cases h

/-- ServiceRequests: each clause with a hypothesis. -/
theorem test_witness_ServiceRequests : (served.accepting = true ∧ State.reset.accepting = false ∧ served.hears 3 = true ∧
      served.hears 4 = false ∧ served.unsent = [] ∧
      (∃ p, tget served.parts 0 = some p ∧ p.running = some 0 ∧ (∃ c, tget p.ctxs 0 = some c) ∧ (∃ c, tget p.ctxs 1 = some c) ∧
        served.checkLaunch 0 p record0 = .inr 0x10000 ∧ served.checkLaunch 0 p 8 = .inl 1 ∧
        (lrecOf 8).bad = true ∧ (lrecOf 16).bad = false ∧ (lrecOf 16).part ≠ 0)) ∧
    (∃ r, served.readGraph 0 0 partOf0 0x30000 0 = .inl r) ∧
    (let p : Part := { partOf0 with running := some 0, ctxs := [(0, ctxOf [])] }
     ∃ r, served.readGraph 0 0 p 0x30000 0 = .inr r) ∧
    (∀ b ∈ ((ctxOf []).graph 0x30000).blocks ++ served.tableBlocks 0 0 0x30000, overlaps b.1.toNat b.2 0x50000 1 = false) ∧
    (∃ u ∈ [({ conn := 5, seq := 1, reply := none } : Unsent)], u.conn = 5) ∧
    (let m : Msg := { badMsg with part := 0, kind := 3, conn := 5, src := 3 }
     m.wellFormed = true ∧ m.permitted = true ∧ m.blen ≤ 65536 ∧ m.kind = 3 ∧ m.ctx < 8) ∧
    ([] : List (BitVec 8)).length ≤ badMsg.blen ∧ (0x30000 % 64 = 0 ∧ (4 : Nat) % 64 ≠ 0) ∧
    ({ badMsg with kind := 1, blen := 64 } : Msg).blen = 64 ∧
    ((ctxOf []).graph 0x30000).queue = [] ∧
    (∃ s2, (served.setCtx 0 0 ((ctxOf []).putGraph { (ctxOf []).graph 0x30000 with queue := [] })).writeBytes 0 0 0x50000 [5#8]
      = some s2) ∧
    (let s := { served with mtime := 1000 }
     s.mtime + 50000 ≤ 51 * 1000 ∧ 50 * 1000 < s.mtime + 50000 ∧ ∃ p, tget s.parts 0 = some p ∧ s.writingBack p = false) ∧
    (∃ c d, tget [(0, { ctxOf [] with diverged := some (3, 1) })] 0 = some c ∧ c.diverged = some d) :=
  ⟨⟨by decide, by decide, by decide, by decide, rfl, _, rfl, rfl, ⟨_, rfl⟩, ⟨_, rfl⟩, by decide +kernel, by decide +kernel,
      by decide +kernel, by decide +kernel, by decide +kernel⟩, inl_of (by decide +kernel), inr_of (by decide +kernel),
    by decide +kernel, ⟨_, .head _, rfl⟩, ⟨rfl, rfl, by decide, rfl, by decide⟩, by decide, ⟨rfl, by decide⟩, rfl, rfl, some_of (by decide +kernel),
    ⟨by decide, by decide, _, rfl, by decide⟩, ⟨_, _, rfl, rfl⟩⟩
/-- A page of 4 KiB at `ia`, in HBM4 where `hbm` says, and its holder in peer memory. -/
def smallPage (ia : Nat) (hbm : Option Nat) (use : UseState) (fill : Nat) : S2Page :=
  { part := 0, ia := ia, size := 4096, r := true, w := true, x := false, hbm := hbm, holder := some (.peer 0), pinned := false,
    use := use, fill := fill, born := fill }

/-- MappingsAndPages: each clause with a hypothesis. -/
theorem test_witness_MappingsAndPages : pageGood (2 ^ 31) 4096 (.hbm (2 ^ 32)) = true ∧ pageGood 1 4096 (.peer 0) = false ∧
    (let s := { served with clusters := (issued [atBarrier]).clusters }
     s.heldAt 0 0x3000 4096 = true ∧ s.heldAt 0 (2 ^ 31) 4096 = false) ∧
    logGood 0x100000 4096 = true ∧ logGood 4 4096 = false ∧
    regionGood partOf0 region4 = true ∧ ((2 ^ 20 : Nat) % 64 = 0 ∧ mappable (2 ^ 20) (64 * 4096) = true) ∧
    (∃ p, tget served.parts 0 = some p ∧ p.switch = none ∧ (∃ c, tget p.ctxs 1 = some c ∧ c.root ≠ 4096) ∧
      tget p.ctxs 2 = none ∧ 4096 % 4096 = 0) ∧
    (served.boot.stage = .service ∧ tget served.parts 1 = none ∧
      ∀ c ∈ [5, 255], c < 256 ∧ served.defects.getLsbD c = false ∧ served.partOf c = none) ∧
    (∃ m ∈ ({ served with s2miss := [{ cluster := 0, part := 0, ia := 4096, refused := false }] } : State).s2miss, m.part = 0 ∧
      m.ia = 4100 / 4096 * 4096) ∧
    (let s := { served with s2 := [smallPage 4096 none .ordinary 0] }
     s.mem.wf = true ∧ (∃ e r, s.s2page 0 4100 = some e ∧ e.hbm = none ∧ e.holder = some r ∧ e.pinned = false ∧ e.size ≤ 2 ^ 20 ∧
       s.roomAt 8192 e.size = true ∧
       ({ s with s2miss := [{ cluster := 0, part := 0, ia := 4096, refused := false }] } : State).wantedAt e 8192 = true)) ∧
    (let s := { served with s2 := [smallPage 4096 (some 4096) .ordinary 1, smallPage 8192 (some 8192) .useOnce 2, giant] }
     s.mem.wf = true ∧ ∃ e pa r, firstEvicted (s.s2.filter (s.evictable 0)) = some e ∧ e.hbm = some pa ∧ e.ia = 8192 ∧
       e.holder = some r ∧ s.heldIn 0 (fun k => decide (pa ≤ k ∧ k < pa + e.size)) = false) :=
  ⟨by decide, by decide, ⟨by decide +kernel, by decide +kernel⟩, by decide, by decide, by decide, by decide,
    ⟨_, rfl, rfl, ⟨_, rfl, by decide⟩, rfl, rfl⟩, ⟨rfl, rfl, by decide⟩,
    ⟨_, .head _, by decide⟩, ⟨by decide, _, _, rfl, rfl, rfl, rfl, by decide, by decide, by decide⟩,
    ⟨by decide +kernel, _, _, _, rfl, rfl, rfl, rfl, rfl⟩⟩

/-- A launch of a record, of which `n` iterations have been dispatched and have ended. -/
def launchOf (record : BitVec 512) (n : Nat) : Launch :=
  { num := 3, record := record, entry := 0x10000, param := 0, counter := n, ended := n, prio := 0, last := none, since := 0,
    node := none }
/-- Partition 0 with a launch queued in its running context, its harts at reset. -/
def queuedUp (record : BitVec 512) (n : Nat) : State :=
  { serving (fun p => { p with clusters := [0, 1], ctxs := [(0, ctxOf [launchOf record n])] }) with harts := [] }
/-- A record of groups of 2 clusters. -/
def record2 : BitVec 512 := record0 ||| 0x400
/-- A gang switch from context 0 to context 1 at tick 5. -/
def switch5 (under : Bool) (left : List Nat) : GangSwitch := { out := 0, inc := 1, tick := 5, under := under, left := left }
/-- That gang switch under way on cluster 0, which has a shadow bank and granules left to exchange. -/
def switching (b : Option Shadow) (e : List Nat) : State :=
  { serving (fun p => { p with running := some 1, switch := some (switch5 true [0]) }) with
    harts := [], clusters := [(0, { Cluster.reset with shadow := b, exch := e, exchIn := 1, exchOut := 0 })] }
/-- A shadow bank of nine harts at reset. -/
def bank (x : Nat) (out : Bool) : Shadow :=
  { ctx := x, outgoing := out, fast := Fast.reset, harts := (List.range 9).map Hart.reset }

/-- Scheduling: each clause of the walker and of completion. -/
theorem test_witness_Scheduling_launches : (let s := queuedUp record2 0
     ∃ q k l, s.partOf 0 = some (0, q) ∧ q.halted = false ∧ s.leaving 0 = false ∧ s.free? 0 = true ∧ q.running = some 0 ∧
       tget q.ctxs 0 = some k ∧ (s.cluster 0).reserved = none ∧
       chooseLaunch s.mtime (k.launches.filter (fun l => l.open? s.mtime && q.serves 0 l)) none = some l ∧
       groupOf 0 (lrecOf l.record).size = [0, 1] ∧ (∀ d ∈ [0, 1], s.leaving d = false) ∧ s.free? 1 = true ∧ (s.cluster 1).reserved = none ∧
       (s.setHart 24 ch).free? 1 = false) ∧
    (let s := { serving (fun p => { p with clusters := [0, 1], switch := some (switch5 true [1]) }) with harts := [] }
     s.leaving 0 = false ∧ s.leaving 1 = true) ∧
    (let s := queuedUp record0 1
     ∃ q c k, tget s.parts 0 = some q ∧ s.ctx 0 0 = some c ∧ c.launches.find? (fun k => k.num == 3) = some k ∧
       (lrecOf k.record).total ≤ k.counter ∧ (lrecOf k.record).total * (lrecOf k.record).size ≤ k.ended ∧
       s.serves 0 0 = true ∧ s.serves 0 1 = false ∧ s.busyLaunch 0 0 3 q c = false ∧ k.node = none ∧ ∃ key r, s.inPlace.inKey 0 0 .store (lrecOf k.record).done = .ok key r ∧
         ∀ j, j < 16 → s.imageAt 0 0 (key + j) = none) :=

  ⟨⟨_, _, _, rfl, rfl, by decide, by decide, rfl, rfl, rfl, (show _ = some (launchOf record2 0) by decide +kernel),
      by decide +kernel, by decide +kernel, by decide, rfl, by decide⟩, ⟨by decide, by decide⟩,
    ⟨_, _, _, rfl, rfl, rfl, by decide +kernel, by decide +kernel, rfl, rfl, by decide +kernel, rfl, acc_ok (by decide +kernel)⟩⟩

/-- Scheduling: each clause of a gang switch. -/
theorem test_witness_Scheduling_switch : (let s := serving (fun p => { p with switch := some (switch5 false []) })
     ∃ p, tget s.parts 0 = some p ∧ p.switch = some (switch5 false []) ∧ s.mtime < 5 * 1000 ∧
       5 * 1000 ≤ ({ s with mtime := 5000 } : State).mtime) ∧
    (let s := switching none []
     ∃ q, s.partOf 0 = some (0, q) ∧ q.switch = some (switch5 true [0]) ∧ (s.cluster 0).shadow = none) ∧
    (let s := switching (some (bank 1 false)) []
     (s.cluster 0).shadow = some (bank 1 false) ∧ s.quiesced 0 = true ∧ (s.cluster 0).exch = [] ∧
       ∃ h, (bank 1 false).harts[8]? = some h) ∧
    (let s := switching none [95]
     95 ∈ (s.cluster 0).exch ∧ (s.cluster 0).exchIn ≠ (s.cluster 0).exchOut ∧ ∃ o, s.ctx 0 (s.cluster 0).exchOut = some o) ∧
    (let s := switching (some (bank 0 true)) []
     (s.cluster 0).shadow = some (bank 0 true) ∧ ∃ o, s.ctx 0 (bank 0 true).ctx = some o) :=
  ⟨⟨_, rfl, rfl, by decide, by decide⟩, ⟨_, rfl, rfl, rfl⟩, ⟨rfl, by decide, rfl, ⟨_, rfl⟩⟩, ⟨by decide, by decide, ⟨_, rfl⟩⟩,
    ⟨rfl, ⟨_, rfl⟩⟩⟩

/-- A control core with the save area at address 0, its header given. -/
def saving (head : Nat) : State := poke (sca 0 0) [(0, head), (8, 1)]

/-- Scheduling: each clause of `ctx.save` and `ctx.load`. -/
theorem test_witness_Scheduling_contexts : (Clear (saving (2 ^ 63 + 2 ^ 11)) [.a 1] ∧ (saving (2 ^ 63 + 2 ^ 11)).me.priv = true ∧
      (saving (2 ^ 63 + 2 ^ 11)).me.preempt = false ∧ Unlogged (saving (2 ^ 63 + 2 ^ 11)) ∧
      (saving (2 ^ 63 + 2 ^ 11)).seen.me.getA 1 = 0 ∧
      ∃ ws hs r u v, (saving (2 ^ 63 + 2 ^ 11)).seen.loadWords 0 4 = .ok ws r ∧ r.loadWords (0 + 8) 1 = .ok hs u ∧
        r.ownHead false (wordAt ws 0) = true ∧ 7 < headSect (wordAt ws 0) ∧ r.saveReady = true ∧
        u.storeRun 0 [saveHead false true 0 0 8 false false] = .ok () v) ∧
    (∃ ws hs r u ms x v, (saving (2 ^ 63 + 2 ^ 11 + 1)).seen.loadWords 0 4 = .ok ws r ∧ r.loadWords (0 + 8) 1 = .ok hs u ∧
      r.ownHead true (wordAt ws 0) = true ∧ 7 < headSect (wordAt ws 0) ∧ (saving (2 ^ 63 + 2 ^ 11 + 1)).myQueue = [] ∧
      u.savedMasks 0 (List.range 8) = .ok ms x ∧ x.storeRun 0 [saveHead false (headDone (wordAt ws 0)) 0 0 8 false true] = .ok () v) ∧
    (∃ ws r, (saving 0).seen.loadWords 0 4 = .ok ws r ∧ r.ownHead true (wordAt ws 0) = false ∧ headDone (wordAt ws 0) = false ∧
      MayTrap (saving 0)) :=
  ⟨⟨clear_of (s := saving _) rfl rfl rfl chk_off rfl _, rfl, rfl, unlogged_of rfl, rfl, _, _, _, _, _, rfl, rfl, by decide,
      by decide, by decide, rfl⟩, ⟨_, _, _, _, _, _, _, rfl, rfl, by decide, by decide, rfl, rfl, rfl⟩,
    ⟨_, _, rfl, by decide, by decide, mayTrap_of rfl (home_of fun _ => rfl)⟩⟩
/-- A descriptor of 8 bytes, none of them at a barrier. -/
def desc8 : FabDesc := { lva := 0x1000, rva := 0x2000, route := 0, vsz := 0, len := 8, dl := 0, vmap := 0, bar := 0 }
/-- A started transfer, of a kind, with an element or a descriptor, of which `n` chunks have gone. -/
def started (k : XferKind) (e : Option Element) (d : Option FabDesc) (running : Bool) (n : Nat) : Transfer :=
  { writing with kind := k, started := true, elem := e, desc := d, running := running, chunk := n }

theorem fetch_ok {α : Type} {x : Fetch α} {P : α → State → Prop} [∀ k r, Decidable (P k r)]
    (h : (match x with | .ok k r => decide (P k r) | _ => false) = true) : ∃ k r, x = .ok k r ∧ P k r := by
  cases x
  · exact ⟨_, _, rfl, of_decide_eq_true h⟩
  all_goals cases h
theorem fetch_of {α : Type} {x : Fetch α} (h : (match x with | .ok _ _ => true | _ => false) = true) : ∃ k r, x = .ok k r := by
  cases x
  · exact ⟨_, _, rfl⟩
  all_goals cases h

/-- ChannelsAndFabric: each clause of the channels. -/
theorem test_witness_ChannelsAndFabric_out : (((issued [writing]).chan 0 2).xfers.find? (fun t => !t.started) = some writing ∧
      (issued [writing]).leaving 0 = false ∧
      (((issued [writing]).chan 0 2).xfers.filter (fun t => t.started)).length < 4 ∧
      4 ≤ (((issued (List.replicate 4 (started .fetch none none false 0) ++ [writing])).chan 0 2).xfers.filter
        (fun t => t.started)).length) ∧
    (let x := started .list (some (element true)) none false 0
     let s := issued [x]
     (s.chan 0 2).find 0 = some x ∧ s.reading x = false ∧
       ∃ r r' b u, s.nextElement 2 x = .ok (element true) r ∧ r.skips 2 x.who (element true) = .ok false r' ∧
         r'.barrierOf 2 x.who (element true) = .ok b u) ∧
    (let x := started .list (some (element false)) none true 0
     let s := issued [x]
     (s.chan 0 2).find 0 = some x ∧ 0 < (element false).chunks ∧ (∀ e ∈ (s.chan 0 2).wrote, precedes 0 e.1 = false) ∧
       s.queued = false ∧ ({ s with queued := true } : State).queued = true ∧
       (∃ k u, s.chunkKeys 2 x ((element false).srcAt 0) (some ((element false).dstAt 0)) 8 = .ok k u) ∧
       ∃ k u, ({ s with queued := true } : State).chunkKeys 2 x ((element false).srcAt 0) (some ((element false).dstAt 0)) 8
         = .ok k u) ∧
    (let b := Burst.start 0x1000 [0x1000] [0x2000]
     let x : Transfer := { started .list (some (element false)) none true 0 with burst := some b }
     x.burst = some b ∧ b.over = false) ∧
    (let x := started .send none (some desc8) false 0
     x.nextPacket desc8 0 = some (0, 8) ∧
       ∃ k u, (issued [x]).chunkKeys 2 x (desc8.lva + BitVec.ofNat 64 0) none 8 = .ok k u) ∧
    ((element false).chunks ≤ 1 ∧ (started .send none (some desc8) false 1).allSent desc8 = true ∧
      ((some 0x3000).map (issued []).barWordBad).getD false = false) ∧
    (let x := started .fetch none (some desc8) false 1
     ∃ ks u, (issued [x]).fetchKeys 2 { x with who := { x.who with regions := (issued [x]).regionsOf x.who.part } } desc8
       = .ok (ks, none) u) :=
  ⟨⟨rfl, rfl, by decide, by decide⟩, ⟨rfl, rfl, _, _, _, _, rfl, rfl, rfl⟩,
    ⟨rfl, by decide, (fun _ h => by cases h), rfl, rfl, fetch_of (by decide +kernel), fetch_of (by decide +kernel)⟩,
    ⟨rfl, by decide⟩, ⟨by decide, fetch_of (by decide +kernel)⟩, ⟨by decide, by decide, by decide⟩, _, _, rfl⟩

/-- ChannelsAndFabric: a list element read word by word; responses of a peer that a filter admits, and of one that none admits. -/
theorem test_witness_ChannelsAndFabric_words :
    (let x := { started .list none none false 0 with next := 0x1000 }
     let s := { issued [x] with queued := true }
     x.elem = none ∧ x.burst = none ∧ ∃ ks r, s.chanKeys 2 x.who .load .other 0x1000 96 = .ok ks r ∧ ∀ k ∈ ks, r.badAt k = false) ∧
    (let b := Burst.start 0x1000 (List.range' 0x1000 96) []
     let s := issued [{ started .list none none false 0 with burst := some b }]
     b.over = false ∧ b.unwritten = [] ∧ ∀ w ∈ b.unread, ∀ e ∈ placesIn b.src w, s.badAt e.2 = false) ∧
    (let x := started .fetch none (some { desc8 with len := 16 }) false 8
     let y := { x with who := { x.who with part := 0 } }
     let s := { served with parts := [(0, { partOf0 with routes := [(0, .peer 4 0 0)] })] }
     served.answers x desc8 = true ∧ s.answers y desc8 = false ∧ x.gaps 16 1 = [0, 1] ∧ ({ x with came := [0] } : Transfer).gaps 16 1 = [1] ∧
       ∃ ks u, (issued [x]).drawn.fetchKeys 2 { x with who := { x.who with regions := (issued [x]).regionsOf x.who.part } }
         { desc8 with len := 16 } = .ok (ks, none) u) :=
  ⟨⟨rfl, rfl, fetch_ok (by decide +kernel)⟩, ⟨by decide +kernel, rfl, fun _ _ _ _ => rfl⟩,
    by decide, by decide, by decide, by decide, _, _, rfl⟩

/-- A packet of 256 bytes at 0x50000 for context 0. -/
def packet (rva : Word) : Packet :=
  { src := 3, part := 0, ctx := 0, rva := rva, len := 256, vsz := 0, dl := 1000, vmap := 0x60000, bar := 0, off := 0, data := [1#8] }
/-- An inbound mist transfer of two blocks, of which block 0 is settled. -/
def misty : Inbound :=
  { x := 9, mist := true, part := 0, ctx := 0, rva := 0x50000, len := 512, vsz := 0, dl := 1000, vmap := 0x60000,
    bar := 0, got := 0, settled := [0], missed := 0, writing := none }

/-- ChannelsAndFabric: each clause of what arrives. -/
theorem test_witness_ChannelsAndFabric_in : (served.answered 9 = false ∧ served.inboundOf 9 = none) ∧
    (served.hears (packet 0x50000).src = true ∧ served.hears { packet 0x50000 with src := 4 }.src = false ∧
      { served with acks := [{ x := 9, cause := 0, missed := 0 }] }.answered 9 = true) ∧
    (∃ r u, served.admission (inboundFrom (packet 0x50000) 9 false) = .ok r u ∧ u.mem = served.mem) ∧
    (∃ r u, served.admission (inboundFrom (packet 0x50000) 9 true) = .ok r u ∧ u.mem = served.mem) ∧
    (∃ k u, served.admission (inboundFrom (packet 0xFFFFFFFFFFFFFF00) 9 false) = .trap k u ∧ k = .pageStore) ∧
    (∃ ks u, served.inKeys 0 0 .store (addrAt 0x50000 (0 / 8) 8) ((0 % 8 + 1 + 7) / 8) = .ok ks u ∧
      ∀ k ∈ ks, ∀ n, n < 8 → served.imageAt 0 0 (k + n) = none) ∧
    (∃ ks u, served.inKeys 0 0 .load 0x50000 ((256 + 7) / 8) = .ok ks u) ∧
    (let s := { served with inbound := [misty] }
     s.inboundOf 9 = some misty ∧ misty.len < 2 ^ 24 ∧ misty.bar = 0 ∧ (∃ k r, s.bitKeys misty 1 = .ok k r ∧ k ≠ []) ∧
       (∃ j u, missBlocks (List.range misty.blocks) misty s = .ok j u ∧ j.missed = 1) ∧ (∀ c, s.ctx 0 0 = some c → c.mode = .plain) ∧ s.mtime < misty.dl ∧
       1 ∈ (List.range misty.blocks).filter (fun b => !misty.settled.contains b) ∧
       misty.dl ≤ ({ s with mtime := 1000 } : State).mtime) :=
  ⟨⟨by decide, rfl⟩, ⟨by decide, by decide, by decide⟩, acc_ok (by decide +kernel), acc_ok (by decide +kernel),
    acc_trap (by decide +kernel), acc_ok (by decide +kernel), acc_of (by decide +kernel),
    ⟨rfl, by decide, rfl, acc_ok (by decide +kernel), acc_ok (by decide +kernel), (fun c h => by cases h; rfl), by decide, by decide, by decide⟩⟩

/-- The words of block 1 of that transfer, all 0, from word k on. -/
def blockOfZeros (v : Bool) (k : Nat) : BlockWrite := { blk := 1, valid := v, left := (List.range' k (32 - k)).map (fun k => (k, 0)) }

/-- Words of a block land one after the other. -/
def landRun (i : Inbound) (b : Nat) : List (Nat × Word) → State → Bool
  | [], _ => true
  | w :: ws, s =>
    match s.inKey i.part i.ctx .store (addrAt i.rva (32 * b + w.1) 8) with
    | .ok key r => landRun i b ws (r.performIn i.part i.ctx (cellsOf key 8 w.2.toNat))
    | _ => false

theorem land_run (i : Inbound) (b : Nat) : ∀ (ws : List (Nat × Word)) (s : State), landRun i b ws s = true →
    ∃ ks u, LandSeq i b s ws ks u
  | [], s, _ => ⟨_, _, .nil s⟩
  | w :: ws, s, h => by
    simp only [landRun] at h
    split at h
    · rename_i hx
      obtain ⟨ks, u, hs⟩ := land_run i b ws _ h
      exact ⟨_, _, .cons hx hs⟩
    · cases h

/-- ChannelsAndFabric: the words of a mist block that land at once, and one of them; a block in hand. -/
theorem test_witness_ChannelsAndFabric_block : (let s := { served with inbound := [misty] }
     (∃ ks u, LandSeq misty 1 s (blockOfZeros true 0).left ks u) ∧
       (∀ e ∈ (blockOfZeros true 0).left, ∃ key u, s.inKey 0 0 .store (addrAt 0x50000 (32 * 1 + e.1) 8) = .ok key u) ∧
       ((List.range misty.blocks).filter (fun b => !misty.settled.contains b)).head? = some 1) ∧
    (let i : Inbound := { misty with writing := some (blockOfZeros true 30) }
     i.writing = some (blockOfZeros true 30) ∧ 2 ≤ (blockOfZeros true 30).left.length ∧ (blockOfZeros true 30).left.Nodup) := by
  refine ⟨⟨land_run _ _ _ _ (by decide +kernel), fun e he => acc_of ?_, by decide⟩, rfl, by decide, by decide⟩
  revert e
  decide +kernel

/-- A cluster in which lane group 5 of hart 0 has been corrected twice within the day, and another where group 6 is lost. -/
def corrected (mask : BitVec 16) : State :=
  { sv with clusters := [(0, { Cluster.reset with marked := Cluster.reset.marked.set 0 mask, corr := [(0, 5, 0), (0, 5, 0)] })] }

/-- The arbiter after rounds in which a core current was measured. -/
def drawing (amps above : Nat) : State :=
  { State.reset with power := { State.reset.power with amps := amps, above := above } }

/-- ModuleEvents: each clause with a hypothesis. (Which image verifies is free: log entry 13.) -/
theorem test_witness_ModuleEvents : (let k := (corrected 0xFFFF).cluster (clusterOf 0)
     2 ≤ ((k.corr.filter (fun e => recent 0 e.2.2)).filter (fun e => e.1 == 0 % 16 && e.2.1 == 5)).length ∧
       k.marked.toList[0 % 16]?.getD 0xFFFF = 0xFFFF) ∧
    (let mask := ((corrected 0xFFBF).cluster (clusterOf 0)).marked.toList[0 % 16]?.getD 0xFFFF
     mask ≠ 0xFFFF ∧ mask.getLsbD 5 = true) ∧
    (((sv.cluster 0).corr.filter (fun e => recent sv.mtime e.2.2)).filter (fun e => e.1 == 0 && e.2.1 == 5)).length < 2 ∧
    State.reset.boot.retain = false ∧ ({ State.reset.boot with retain := true } : Boot).retain = true ∧
    (12000 : Nat) ≤ State.reset.boot.fcap ∧ State.reset.boot.fcap < 12001 ∧ State.reset.boot.chosen = none ∧
    (inFilter [] 5 = false ∧ inFilter [5] 5 = true) ∧ served.boot.stage = .service ∧ (served.fast 0).coop = 0 ∧
    ((woven [plainOp .cfg]).cluster 0).queue ≠ [] ∧ (drawing 12001 1).power.above < 2 ∧ 2 ≤ (drawing 12001 2).power.above ∧
    95 * (drawing 11400 0).boot.fcap ≤ 100 * (drawing 11400 0).power.amps ∧
    100 * (drawing 11399 0).power.amps < 95 * (drawing 11399 0).boot.fcap :=
  ⟨⟨by decide, by decide⟩, ⟨by decide, by decide⟩, by decide, rfl, rfl, by decide, by decide, rfl, ⟨rfl, rfl⟩, rfl, rfl,
    by decide, by decide, by decide, by decide, by decide⟩

end Sys2Proof.Tests
end

section
/-! `setvl` (R49, R107-R110): the grant and its bound, what the form leaves on its hart, and O18. -/

namespace Sys2Proof.Machine

/-! ### The grant (R49) and its bound -/

theorem blockLen_le (code : Nat) : blockLen code ≤ 128 := by
  unfold blockLen; split <;> decide

/-- Whatever the lane map, VLMAX fits the 13 bits of `vl`: no format is narrower than 4 bits, and `lmap` counts at most
127 lanes. -/
theorem Hart.vlmax_lt (h : Hart) (f : BitVec 4) : h.vlmax (fmtWidth f) < 2 ^ 13 := by
  have hlanes : h.lanes < 2 ^ 7 := (h.lmap.extractLsb' 16 7).isLt
  have hwidth : 4 ≤ fmtWidth f := by rcases fmtWidth_cases f with e | e | e | e | e <;> omega
  calc h.vlmax (fmtWidth f) ≤ h.lanes * 256 / 4 := Nat.div_le_div_left hwidth (by decide)
    _ < 2 ^ 13 := by omega

/-- Results that reach their registers leave VLMAX alone. -/
theorem State.vlmax_seen (s : State) (w : Nat) : s.seen.me.vlmax w = s.me.vlmax w := by
  simp [Hart.vlmax, Hart.lanes]

theorem grant_le (n bk vlmax : Nat) : grant n bk vlmax ≤ max bk vlmax := by
  unfold grant
  split
  · exact Nat.zero_le _
  · split
    · exact Nat.le_max_left _ _
    · exact (Nat.div_mul_le_self _ _).trans ((Nat.min_le_right _ _).trans (Nat.le_max_right _ _))

/-- The length that `setvl` grants for a count and a type (R108). -/
def Hart.granted (h : Hart) (a ty : Word) : Nat :=
  grant a.toInt.toNat (blockLen (ty.extractLsb' 4 3).toNat) (h.vlmax (fmtWidth (ty.extractLsb' 0 4)))

theorem Hart.granted_lt (h : Hart) (a ty : Word) : h.granted a ty < 2 ^ 13 := by
  have hgrant := grant_le a.toInt.toNat (blockLen (ty.extractLsb' 4 3).toNat) (h.vlmax (fmtWidth (ty.extractLsb' 0 4)))
  have hblock := blockLen_le (ty.extractLsb' 4 3).toNat
  have hmax := h.vlmax_lt (ty.extractLsb' 0 4)
  exact hgrant.trans_lt (max_lt (by omega) hmax)

/-! ### The hart after `setvl` (R108) -/

/-- The signed count of R107, at most 0 counting as none. -/
theorem count_eq_toInt_toNat (a : Word) : (if a.toInt ≤ 0 then 0 else a.toNat) = a.toInt.toNat := by
  split
  · exact (Int.toNat_of_nonpos ‹_›).symm
  · rw [BitVec.toInt_eq_toNat_of_msb (by rw [BitVec.msb_eq_toInt, decide_eq_false_iff_not]; omega), Int.toNat_natCast]

/-- A valid type has no bit set above bit 7 (R19). -/
theorem and_ff_of_valid {ty : Word} (hv : vtypeBad ty = false) : ty &&& 0xFF = ty := by
  simp only [vtypeBad, Bool.or_eq_false_iff, bne_eq_false_iff_eq] at hv
  obtain ⟨⟨⟨hhigh, -⟩, -⟩, -⟩ := hv
  have hlt : ty.toNat < 2 ^ 8 := by bv_omega
  apply BitVec.eq_of_toNat_eq
  calc (ty &&& 0xFF).toNat = ty.toNat &&& (2 ^ 8 - 1) := BitVec.toNat_and ..
    _ = ty.toNat % 2 ^ 8 := Nat.and_two_pow_sub_one_eq_mod _ _
    _ = ty.toNat := Nat.mod_eq_of_lt hlt

/-- The hart with a new type, length and live length, and no element progress. -/
def Hart.retyped (h : Hart) (ty : Word) (vl live : BitVec 13) : Hart :=
  { h with vtype := ty, vl := vl, live := live, estart := 0, lgp := Vector.replicate 16 0 }

@[simp] theorem Hart.vtype_retyped (h : Hart) (ty : Word) (vl live : BitVec 13) : (h.retyped ty vl live).vtype = ty := rfl
@[simp] theorem Hart.vl_retyped (h : Hart) (ty : Word) (vl live : BitVec 13) : (h.retyped ty vl live).vl = vl := rfl
@[simp] theorem Hart.live_retyped (h : Hart) (ty : Word) (vl live : BitVec 13) : (h.retyped ty vl live).live = live := rfl
@[simp] theorem Hart.pc_retyped (h : Hart) (ty : Word) (vl live : BitVec 13) : (h.retyped ty vl live).pc = h.pc := rfl
theorem Hart.fresh_retyped (h : Hart) (ty : Word) (vl live : BitVec 13) : (h.retyped ty vl live).fresh := ⟨rfl, rfl⟩

theorem Hart.setvl_of_valid (h : Hart) (a : Word) {ty : Word} (hv : vtypeBad ty = false) :
    (h.setvl a ty).1.progress0 = h.retyped ty (BitVec.ofNat 13 (h.granted a ty))
        (BitVec.ofNat 13 (min a.toInt.toNat (h.granted a ty))) ∧ (h.setvl a ty).2 = h.granted a ty := by
  simp only [Hart.setvl, hv, Bool.false_eq_true, if_false, count_eq_toInt_toNat, and_ff_of_valid hv]
  exact ⟨rfl, rfl⟩

theorem Hart.setvl_of_bad (h : Hart) (a : Word) {ty : Word} (hv : vtypeBad ty = true) :
    (h.setvl a ty).1.progress0 = h.retyped 0x8000000000000000 0 0 ∧ (h.setvl a ty).2 = 0 := by
  simp only [Hart.setvl, hv, if_true, and_true]
  rfl

/-! ### Its frame -/

/-- A hart without what `setvl` writes beside registers: the type, both lengths and the element progress. -/
def noStrip (h : Hart) : Hart := h.retyped 0 0 0

theorem blind_noStrip : Blind noStrip := fun _ _ _ _ _ _ _ => rfl

theorem Hart.setA_retyped (h : Hart) (ty : Word) (vl live : BitVec 13) (d : Reg) (x : Word) (l : Nat) :
    (h.retyped ty vl live).setA d x l = (h.setA d x l).retyped ty vl live := by
  unfold Hart.setA Hart.write Hart.put
  split
  · rfl
  · split
    · dsimp only; split <;> rfl
    · rfl

/-- A new type and length keep the frame of what has been written, but for what `noStrip` blots out. -/
theorem BodyFrame.retyped {s : State} {k : Hart} {ws : Writes} (hb : BodyFrame s k ws id) (ty : Word)
    (vl live : BitVec 13) : BodyFrame s (k.retyped ty vl live) ws noStrip := by
  have hregs := fun T => Hart.settle_regs (h := k.retyped ty vl live) (k := k) T rfl rfl rfl rfl
  exact
    { a := fun r hr T hT => ((hregs T).1 r).trans (hb.a r hr T hT)
      v := fun r hr T hT => ((hregs T).2.1 r).trans (hb.v r hr T hT)
      m := fun r hr T hT => ((hregs T).2.2 r).trans (hb.m r hr T hT)
      st := hb.st
      rest := congrArg noStrip hb.rest
      live := hb.live, lent := hb.lent, now := hb.now, mode := hb.mode
      cause := hb.cause, value := hb.value, back := hb.back }

/-- A form whose body has last written scalar register d gives it, with the frame of the body; type, lengths and element
progress are those the body has left. -/
theorem run_setA_last {s : State} {i : Info} {k : Hart} {d : Reg} {x : Word} {l lat : Nat} {e : Hart → Hart}
    {body : State → Res} (hcheck : issueCheck i s.seen = none) (hskip : skipped i s.seen.me = false)
    (hb : body s.seen = .done (s.seen.setMe (k.setA d x l))) (hf : BodyFrame s (k.setA d x l) { a := [d] } e)
    (he : Blind e) (hpc : k.pc = s.me.pc) (hlat : l ≤ lat) :
    ∃ t, run i s body = .next t ∧ Registers s t i.wt s.after { a := [d] } e ∧ GivesA s t lat d x ∧
      t.me.vtype = k.vtype ∧ t.me.vl = k.vl ∧ t.me.live = k.live ∧ (k.fresh → t.me.fresh) := by
  have hlent : (s.seen.setMe (k.setA d x l)).me.lent = none := by simpa using hf.lent
  have hlive : (s.seen.setMe (k.setA d x l)).me.status ≠ .halted := by simpa using hf.live
  have hnow : k.now = s.me.now := by simpa using hf.now
  have hnext : (s.seen.setMe (k.setA d x l)).me.pc + 4 = s.after := by simp [State.after, hpc]
  have hrun := run_done hcheck hskip hb
  rw [hnext] at hrun
  refine ⟨_, hrun, registers_body hf he, fun T hT => ?_, ?_⟩
  · rw [(State.sees_retire hlent hlive T).1, State.sees, State.me_setMe]
    exact Hart.getA_settle_setA_at _ _ _ (by omega)
  · rw [State.me_retire hlent hlive]
    simp [Hart.fresh]

/-! ### Execution -/

/-- Issue of `setvl`: on a vector hart only, and never the second word of a pair (R32, R107). -/
def setvlInfo (w : BitVec 3) (d a b : Reg) : Info :=
  { scalarInfo w (some (.a d)) [.a a, .a b] 0 with on := .vector, lending := .no, flow := true }

/-- What `setvl` does once it has issued: it stops on a request, or grants (R108). -/
def setvlBody (d a b : Reg) (s : State) : Res :=
  if s.me.preempt then .leave (s.takeStop s.cur 1)
  else
    let r := s.me.setvl (s.me.getA a) (s.me.getA b)
    .done (s.setMe (r.1.progress0.setA d (BitVec.ofNat 64 r.2) 0))

theorem exec_setvl_eq_run (w : BitVec 3) (d a b : Reg) (s : State) :
    exec (.setvl w d a b) s = run (setvlInfo w d a b) s (setvlBody d a b) := rfl

theorem setvl_clear {s : State} {w : BitVec 3} {d a b : Reg} (hc : Clear s [.a a, .a b]) (hcur : s.cur % 16 ≠ 8) :
    issueCheck (setvlInfo w d a b) s.seen = none ∧ skipped (setvlInfo w d a b) s.seen.me = false :=
  ⟨issueCheck_of_clear hc (fun _ hd => hd) (by simp [setvlInfo, On.holds, isControl, hcur]) (fun h => nomatch h) rfl rfl
      (fun h => nomatch h),
    skipped_of_clear (by simpa using hc.plain) (fun h => nomatch h)⟩

/-- With no request pending, `setvl` completes with the type, the lengths and the result that it comes to (R108). -/
theorem exec_setvl_completes {s : State} {w : BitVec 3} {d a b : Reg} {ty : Word} {vl live : BitVec 13} {g : Nat}
    (hc : Clear s [.a a, .a b]) (hcur : s.cur % 16 ≠ 8) (hp : s.me.preempt = false)
    (hr : (s.seen.me.setvl (s.seen.me.getA a) (s.seen.me.getA b)).1.progress0 = s.seen.me.retyped ty vl live ∧
      (s.seen.me.setvl (s.seen.me.getA a) (s.seen.me.getA b)).2 = g) :
    ∃ t, exec (.setvl w d a b) s = .next t ∧ Registers s t w s.after { a := [d] } noStrip ∧
      GivesA s t 1 d (BitVec.ofNat 64 g) ∧ t.me.vtype = ty ∧ t.me.vl = vl ∧ t.me.live = live ∧ t.me.fresh := by
  obtain ⟨hcheck, hskip⟩ := setvl_clear (w := w) (d := d) hc hcur
  have hpre : s.seen.me.preempt = false := by simpa using hp
  have hbody : setvlBody d a b s.seen =
      .done (s.seen.setMe ((s.seen.me.retyped ty vl live).setA d (BitVec.ofNat 64 g) 0)) := by
    simp only [setvlBody, hpre, Bool.false_eq_true, if_false, hr]
  have hframe : BodyFrame s ((s.seen.me.retyped ty vl live).setA d (BitVec.ofNat 64 g) 0) { a := [d] } noStrip := by
    rw [Hart.setA_retyped]
    exact (bodyFrame_setA hc.live hc.plain).retyped ty vl live
  obtain ⟨t, hrun, hregs, hgives, hty, hvl, hlive, hfresh⟩ :=
    run_setA_last hcheck hskip hbody hframe blind_noStrip (by simp) (Nat.zero_le 1)
  exact ⟨t, hrun, hregs, hgives, hty, hvl, hlive, hfresh (Hart.fresh_retyped ..)⟩

/-- With a request pending, `setvl` grants nothing: its hart stops with `why` 1 (R110, R333). -/
theorem exec_setvl_stops {s : State} {w : BitVec 3} {d a b : Reg} (hc : Clear s [.a a, .a b]) (hcur : s.cur % 16 ≠ 8)
    (hp : s.me.preempt = true) : exec (.setvl w d a b) s = .next (s.seen.takeStop s.cur 1) := by
  obtain ⟨hcheck, hskip⟩ := setvl_clear (w := w) (d := d) hc hcur
  have hpre : s.seen.me.preempt = true := by simpa using hp
  have hbody : setvlBody d a b s.seen = .leave (s.seen.takeStop s.cur 1) := if_pos hpre
  exact run_leave hcheck hskip hbody

/-- A stop of the hart whose turn it is (R333-R335). -/
theorem State.me_takeStop (s : State) (why : BitVec 4) : (s.takeStop s.cur why).me =
    { s.me.finish with
      status := .stopped, preempt := false, expired := false, asleep := false, woken := false, engaged := none
      floor := 0, lent := none
      stop := { stopped := true, mid := s.me.finish.midway, full := !isControl s.cur && why != 1, why := why
                spc := s.me.finish.pc, spfx := lentWord s.me.finish.lent, live := s.me.finish.live } } := by
  have hset : ∀ (u : State) (k : Hart), u.cur = s.cur → (u.setHart s.cur k).me = k := fun u k hu => by
    rw [← hu]; exact State.me_setMe u k
  unfold State.takeStop
  rw [hset _ _ (by simp), State.hart_leaveCoop]
  rfl

@[simp] theorem State.mem_takeStop (s : State) (id : Nat) (why : BitVec 4) : (s.takeStop id why).mem = s.mem := by
  unfold State.takeStop; simp

/-- Settles O18: the grant fits the 13 bits of `vl` for every lane map, a valid type is written as it is given, and the rest
is the frame of a form that writes one scalar register last. -/
theorem setvlResults : Obligations.SetvlResults := by
  unfold Obligations.SetvlResults
  intro s w d a b hc hcur n ty bk vmax g e
  refine ⟨fun hp hv => ?_, fun hp hv => ?_, fun hp => ?_⟩
  · have hg : s.seen.me.granted (s.seen.me.getA a) ty = g := by
      rw [Hart.granted, State.vlmax_seen]; rfl
    have hlt : g < 2 ^ 13 := hg ▸ Hart.granted_lt ..
    obtain ⟨t, hrun, hregs, hgives, hty, hvl, hlive, hfresh⟩ :=
      exec_setvl_completes (w := w) (d := d) hc hcur hp (hg ▸ Hart.setvl_of_valid _ _ hv)
    refine ⟨t, hrun, hty, ?_, ?_, hfresh, hgives, hregs.hart, hregs.only, hregs.done⟩
    · rw [hvl, BitVec.toNat_ofNat, Nat.mod_eq_of_lt hlt]
    · rw [hlive, BitVec.toNat_ofNat, Nat.mod_eq_of_lt ((Nat.min_le_right _ _).trans_lt hlt)]
  · obtain ⟨t, hrun, hregs, hgives, hty, hvl, hlive, hfresh⟩ :=
      exec_setvl_completes (w := w) (d := d) hc hcur hp (Hart.setvl_of_bad _ _ hv)
    exact ⟨t, hrun, hty, hvl, hlive, hfresh, hgives, hregs.hart, hregs.only, hregs.done⟩
  · have hme := State.me_takeStop s.seen 1
    rw [State.cur_seen] at hme
    refine ⟨_, exec_setvl_stops hc hcur hp, ?_⟩
    rw [hme]
    simp

end Sys2Proof.Machine
end

section
/-! The scalar forms of ALU and ALUI (R83-R87): the value of each as arithmetic of its sources, and O1 and O2. -/

namespace Sys2Proof.Machine

/-! ### Values of the forms of two sources (R84) -/

theorem sub_eq_ofInt (x y : Word) : x - y = BitVec.ofInt 64 (x.toInt - y.toInt) := by
  rw [← BitVec.toInt_inj, BitVec.toInt_sub, BitVec.toInt_ofInt]

theorem mul_eq_ofInt (x y : Word) : x * y = BitVec.ofInt 64 (x.toInt * y.toInt) := by
  rw [BitVec.ofInt_mul, BitVec.ofInt_toInt, BitVec.ofInt_toInt]

/-- A shift to the left multiplies by a power of two (R84). -/
theorem shiftLeft_eq_mul_pow (x : Word) (n : Nat) : x <<< n = BitVec.ofNat 64 (x.toNat * 2 ^ n) := by
  apply BitVec.eq_of_toNat_eq
  rw [BitVec.toNat_shiftLeft, BitVec.toNat_ofNat, Nat.shiftLeft_eq]

/-- A logical shift to the right divides the unsigned value by a power of two (R84). -/
theorem ushiftRight_eq_div_pow (x : Word) (n : Nat) : x >>> n = BitVec.ofNat 64 (x.toNat / 2 ^ n) := by
  rw [← Nat.shiftRight_eq_div_pow, ← BitVec.toNat_ushiftRight, BitVec.ofNat_toNat, BitVec.setWidth_eq]

/-- An arithmetic shift to the right divides the signed value by a power of two, rounding down (R84). -/
theorem sshiftRight_eq_div_pow (x : Word) (n : Nat) : x.sshiftRight n = BitVec.ofInt 64 (x.toInt / 2 ^ n) := by
  have hpow : ((2 ^ n : Nat) : Int) = 2 ^ n := by norm_cast
  rw [← hpow, ← Int.shiftRight_eq_div_pow, ← BitVec.toInt_sshiftRight, BitVec.ofInt_toInt]

theorem rotateLeft_shAmt (x y : Word) : x.rotateLeft (shAmt y) = x <<< shAmt y ||| x >>> (64 - shAmt y) := by
  rw [BitVec.rotateLeft_def, Nat.mod_eq_of_lt (show shAmt y < 64 from Nat.mod_lt _ (by decide))]

theorem boolWord_slt (x y : Word) : boolWord (x.slt y) = if x.toInt < y.toInt then 1 else 0 := by
  simp [boolWord, BitVec.slt_eq_decide]

theorem boolWord_ult (x y : Word) : boolWord (x.ult y) = if x.toNat < y.toNat then 1 else 0 := by
  simp [boolWord, BitVec.ult_eq_decide]

theorem ite_slt_eq_min (x y : Word) : (if x.slt y then x else y) = BitVec.ofInt 64 (min x.toInt y.toInt) := by
  simp only [BitVec.slt_iff_toInt_lt, min_def_lt, apply_ite (BitVec.ofInt 64), BitVec.ofInt_toInt]

theorem ite_slt_eq_max (x y : Word) : (if x.slt y then y else x) = BitVec.ofInt 64 (max x.toInt y.toInt) := by
  simp only [BitVec.slt_iff_toInt_lt, max_def_lt, apply_ite (BitVec.ofInt 64), BitVec.ofInt_toInt]

theorem ite_ult_eq_min (x y : Word) : (if x.ult y then x else y) = BitVec.ofNat 64 (min x.toNat y.toNat) := by
  simp only [BitVec.ult_iff_lt, BitVec.lt_def, min_def_lt, apply_ite (BitVec.ofNat 64), BitVec.ofNat_toNat, BitVec.setWidth_eq]

theorem ite_ult_eq_max (x y : Word) : (if x.ult y then y else x) = BitVec.ofNat 64 (max x.toNat y.toNat) := by
  simp only [BitVec.ult_iff_lt, BitVec.lt_def, max_def_lt, apply_ite (BitVec.ofNat 64), BitVec.ofNat_toNat, BitVec.setWidth_eq]

/-! ### Division (R85) -/

/-- The one overflow of a signed division: the least number by -1 (R85). -/
theorem overflows_iff (x y : Word) :
    (x = 0x8000000000000000 ∧ y = 0xFFFFFFFFFFFFFFFF) ↔ (x.toInt = -2 ^ 63 ∧ y.toInt = -1) := by
  have hmin : (0x8000000000000000#64).toInt = -2 ^ 63 := by decide
  have hone : (0xFFFFFFFFFFFFFFFF#64).toInt = -1 := by decide
  rw [← hmin, ← hone, BitVec.toInt_inj, BitVec.toInt_inj]
  rfl

theorem divS_eq (x y : Word) : divS x y = if y = 0 then BitVec.allOnes 64
    else if x.toInt = -2 ^ 63 ∧ y.toInt = -1 then x else BitVec.ofInt 64 (x.toInt.tdiv y.toInt) := by
  unfold divS
  by_cases h : x = 0x8000000000000000 ∧ y = 0xFFFFFFFFFFFFFFFF
  · rw [if_pos h, if_pos ((overflows_iff x y).mp h), h.1]; rfl
  · rw [if_neg h, if_neg (fun h' => h ((overflows_iff x y).mpr h'))]; rfl

theorem remS_eq (x y : Word) : remS x y = if y = 0 then x
    else if x.toInt = -2 ^ 63 ∧ y.toInt = -1 then 0 else BitVec.ofInt 64 (x.toInt.tmod y.toInt) := by
  unfold remS
  simp only [overflows_iff, Int.tmod_def]

theorem divU_eq (x y : Word) :
    divU x y = if y = 0 then BitVec.allOnes 64 else BitVec.ofNat 64 (x.toNat / y.toNat) := rfl

/-! ### The forms of two sources -/

/-- A form of two sources that is carried out by `alu` gives the value that its rule comes to. -/
theorem exec_alu_gives {s : State} {i : Instr} {w : BitVec 3} {d a b : Reg} {l : Nat} {f : Word → Word → Word} {v : Word}
    (hc : Clear s [.a a, .a b]) (hexec : exec i s = alu w d a b l f s)
    (hv : f (s.seen.me.getA a) (s.seen.me.getA b) = v) :
    ∃ t, exec i s = .next t ∧ Registers s t w s.after { a := [d] } ∧ GivesA s t l d v := by
  rw [hexec, ← hv]; exact alu_gives hc

/-- Settles O1: all the forms share their completion and frame (`alu_gives`), and each one's function of its sources is the
arithmetic that its rule states, the divisions with their two corners included. -/
theorem aluResults : Obligations.AluResults := by
  unfold Obligations.AluResults
  refine ⟨fun s w d a b hc => ?_, fun s w d a b hc => ?_⟩
  · exact ⟨exec_alu_gives hc (exec_add ..) (BitVec.add_def ..),
      exec_alu_gives hc (exec_sub ..) (sub_eq_ofInt ..),
      exec_alu_gives hc (exec_and ..) rfl,
      exec_alu_gives hc (exec_or ..) rfl,
      exec_alu_gives hc (exec_xor ..) rfl,
      exec_alu_gives hc (exec_andn ..) rfl,
      exec_alu_gives hc (exec_shl ..) (shiftLeft_eq_mul_pow ..),
      exec_alu_gives hc (exec_shr ..) (ushiftRight_eq_div_pow ..),
      exec_alu_gives hc (exec_sar ..) (sshiftRight_eq_div_pow ..),
      exec_alu_gives hc (exec_rol ..) (rotateLeft_shAmt ..),
      exec_alu_gives hc (exec_slt ..) (boolWord_slt ..),
      exec_alu_gives hc (exec_sltn ..) (boolWord_ult ..),
      exec_alu_gives hc (exec_min ..) (ite_slt_eq_min ..),
      exec_alu_gives hc (exec_max ..) (ite_slt_eq_max ..),
      exec_alu_gives hc (exec_minn ..) (ite_ult_eq_min ..),
      exec_alu_gives hc (exec_maxn ..) (ite_ult_eq_max ..)⟩
  · exact ⟨exec_alu_gives hc (exec_mul ..) (mul_eq_ofInt ..),
      exec_alu_gives hc (exec_mulh ..) rfl,
      exec_alu_gives hc (exec_mulhn ..) rfl,
      exec_alu_gives hc (exec_div ..) (divS_eq ..),
      exec_alu_gives hc (exec_divn ..) (divU_eq ..),
      exec_alu_gives hc (exec_rem ..) (remS_eq ..),
      exec_alu_gives hc (exec_remn ..) rfl⟩

/-! ### Values of the forms of one source (R84) and of `ldk` (R87) -/

theorem clzOf_zero : clzOf 0 = 64 := rfl

/-- Above the highest set bit of a number other than 0 there are `clzOf` places, all clear (R84). -/
theorem clzOf_of_ne_zero {x : Word} (hx : x ≠ 0) :
    clzOf x < 64 ∧ x.getLsbD (63 - clzOf x) = true ∧ ∀ j, 63 - clzOf x < j → x.getLsbD j = false := by
  have hne : x.toNat ≠ 0 := fun h => hx (BitVec.eq_of_toNat_eq h)
  have hlt : x.toNat.log2 < 64 := (Nat.log2_lt hne).mpr x.isLt
  have hclz : clzOf x = 63 - x.toNat.log2 := if_neg hx
  have htop : 63 - clzOf x = x.toNat.log2 := by omega
  rw [htop]
  exact ⟨by omega, Nat.testBit_log2 hne, fun j hj => Nat.testBit_lt_two_pow ((Nat.log2_lt hne).mp hj)⟩

theorem ctzOf_zero : ctzOf 0 = 64 := rfl

/-- The lowest set bit of a number other than 0 stands at place `ctzOf` (R84). -/
theorem ctzOf_of_ne_zero {x : Word} (hx : x ≠ 0) :
    x.getLsbD (ctzOf x) = true ∧ ∀ j, j < ctzOf x → x.getLsbD j = false := by
  unfold ctzOf
  cases hfind : (List.range 64).find? (fun i => x.getLsbD i) with
  | none =>
    rw [List.find?_range_eq_none] at hfind
    exact absurd (BitVec.eq_of_getLsbD_eq fun i hi => by simpa using hfind i hi) hx
  | some n =>
    obtain ⟨hset, -, hlow⟩ := List.find?_range_eq_some.mp hfind
    exact ⟨hset, fun j hj => by simpa using hlow j hj⟩

theorem popcOf_eq (x : Word) : popcOf x = ((List.range 64).filter (fun i => x.getLsbD i)).length := by
  suffices h : ∀ (l : List Nat) (n : Nat),
      l.foldl (fun n i => n + (x.getLsbD i).toNat) n = n + (l.filter (fun i => x.getLsbD i)).length by
    rw [popcOf, h, Nat.zero_add]
  intro l
  induction l with
  | nil => exact fun n => rfl
  | cons i l ih =>
    intro n
    rw [List.foldl_cons, ih]
    cases hbit : x.getLsbD i <;> simp [hbit, Nat.add_assoc, Nat.add_comm]

theorem extWidth_eq_shiftLeft (k : BitVec 5) : extWidth k = 8 <<< k.toNat := (Nat.shiftLeft_eq ..).symm

theorem signExtend_setWidth_extWidth (x : Word) (k : BitVec 5) :
    (x.setWidth (extWidth k)).signExtend 64 = (x.extractLsb' 0 (8 <<< k.toNat)).signExtend 64 := by
  rw [extWidth_eq_shiftLeft]
  congr 1
  exact BitVec.eq_of_toNat_eq (by rw [BitVec.toNat_setWidth, BitVec.extractLsb'_toNat, Nat.shiftRight_zero])

theorem setWidth_setWidth_extWidth (x : Word) (k : BitVec 5) :
    (x.setWidth (extWidth k)).setWidth 64 = BitVec.ofNat 64 (x.toNat % 2 ^ (8 <<< k.toNat)) := by
  rw [extWidth_eq_shiftLeft, ← BitVec.toNat_setWidth, BitVec.ofNat_toNat]

theorem add_signExtend_eq_ofInt (x : Word) (imm : BitVec 12) :
    x + imm.signExtend 64 = BitVec.ofInt 64 (x.toInt + imm.toInt) := by
  rw [BitVec.ofInt_add, BitVec.ofInt_toInt]; rfl

/-- A field of `c` bits put at place `n` reads as its value, and every other bit as before. -/
theorem getLsbD_putBits_field (x y : Word) (c n : Nat) {j : Nat} (hj : j < 64) :
    (putBits x (BitVec.ofNat 64 (2 ^ c - 1) <<< n) (y <<< n)).getLsbD j =
      if n ≤ j ∧ j < n + c then y.getLsbD (j - n) else x.getLsbD j := by
  have hmask : (BitVec.ofNat 64 (2 ^ c - 1) <<< n).getLsbD j = decide (n ≤ j ∧ j < n + c) := by
    rw [BitVec.getLsbD_shiftLeft, BitVec.getLsbD_ofNat, Nat.testBit_two_pow_sub_one, Bool.eq_iff_iff]
    simp only [Bool.and_eq_true, Bool.not_eq_true', decide_eq_true_eq, decide_eq_false_iff_not]
    omega
  rw [getLsbD_putBits, hmask]
  simp only [decide_eq_true_eq]
  split
  · next hin =>
    rw [BitVec.getLsbD_shiftLeft, decide_eq_true hj, decide_eq_false (by omega : ¬j < n)]
    rfl
  · rfl

theorem getLsbD_ldkOf_field (x : Word) {k : BitVec 5} (imm : BitVec 12) (hk : k.toNat < 5) {j : Nat} (hj : j < 64) :
    (ldkOf x k imm).getLsbD j =
      if 12 * k.toNat ≤ j ∧ j < 12 * k.toNat + 12 then imm.getLsbD (j - 12 * k.toNat) else x.getLsbD j := by
  rw [ldkOf, if_pos hk, show 0xFFF#64 = BitVec.ofNat 64 (2 ^ 12 - 1) from rfl, getLsbD_putBits_field _ _ _ _ hj,
    BitVec.getLsbD_setWidth, decide_eq_true (by omega : j - 12 * k.toNat < 64), Bool.true_and]

theorem getLsbD_ldkOf_top (x : Word) {k : BitVec 5} (imm : BitVec 12) (hk : k.toNat = 5) {j : Nat} (hj : j < 64) :
    (ldkOf x k imm).getLsbD j = if 60 ≤ j then imm.getLsbD (j - 60) else x.getLsbD j := by
  rw [ldkOf, if_neg (by omega), show 0xF#64 = BitVec.ofNat 64 (2 ^ 4 - 1) from rfl, getLsbD_putBits_field _ _ _ _ hj,
    BitVec.getLsbD_setWidth, decide_eq_true (by omega : j - 60 < 64), Bool.true_and]
  exact if_congr (and_iff_left (by omega)) rfl rfl

/-! ### The forms of one source -/

/-- A form of one source that is carried out by `alu1` gives the value that its rule comes to. -/
theorem exec_alu1_gives {s : State} {i : Instr} {w : BitVec 3} {d a : Reg} {f : Word → Word} {v : Word}
    (hc : Clear s [.a a]) (hexec : exec i s = alu1 w d a f s) (hv : f (s.seen.me.getA a) = v) :
    ∃ t, exec i s = .next t ∧ Registers s t w s.after { a := [d] } ∧ GivesA s t 1 d v := by
  rw [hexec, ← hv]; exact alu1_gives hc

/-- Settles O2: as O1, with the counts of bits given by the places of the set bits, and `ldk` read back bit by bit. -/
theorem aluImmediateResults : Obligations.AluImmediateResults := by
  unfold Obligations.AluImmediateResults
  intro s w d a k imm sh hc x gives
  refine ⟨⟨clzOf x, exec_alu1_gives hc (exec_clz ..) rfl, fun hx => hx ▸ clzOf_zero, clzOf_of_ne_zero⟩,
    ⟨ctzOf x, exec_alu1_gives hc (exec_ctz ..) rfl, fun hx => hx ▸ ctzOf_zero, ctzOf_of_ne_zero⟩,
    exec_alu1_gives hc (exec_popc ..) (congrArg _ (popcOf_eq x)),
    fun _ => exec_alu1_gives hc (exec_sext ..) (signExtend_setWidth_extWidth ..),
    fun _ => exec_alu1_gives hc (exec_zext ..) (setWidth_setWidth_extWidth ..),
    exec_alu1_gives hc (exec_addi ..) (add_signExtend_eq_ofInt ..),
    exec_alu1_gives hc (exec_andi ..) rfl,
    exec_alu1_gives hc (exec_ori ..) rfl,
    exec_alu1_gives hc (exec_xori ..) rfl,
    exec_alu1_gives hc (exec_shli ..) (shiftLeft_eq_mul_pow ..),
    exec_alu1_gives hc (exec_shri ..) (ushiftRight_eq_div_pow ..),
    exec_alu1_gives hc (exec_sari ..) (sshiftRight_eq_div_pow ..), fun hd hk => ?_, fun hd hk => ?_⟩
  · subst hd
    exact ⟨ldkOf x k imm, exec_alu1_gives hc (exec_ldk ..) rfl, fun j hj => getLsbD_ldkOf_field x imm hk hj⟩
  · subst hd
    exact ⟨ldkOf x k imm, exec_alu1_gives hc (exec_ldk ..) rfl, fun j hj => getLsbD_ldkOf_top x imm hk hj⟩

end Sys2Proof.Machine
end

section
/-! Traps of the hart whose turn it is, at issue and from a body (R35, R102, R103). -/

namespace Sys2Proof.Machine

/-- What an instruction sees and the state it began in agree on all that a trap reads of the hart. -/
theorem Trapped.of_seen {s t : State} {c : Cause} {v p : Word} (h : Trapped s.seen t c v p) : Trapped s t c v p where
  cur := h.cur
  runs := h.runs
  pc := by simpa using h.pc
  cause := h.cause
  value := h.value
  back := h.back
  prior := by simpa [Hart.priv] using h.prior
  mode := h.mode
  tb := h.tb
  lent := h.lent

/-- A cause that the instruction in hand raises before it has changed anything is taken at once where the hart may trap. -/
theorem trapped_raise_seen {s : State} {c : Cause} {v p : Word} {l : Option Lent} {m : Bool} (hm : MayTrap s) :
    Trapped s (s.seen.raise s.seen c v p l m) c v p := by
  have htb : s.seen.me.tb = false := by simpa [Hart.tb] using hm.tb
  rw [State.raise_of_home (show s.seen.slotAway s.seen.cur = false from hm.home)]
  exact (trapped_takeTrap htb).of_seen

/-- A form whose body raises a cause in the state it was given, other than by `svc`, resumes at itself (R104). -/
theorem run_trap_seen {s : State} {i : Info} {c : Cause} {v : Word} {m : Bool} {body : State → Res} (hm : MayTrap s)
    (hcheck : issueCheck i s.seen = none) (hskip : skipped i s.seen.me = false) (hb : body s.seen = .trap s.seen c v m)
    (hsvc : c ≠ .svc) : ∃ t, run i s body = .next t ∧ Trapped s t c v s.me.pc := by
  have hat : (trapAt s.seen.me c).1 = s.me.pc := by simp [trapAt, hsvc]
  refine ⟨_, run_trap hcheck hskip hb, ?_⟩
  rw [hat]
  exact trapped_raise_seen hm

/-- With nothing lent, an operand that the form does not accept is ILLEGAL before any other check but that of its hart (R35). -/
theorem issueCheck_of_ill {s : State} {i : Info} (hl : s.me.lent = none) (hill : i.ill = true)
    (hskip : skipped i s.seen.me = false) :
    issueCheck i s.seen = some { cause := .illegal, tval := s.word.setWidth 64, atPrefix := false } := by
  have hlent : s.seen.me.lent = none := by simpa using hl
  simp only [issueCheck, hlent, hill, hskip, Bool.false_eq_true, if_false, Bool.not_false, Bool.and_self, if_true, ite_self,
    State.word_seen]

theorem run_ill {s : State} {i : Info} {body : State → Res} (hm : MayTrap s) (hl : s.me.lent = none) (hill : i.ill = true)
    (hskip : skipped i s.seen.me = false) :
    ∃ t, run i s body = .next t ∧ Trapped s t .illegal (s.word.setWidth 64) s.me.pc := by
  have hpc : s.seen.me.pc = s.me.pc := by simp
  refine ⟨_, congrArg Host.Outcome.next (issue_trap (issueCheck_of_ill hl hill hskip) rfl), ?_⟩
  rw [hpc]
  exact trapped_raise_seen hm

end Sys2Proof.Machine
end

section
/-! `ssb`, `jal` and `jr` (R88, R89): O4. -/

namespace Sys2Proof.Machine

/-- A form whose body writes one scalar register and goes to an address: its result and its frame. -/
theorem run_setA_goto {s : State} {i : Info} {d : Reg} {x pc : Word} {l : Nat} {body : State → Res}
    (hs : s.me.status ≠ .halted) (hl : s.me.lent = none) (hcheck : issueCheck i s.seen = none)
    (hskip : skipped i s.seen.me = false) (hb : body s.seen = .goto (s.seen.setA d x l) pc) :
    ∃ t, run i s body = .next t ∧ Registers s t i.wt pc { a := [d] } ∧ GivesA s t l d x :=
  ⟨_, run_goto hcheck hskip hb, registers_body (bodyFrame_setA hs hl) blind_id, givesA_setA hs hl⟩

/-- A form whose body goes to an address and changes nothing else. -/
theorem run_goto_seen {s : State} {i : Info} {pc : Word} {body : State → Res}
    (hs : s.me.status ≠ .halted) (hl : s.me.lent = none) (hcheck : issueCheck i s.seen = none)
    (hskip : skipped i s.seen.me = false) (hb : body s.seen = .goto s.seen pc) :
    ∃ t, run i s body = .next t ∧ Registers s t i.wt pc {} := by
  have hsame : s.seen = s.seen.setMe s.seen.me := by simp [State.seen]
  exact ⟨_, run_goto hcheck hskip (hb.trans (by rw [← hsame])), registers_body (bodyFrame_same hs hl) blind_id⟩

/-- The two low bits of an address are clear where it is a multiple of four (R89). -/
theorem extractLsb'_two_eq_zero_iff (x : Word) : x.extractLsb' 0 2 = 0#2 ↔ x.toNat % 4 = 0 := by
  rw [← BitVec.toNat_inj, BitVec.extractLsb'_toNat]
  rfl

theorem exec_ssb_gives {s : State} {w : BitVec 3} {a b : Reg} {off : BitVec 12} {v : Word} (hc : Clear s [.a a, .a b])
    (hv : s.seen.me.getA a - s.seen.me.getA b = v) : ∃ t, exec (.ssb w a b off) s = .next t ∧
      Registers s t w (if 0 < v.toInt then s.me.pc + BitVec.ofInt 64 (4 * off.toInt) else s.after) { a := [a] } ∧
      GivesA s t 1 a v := by
  obtain ⟨hcheck, hskip⟩ := branch_clear (w := w) hc (fun _ hd => hd)
  have hslt : (0#64).slt v = decide (0 < v.toInt) := BitVec.slt_eq_decide
  have hpc : s.seen.me.pc = s.me.pc := by simp
  rw [exec_ssb, execSsb, ← branchTarget_eq _ _ (by decide)]
  by_cases hpos : 0 < v.toInt
  · rw [if_pos hpos]
    exact run_setA_goto hc.live hc.plain hcheck hskip (by simp only [hv, hslt, hpos, hpc, decide_true, if_true])
  · rw [if_neg hpos]
    exact run_setA hc.live hc.plain hcheck hskip
      (by simp only [hv, hslt, hpos, decide_false, Bool.false_eq_true, if_false])

theorem exec_jal_gives {s : State} {w : BitVec 3} {d : Reg} {off : BitVec 17} {srcs : List Dst} (hc : Clear s srcs) :
    ∃ t, exec (.jal w d off) s = .next t ∧ Registers s t w (s.me.pc + BitVec.ofInt 64 (4 * off.toInt)) { a := [d] } ∧
      GivesA s t 1 d s.after := by
  obtain ⟨hcheck, hskip⟩ := branch_clear (w := w) (ds := []) hc (fun _ hd => nomatch hd)
  have hpc : s.seen.me.pc = s.me.pc := by simp
  rw [exec_jal, execJal, ← branchTarget_eq _ _ (by decide)]
  exact run_setA_goto hc.live hc.plain hcheck hskip (by simp only [hpc]; rfl)

theorem exec_jr_aligned {s : State} {w : BitVec 3} {a : Reg} {srcs : List Dst} (hc : Clear s srcs) (ha : .a a ∈ srcs)
    (hx : (s.seen.me.getA a).toNat % 4 = 0) :
    ∃ t, exec (.jr w a) s = .next t ∧ Registers s t w (s.seen.me.getA a) {} := by
  obtain ⟨hcheck, hskip⟩ := branch_clear (w := w) (ds := [.a a]) hc (by simpa using ha)
  have hbits : ¬((s.seen.me.getA a).extractLsb' 0 2 != 0) = true := by
    simpa using (extractLsb'_two_eq_zero_iff _).mpr hx
  exact run_goto_seen hc.live hc.plain hcheck hskip (if_neg hbits)

theorem exec_jr_misaligned {s : State} {w : BitVec 3} {a : Reg} {srcs : List Dst} (hc : Clear s srcs) (ha : .a a ∈ srcs)
    (hm : MayTrap s) (hx : (s.seen.me.getA a).toNat % 4 ≠ 0) :
    ∃ t, exec (.jr w a) s = .next t ∧ Trapped s t .misalign (s.seen.me.getA a) s.me.pc := by
  obtain ⟨hcheck, hskip⟩ := branch_clear (w := w) (ds := [.a a]) hc (by simpa using ha)
  have hbits : ((s.seen.me.getA a).extractLsb' 0 2 != 0) = true := bne_iff_ne.mpr (mt (extractLsb'_two_eq_zero_iff _).mp hx)
  exact run_trap_seen hm hcheck hskip (m := false) (if_pos hbits) (by decide)

/-- Settles O4: `ssb` and `jal` write a register and go on at an address, and `jr` goes to an address or traps. -/
theorem jumpResults : Obligations.JumpResults := by
  unfold Obligations.JumpResults
  intro s w d a b off far hc x v
  exact ⟨exec_ssb_gives hc (sub_eq_ofInt ..), exec_jal_gives hc, exec_jr_aligned hc (by simp),
    fun hx hm => exec_jr_misaligned hc (by simp) hm hx⟩

end Sys2Proof.Machine
end

section
/-! `lanemap` (R23, R101): the map it installs, what stays pending, and O17. -/

namespace Sys2Proof.Machine

/-! ### The value of `lmap` (R23) -/

/-- At most sixteen groups work: their lanes fit the field of `lmap`. -/
theorem groups_le (m : BitVec 16) : ((List.range 16).filter (fun k => m.getLsbD k)).length ≤ 16 :=
  (List.length_filter_le ..).trans_eq List.length_range

theorem toNat_lmapOf (m : BitVec 16) :
    (lmapOf m).toNat = m.toNat + 2 ^ 16 * (4 * ((List.range 16).filter (fun k => m.getLsbD k)).length) := by
  have hgroups := groups_le m
  have hmask := m.isLt
  rw [lmapOf, BitVec.toNat_ofNat, Nat.mod_eq_of_lt (by omega)]

/-- The low sixteen bits of `lmap` are the mask. -/
theorem getLsbD_lmapOf (m : BitVec 16) {k : Nat} (hk : k < 16) : (lmapOf m).getLsbD k = m.getLsbD k := by
  rw [BitVec.getLsbD, toNat_lmapOf, Nat.add_comm, Nat.testBit_two_pow_mul_add _ m.isLt, if_pos hk]
  rfl

/-- Bits `22..16` of `lmap` count four lanes for each working group. -/
theorem lanes_lmapOf (m : BitVec 16) :
    ((lmapOf m).extractLsb' 16 7).toNat = 4 * ((List.range 16).filter (fun k => m.getLsbD k)).length := by
  have hgroups := groups_le m
  have hmask := m.isLt
  rw [BitVec.extractLsb'_toNat, toNat_lmapOf, Nat.shiftRight_eq_div_pow]
  omega

/-! ### Results that stay pending (R30, R101) -/

theorem Hart.put_a_m_congr {h k : Hart} (d : Dst) (l x : BitVec 16384) (ha : h.a = k.a) (hm : h.m = k.m) :
    (h.put d l x).a = (k.put d l x).a ∧ (h.put d l x).m = (k.put d l x).m := by
  unfold Hart.put
  cases d with
  | a r => dsimp only; split <;> simp [ha, hm]
  | v r => exact ⟨ha, hm⟩
  | m r => exact ⟨ha, by simp only [hm]⟩

/-- The result is for no vector register. -/
def Pend.keptByLanemap (p : Pend) : Bool := match p.dst with | .v _ => false | _ => true

/-- Results that are pending for vector registers decide nothing in the scalar and mask registers. -/
theorem settleFrom_filter_kept (t : Nat) (ps : List Pend) {h k : Hart} (js ks : List Pend) (ha : h.a = k.a)
    (hm : h.m = k.m) :
    (settleFrom t (ps.filter Pend.keptByLanemap) h js).a = (settleFrom t ps k ks).a ∧
      (settleFrom t (ps.filter Pend.keptByLanemap) h js).m = (settleFrom t ps k ks).m := by
  induction ps generalizing h k js ks with
  | nil => exact ⟨ha, hm⟩
  | cons p ps ih =>
    cases hkept : p.keptByLanemap with
    | true =>
      rw [List.filter_cons_of_pos hkept, settleFrom, settleFrom]
      split
      · obtain ⟨ha', hm'⟩ := Hart.put_a_m_congr p.dst p.mask p.val ha hm
        exact ih _ _ ha' hm'
      · exact ih _ _ ha hm
    | false =>
      obtain ⟨r, hr⟩ : ∃ r, p.dst = .v r := by
        unfold Pend.keptByLanemap at hkept
        split at hkept
        · exact ⟨_, ‹_›⟩
        · cases hkept
      rw [List.filter_cons_of_neg (by simp [hkept]), settleFrom, hr]
      split
      · exact ih _ _ ha hm
      · exact ih _ _ ha hm

/-! ### The hart after `lanemap` and its frame (R101) -/

/-- The hart with the lane map of a mask and vector registers `vs`. -/
def Hart.remapped (h : Hart) (mask : BitVec 16) (vs : Vector (BitVec 16384) 32) : Hart :=
  { h with
    lmap := lmapOf mask, pend := h.pend.filter Pend.keptByLanemap, hwm := Vector.replicate 32 0, v := vs, vl := 0, live := 0
    vtype := h.vtype ||| 0x8000000000000000 }

/-- A hart without the control registers that `lanemap` writes. -/
def noMap (h : Hart) : Hart := { h with lmap := 0, hwm := Vector.replicate 32 0, vl := 0, live := 0, vtype := 0 }

theorem blind_noMap : Blind noMap := fun _ _ _ _ _ _ _ => rfl

theorem Hart.vbad_remapped (h : Hart) (mask : BitVec 16) (vs : Vector (BitVec 16384) 32) : (h.remapped mask vs).vbad = true := by
  have hbit : (0x8000000000000000 : Word).getLsbD 63 = true := by decide
  simp only [Hart.vbad, Hart.remapped, BitVec.getLsbD_or, hbit, Bool.or_true]

/-- All vector registers. -/
def vectorRegs : List Reg := (List.range 32).map (BitVec.ofNat 5)

theorem mem_vectorRegs (r : Reg) : r ∈ vectorRegs :=
  List.mem_map.mpr ⟨r.toNat, List.mem_range.mpr r.isLt, BitVec.ofNat_toNat .. |>.trans (BitVec.setWidth_eq r)⟩

theorem Hart.settle_remapped (h : Hart) (mask : BitVec 16) (vs : Vector (BitVec 16384) 32) (t : Nat) :
    (∀ r, ((h.remapped mask vs).settle t).getA r = (h.settle t).getA r) ∧
      ∀ r, ((h.remapped mask vs).settle t).getM r = (h.settle t).getM r := by
  obtain ⟨ha, hm⟩ := settleFrom_filter_kept t h.pend (h := h.remapped mask vs) (k := h) [] [] rfl rfl
  refine ⟨fun r => ?_, fun r => ?_⟩
  · simp only [Hart.getA, Hart.settle, ← ha]; rfl
  · simp only [Hart.getM, Hart.settle, ← hm]; rfl

theorem bodyFrame_remapped {s : State} (mask : BitVec 16) (vs : Vector (BitVec 16384) 32) (hs : s.me.status ≠ .halted)
    (hl : s.me.lent = none) : BodyFrame s (s.seen.me.remapped mask vs) { v := vectorRegs } noMap where
  a r _ T hT := ((s.seen.me.settle_remapped mask vs T).1 r).trans (congrArg (Hart.getA · r) (s.sees_seen hT))
  v r hr := absurd (mem_vectorRegs r) hr
  m r _ T hT := ((s.seen.me.settle_remapped mask vs T).2 r).trans (congrArg (Hart.getM · r) (s.sees_seen hT))
  st r _ := by simp [Hart.remapped, Hart.getS]
  rest := by simp [Hart.remapped, Hart.rest, noMap]
  live := by simpa [Hart.remapped] using hs
  lent := by simpa [Hart.remapped] using hl
  now := by simp [Hart.remapped]
  mode := by simp [Hart.remapped, Hart.priv]
  cause := by simp [Hart.remapped]
  value := by simp [Hart.remapped]
  back := by simp [Hart.remapped]

/-! ### Execution -/

/-- Issue of `lanemap`: in mode P on a vector hart, with the mask in force alone (R67, R101). -/
def lanemapInfo (w : BitVec 3) (a : Reg) (s : State) : Info :=
  { scalarInfo w none [.a a] 1 with
    on := .vector, priv := true, ill := (s.me.settle s.me.now).getA a != s.maskInForce.setWidth 64 }

/-- What undefined vector registers hold: the next 32 values of the counter `free` (log entry 9). -/
def State.undefinedVecs (s : State) : Vector (BitVec 16384) 32 :=
  Vector.ofFn (fun i : Fin 32 => Config.freeVec (s.free + i.val))

/-- The state with the mask in force as the lane map, and every vector register undefined (R101). -/
def State.remapped (s : State) : State :=
  ({ s with free := s.free + 32 } : State).setMe (s.me.remapped s.maskInForce s.undefinedVecs)

@[simp] theorem State.me_remapped (s : State) : s.remapped.me = s.me.remapped s.maskInForce s.undefinedVecs :=
  State.me_setMe ..
theorem State.hart_remapped_ne (s : State) {id : Nat} (hid : id ≠ s.cur) : s.remapped.hart id = s.hart id :=
  State.hart_setMe_ne _ _ hid

theorem exec_lanemap_eq_run (w : BitVec 3) (a : Reg) (s : State) :
    exec (.lanemap w a) s = run (lanemapInfo w a s) s (fun s => .done s.remapped) := rfl

theorem skipped_lanemap {s : State} (w : BitVec 3) (a : Reg) (hl : s.me.lent = none) :
    skipped (lanemapInfo w a s) s.seen.me = false := skipped_of_clear (by simpa using hl) (fun _ => rfl)

/-- A value other than the mask in force is ILLEGAL (R101). -/
theorem exec_lanemap_illegal {s : State} {w : BitVec 3} {a : Reg} (hl : s.me.lent = none) (hm : MayTrap s)
    (hmask : s.seen.me.getA a ≠ s.maskInForce.setWidth 64) :
    ∃ t, exec (.lanemap w a) s = .next t ∧ Trapped s t .illegal (s.word.setWidth 64) s.me.pc := by
  have hill : (lanemapInfo w a s).ill = true := by simpa [lanemapInfo] using hmask
  exact run_ill hm hl hill (skipped_lanemap w a hl)

/-- With the mask in force, `lanemap` installs it and completes (R101). -/
theorem exec_lanemap_completes {s : State} {w : BitVec 3} {a : Reg} (hc : Clear s [.a a]) (hpriv : s.me.priv = true)
    (hcur : s.cur % 16 ≠ 8) (hmask : s.seen.me.getA a = s.maskInForce.setWidth 64) :
    ∃ t, exec (.lanemap w a) s = .next t ∧ Completed s t w s.after ∧ SameHart s t { v := vectorRegs } noMap ∧
      t.me.lmap = lmapOf s.maskInForce ∧ t.me.hwm = Vector.replicate 32 0 ∧ t.me.vl = 0 ∧ t.me.vbad = true ∧
      t.mem = s.mem ∧ ∀ id, id ≠ s.cur → t.hart id = s.hart id := by
  have hill : (lanemapInfo w a s).ill = false := by simpa [lanemapInfo] using hmask
  have hcheck : issueCheck (lanemapInfo w a s) s.seen = none :=
    issueCheck_of_clear hc (fun _ hd => hd) (by simp [lanemapInfo, On.holds, isControl, hcur]) (fun h => nomatch h) rfl hill
      (fun _ => hpriv)
  have hframe : BodyFrame s s.seen.remapped.me { v := vectorRegs } noMap := by
    rw [State.me_remapped]
    exact bodyFrame_remapped _ _ hc.live hc.plain
  have hnext : s.seen.remapped.me.pc + 4 = s.after := by simp [Hart.remapped, State.after]
  have hrun := run_done (body := fun s => .done s.remapped) hcheck (skipped_lanemap w a hc.plain) rfl
  rw [hnext] at hrun
  refine ⟨_, hrun, completed_body hframe rfl, sameHart_body hframe blind_noMap, ?_⟩
  rw [Hart.vbad, State.me_retire hframe.lent hframe.live, State.me_remapped]
  refine ⟨rfl, rfl, rfl, Hart.vbad_remapped s.seen.me s.maskInForce s.seen.undefinedVecs, State.mem_retire ..,
    fun id hid => ?_⟩
  have hother : id ≠ s.seen.remapped.cur := hid
  rw [State.hart_retire_ne _ _ _ _ hother, State.hart_remapped_ne s.seen hid, State.hart_seen_ne s hid]

/-- Settles O17: the frame of `lanemap` names the vector registers and the control registers it writes, so that scalar and mask
registers, with what is pending for them, are as they were; the value of `lmap` is read back field by field. -/
theorem lanemapResults : Obligations.LanemapResults := by
  unfold Obligations.LanemapResults
  intro s w a hc hpriv hcur
  refine ⟨fun hmask hm => exec_lanemap_illegal hc.plain hm hmask, fun hmask => ?_⟩
  obtain ⟨t, hrun, hdone, hsame, hlmap, hhwm, hvl, hvbad, hmem, hharts⟩ :=
    exec_lanemap_completes (w := w) hc hpriv hcur hmask
  refine ⟨t, hrun, hdone, fun k hk => ?_, ?_, fun r => ?_, hvl, hvbad, fun r => hsame.a r (by simp),
    fun r => hsame.m r (by simp), hmem, hharts⟩
  · rw [hlmap, getLsbD_lmapOf _ hk]
  · rw [Hart.lanes, hlmap, lanes_lmapOf]
  · rw [hhwm]; simp

end Sys2Proof.Machine
end

section
/-! The mask forms (R116, R117): the bits that each covers and gives, and O19. -/

namespace Sys2Proof.Machine

/-! ### The length and the bits of a mask form (R116) -/

theorem State.maskLen_eq (s : State) : s.maskLen = if s.cur % 16 = 8 then 4096 else s.me.vl.toNat := by
  unfold State.maskLen isControl
  simp only [beq_iff_eq]

@[simp] theorem State.maskLen_seen (s : State) : s.seen.maskLen = s.maskLen := by
  simp [State.maskLen]

/-- `vl` has 13 bits. -/
theorem State.maskLen_le (s : State) : s.maskLen ≤ 16384 := by
  have hvl := s.me.vl.isLt
  rw [State.maskLen_eq]
  split <;> omega

theorem getLsbD_lowBits {n k : Nat} (hn : n ≤ 16384) (hk : k < 4096) : (lowBits n).getLsbD k = decide (k < n) := by
  rw [lowBits, BitVec.getLsbD_setWidth, getLsbD_lowMask hn, decide_eq_true hk, Bool.true_and]

/-- The 64 bits from `64 * q` on are those of word `q`. -/
theorem getLsbD_wordBits {q k : Nat} (hk : k < 4096) : (lowBits 64 <<< (64 * q)).getLsbD k = decide (k / 64 = q) := by
  rw [BitVec.getLsbD_shiftLeft, getLsbD_lowBits (by decide) (by omega), decide_eq_true hk, Bool.true_and,
    ← decide_not, ← Bool.decide_and]
  exact decide_eq_decide.mpr (by omega)

/-- A bit that enters at element 0 is nowhere else. -/
theorem getLsbD_setWidth_ofBool (b : Bool) (k : Nat) :
    ((BitVec.ofBool b).setWidth 4096).getLsbD k = (decide (k = 0) && b) := by
  cases k <;> simp [BitVec.getLsbD_setWidth]

/-- A shift toward higher elements, with a bit entering at element 0 (R117). -/
theorem getLsbD_shiftUp (x : BitVec 4096) (b : Bool) {k : Nat} (hk : k < 4096) :
    ((x <<< 1) ||| (BitVec.ofBool b).setWidth 4096).getLsbD k = if k = 0 then b else x.getLsbD (k - 1) := by
  rw [BitVec.getLsbD_or, BitVec.getLsbD_shiftLeft, getLsbD_setWidth_ofBool, decide_eq_true hk]
  cases k <;> simp

/-- A shift of `n` elements toward lower ones, with a bit entering at element `n - 1` (R117). -/
theorem getLsbD_shiftDown (x : BitVec 4096) (b : Bool) {n k : Nat} (hn : n ≤ 4096) (hk : k < n) :
    (((x &&& lowBits n) >>> 1) ||| ((BitVec.ofBool b).setWidth 4096 <<< (n - 1))).getLsbD k =
      if k + 1 = n then b else x.getLsbD (k + 1) := by
  rw [BitVec.getLsbD_or, BitVec.getLsbD_ushiftRight, BitVec.getLsbD_and, BitVec.getLsbD_shiftLeft,
    getLsbD_setWidth_ofBool, Nat.add_comm 1 k]
  by_cases hlast : k + 1 = n
  · subst hlast
    have hout : (x.getLsbD (k + 1) && (lowBits (k + 1)).getLsbD (k + 1)) = false := by
      by_cases h : k + 1 < 4096
      · rw [getLsbD_lowBits (by omega) h]; simp
      · rw [BitVec.getLsbD_of_ge x _ (by omega), Bool.false_and]
    rw [hout]
    simp [show k < 4096 by omega]
  · rw [getLsbD_lowBits (by omega) (show k + 1 < 4096 by omega)]
    simp [hlast, show k < n - 1 by omega, show k + 1 < n by omega]

/-! ### Issue -/

/-- The registers that a mask form reads for its p field, where it has one. -/
theorem fieldPred_reads {i : Info} : (fieldPred i).toList.map (fun q => Dst.m q.1) = i.pred.elim [] predSrc := by
  unfold fieldPred predSrc
  cases i.pred with
  | none => rfl
  | some p =>
    by_cases hp : p = 0
    · subst hp; rfl
    · dsimp only [Option.elim_some]
      rw [if_pos (bne_iff_ne.mpr hp), if_neg hp]
      rfl

section
variable {s : State} {srcs ds : List Dst} {w : BitVec 3} {p : Option (BitVec 3)} {dest : Dst} {e : EccAt}
  (hc : Clear s srcs) (hv : s.cur % 16 ≠ 8 → s.me.vbad = false) (hsub : ∀ d ∈ ds ++ p.elim [] predSrc, d ∈ srcs)
include hc hv hsub

/-- A mask form issues on both kinds of hart, on a vector hart with a valid type (R116). -/
theorem mask_clear : issueCheck { maskInfo w p dest ds s with ecc := e } s.seen = none ∧
    skipped { maskInfo w p dest ds s with ecc := e } s.seen.me = false := by
  refine ⟨issueCheck_of_clear hc (fun d hd => hsub d ?_) rfl (fun hvec => hv ?_) rfl rfl (fun h => nomatch h),
    skipped_of_clear (by simpa using hc.plain) (fun h => ?_)⟩
  · rw [Info.reads, fieldPred_reads, List.mem_append] at hd
    refine List.mem_append.mpr (hd.symm.imp (fun hd => ?_) id)
    dsimp only [maskInfo] at hd
    split at hd
    · cases hd
    · exact hd
  · simpa [maskInfo, isControl] using hvec
  · cases p <;> cases h

/-- A mask form whose body writes the bits `ok` of a mask register with the bits `f`: its result and its frame. -/
theorem run_mask_setM {d : MReg} {K X : BitVec 4096} {ok f : Nat → Bool} {body : State → Res}
    (hbody : body s.seen = .done (s.seen.setM d K X 2)) (hok : ∀ k, k < 4096 → K.getLsbD k = ok k)
    (hf : ∀ k, k < 4096 → ok k = true → X.getLsbD k = f k) :
    ∃ t, run { maskInfo w p (.m d) ds s with ecc := e } s body = .next t ∧ Registers s t w s.after { m := [d] } ∧
      GivesM s t 2 d (fun k => if ok k then some (f k) else none) := by
  obtain ⟨hcheck, hskip⟩ := mask_clear (w := w) (dest := .m d) (e := e) hc hv hsub
  have hrun := run_done hcheck hskip hbody
  have hnext : (s.seen.setM d K X 2).me.pc + 4 = s.after := by simp [State.setM, Hart.setM, State.after]
  rw [hnext] at hrun
  refine ⟨_, hrun, registers_body (bodyFrame_setM hc.live hc.plain) blind_id, fun T hT k hk => ?_⟩
  refine (givesM_setM hc.live hc.plain T hT k hk).trans ?_
  cases hkey : ok k with
  | true => simp only [hok k hk, hkey, if_true, hf k hk hkey]
  | false => simp only [hok k hk, hkey, Bool.false_eq_true, if_false]

/-- A mask form whose body writes a scalar register: its result and its frame. -/
theorem run_mask_setA {d : Reg} {x : Word} {body : State → Res} (hbody : body s.seen = .done (s.seen.setA d x 2)) :
    ∃ t, run { maskInfo w p (.a d) ds s with ecc := e } s body = .next t ∧ Registers s t w s.after { a := [d] } ∧
      GivesA s t 2 d x := by
  obtain ⟨hcheck, hskip⟩ := mask_clear (w := w) (dest := .a d) (e := e) hc hv hsub
  exact run_setA hc.live hc.plain hcheck hskip hbody

end

/-! ### The forms with a p field -/

/-- The bits that a form with a p field writes: the active ones below its length (R117). -/
theorem getLsbD_activeMask_lowBits {s : State} {p : BitVec 3} {n : Nat} {i : Info} (hl : s.me.lent = none)
    (hp : i.pred = some p) (hn : s.maskLen = n) {k : Nat} (hk : k < 4096) :
    (activeMask i s.seen.me &&& lowBits s.seen.maskLen).getLsbD k = (decide (k < n) && s.active p k) := by
  rw [BitVec.getLsbD_and, activeMask_seen hl hp hk, State.maskLen_seen, getLsbD_lowBits s.maskLen_le hk, hn, Bool.and_comm]

section
variable {s : State} {srcs : List Dst} {w p : BitVec 3} {n : Nat}
  (hc : Clear s srcs) (hv : s.cur % 16 ≠ 8 → s.me.vbad = false) (hn : s.maskLen = n)
include hc hv hn

/-- A form that `maskForm` carries out gives, on the active bits, those of its function of the hart. -/
theorem exec_maskForm_gives {i : Instr} {d : MReg} {ms : List MReg} {f : Hart → BitVec 4096} {g : Nat → Bool}
    (hsub : ∀ r ∈ ms.map Dst.m ++ predSrc p, r ∈ srcs) (hexec : exec i s = maskForm w p d ms f s)
    (hg : ∀ k, k < 4096 → (f s.seen.me).getLsbD k = g k) :
    ∃ t, exec i s = .next t ∧ Registers s t w s.after { m := [d] } ∧
      GivesM s t 2 d (fun k => if decide (k < n) && s.active p k then some (g k) else none) := by
  rw [hexec]
  exact run_mask_setM (p := some p) hc hv hsub rfl (fun _ hk => getLsbD_activeMask_lowBits hc.plain rfl hn hk)
    (fun k hk _ => hg k hk)

/-- `mget` gives the bits of `smiss`, where reading it meets no error (R117, R367). -/
theorem exec_mget_gives {d : MReg} (hsub : ∀ r ∈ predSrc p, r ∈ srcs) (hsound : s.ctlBad [0x40] = false) :
    ∃ t, exec (.mget w d p) s = .next t ∧ Registers s t w s.after { m := [d] } ∧
      GivesM s t 2 d (fun k => if decide (k < n) && s.active p k then some (s.me.smiss.getLsbD k) else none) := by
  have hseen : s.seen.ctlBad [0x40] = false := hsound
  rw [exec_mget]
  exact run_mask_setM (ds := []) (p := some p) hc hv hsub (if_neg (by rw [hseen]; exact Bool.false_ne_true))
    (fun _ hk => getLsbD_activeMask_lowBits hc.plain rfl hn hk) (fun k _ _ => by simp)

end

/-! ### The forms without a p field -/

section
variable {s : State} {srcs : List Dst} {w : BitVec 3} {d a : MReg} {b : Reg} {n : Nat}
  (hc : Clear s srcs) (hv : s.cur % 16 ≠ 8 → s.me.vbad = false) (hn : s.maskLen = n)
include hc hv hn

theorem exec_mshl_gives (hsub : ∀ r ∈ [Dst.m a, .a b], r ∈ srcs) :
    ∃ t, exec (.mshl w d a b) s = .next t ∧ Registers s t w s.after { m := [d] } ∧
      GivesM s t 2 d (fun k => if decide (k < n) then
        some (if k = 0 then (s.seen.me.getA b).getLsbD 0 else (s.seen.me.getM a).getLsbD (k - 1)) else none) := by
  rw [exec_mshl]
  refine run_mask_setM (p := none) hc hv hsub rfl (fun k hk => ?_) (fun k hk _ => getLsbD_shiftUp _ _ hk)
  rw [State.maskLen_seen, getLsbD_lowBits s.maskLen_le hk, hn]

theorem exec_mshr_gives (hsub : ∀ r ∈ [Dst.m a, .a b], r ∈ srcs) (hfits : n ≤ 4096) :
    ∃ t, exec (.mshr w d a b) s = .next t ∧ Registers s t w s.after { m := [d] } ∧
      GivesM s t 2 d (fun k => if decide (k < n) then
        some (if k + 1 = n then (s.seen.me.getA b).getLsbD 0 else (s.seen.me.getM a).getLsbD (k + 1)) else none) := by
  rw [exec_mshr]
  refine run_mask_setM (p := none) hc hv hsub rfl (fun k hk => ?_) (fun k _ hlt => ?_)
  · rw [State.maskLen_seen, getLsbD_lowBits s.maskLen_le hk, hn]
  · rw [State.maskLen_seen, hn]
    exact getLsbD_shiftDown _ _ hfits (of_decide_eq_true hlt)

theorem exec_mput_gives {x : Reg} (hsub : ∀ r ∈ [Dst.a x, .a b], r ∈ srcs) :
    ∃ t, exec (.mput w d x b) s = .next t ∧ Registers s t w s.after { m := [d] } ∧
      GivesM s t 2 d (fun k => if decide (k < n ∧ k / 64 = (s.seen.me.getA b).toNat % 64) then
        some ((s.seen.me.getA x).getLsbD (k % 64)) else none) := by
  rw [exec_mput]
  refine run_mask_setM (p := none) hc hv hsub rfl (fun k hk => ?_) (fun k hk hword => ?_)
  · rw [BitVec.getLsbD_and, State.maskLen_seen, getLsbD_lowBits s.maskLen_le hk, getLsbD_wordBits hk, hn, Bool.decide_and]
  · obtain ⟨_, hq⟩ := of_decide_eq_true hword
    rw [← hq, BitVec.getLsbD_shiftLeft, BitVec.getLsbD_setWidth, show k - 64 * (k / 64) = k % 64 by omega]
    simp [hk, show ¬k < 64 * (k / 64) by omega, show k % 64 < 4096 by omega]

end

/-! ### The forms that give a scalar -/

theorem getLsbD_actives (s : State) (p : BitVec 3) {k : Nat} (hk : k < 4096) : (s.actives p).getLsbD k = s.active p k := by
  rw [State.actives, State.active]
  by_cases h0 : p = 0
  · rw [if_pos h0, BitVec.getLsbD_allOnes, decide_eq_true hk, beq_iff_eq.mpr h0, Bool.true_or]
  · rw [if_neg h0, beq_eq_false_iff_ne.mpr h0, Bool.false_or]

/-- With nothing lent, the active elements are those of the p field (R13, R60). -/
theorem activeMask_eq_actives {s : State} {i : Info} {p : BitVec 3} (hl : s.me.lent = none) (hp : i.pred = some p) :
    activeMask i s.seen.me = s.actives p :=
  BitVec.eq_of_getLsbD_eq (fun _ hk => (activeMask_seen hl hp hk).trans (getLsbD_actives s p hk).symm)

theorem getLsbD_and_actives (s : State) (p : BitVec 3) (x : BitVec 4096) (k : Nat) : (x &&& s.actives p).getLsbD k =
    decide (k < 4096 ∧ s.active p k = true ∧ x.getLsbD k = true) := by
  by_cases hk : k < 4096
  · rw [BitVec.getLsbD_and, getLsbD_actives s p hk, Bool.and_comm]
    simp [hk]
  · rw [BitVec.getLsbD_of_ge _ k (by omega)]
    simp [hk]

/-- The value of `mfirst` for the bits `x` below `n` (R117). -/
def firstWord (x : BitVec 4096) (n : Nat) : Word :=
  match (List.range n).find? (fun k => x.getLsbD k) with
  | some k => BitVec.ofNat 64 k
  | none => 0xFFFFFFFFFFFFFFFF

theorem firstWord_of_lowest {x : BitVec 4096} {n k : Nat} (hk : k < n) (hx : x.getLsbD k = true)
    (hlow : ∀ j, j < k → x.getLsbD j = false) : firstWord x n = BitVec.ofNat 64 k := by
  have hfind : (List.range n).find? (fun k => x.getLsbD k) = some k :=
    List.find?_range_eq_some.mpr ⟨hx, List.mem_range.mpr hk, fun j hj => by simp [hlow j hj]⟩
  simp only [firstWord, hfind]

theorem firstWord_of_none {x : BitVec 4096} {n : Nat} (hx : ∀ j, j < n → x.getLsbD j = false) :
    firstWord x n = BitVec.allOnes 64 := by
  have hfind : (List.range n).find? (fun k => x.getLsbD k) = none :=
    List.find?_eq_none.mpr (fun j hj => by simp [hx j (List.mem_range.mp hj)])
  simp only [firstWord, hfind]
  rfl

section
variable {s : State} {w p : BitVec 3} {d : Reg} {a : MReg} {n : Nat}
  (hc : Clear s ([.m a] ++ predSrc p)) (hv : s.cur % 16 ≠ 8 → s.me.vbad = false) (hn : s.maskLen = n)
include hc hv hn

theorem exec_mpop_gives : ∃ t, exec (.mpop w d a p) s = .next t ∧ Registers s t w s.after { a := [d] } ∧
    GivesA s t 2 d (BitVec.ofNat 64 ((List.range n).filter (fun k => (s.seen.me.getM a &&& s.actives p).getLsbD k)).length) := by
  rw [exec_mpop, ← activeMask_eq_actives (i := maskInfo w (some p) (.a d) [.m a] s) hc.plain rfl, ← hn, ← State.maskLen_seen]
  exact run_mask_setA (p := some p) hc hv (fun _ h => h) rfl

theorem exec_mfirst_gives : ∃ t, exec (.mfirst w d a p) s = .next t ∧ Registers s t w s.after { a := [d] } ∧
    GivesA s t 2 d (firstWord (s.seen.me.getM a &&& s.actives p) n) := by
  rw [exec_mfirst, ← activeMask_eq_actives (i := maskInfo w (some p) (.a d) [.m a] s) hc.plain rfl, ← hn, ← State.maskLen_seen]
  exact run_mask_setA (p := some p) hc hv (fun _ h => h) rfl

end

/-- Settles O19: the forms share their issue and frame (`run_mask_setM`, `run_mask_setA`), and each one's bits are read back
element by element. -/
theorem maskResults : Obligations.MaskResults := by
  unfold Obligations.MaskResults
  refine ⟨fun s w p d a b x r hc hv => ?_, fun s w p d a hc hv => ?_⟩
  · have hn := s.maskLen_eq
    intro n A B X R act gives
    exact ⟨exec_maskForm_gives hc hv hn (by simp +contextual) (exec_mand ..) (fun k _ => BitVec.getLsbD_and),
      exec_maskForm_gives hc hv hn (by simp +contextual) (exec_mor ..) (fun k _ => BitVec.getLsbD_or),
      exec_maskForm_gives hc hv hn (by simp +contextual) (exec_mxor ..) (fun k _ => BitVec.getLsbD_xor),
      exec_maskForm_gives hc hv hn (by simp +contextual) (exec_mandn ..) (fun k hk => by simp [A, B, hk]),
      exec_maskForm_gives hc hv hn (by simp +contextual) (exec_mnot ..) (fun k hk => by simp [A, hk]),
      exec_mget_gives hc hv hn (by simp +contextual),
      exec_maskForm_gives hc hv hn (by simp +contextual) (exec_mset ..)
        (fun k hk => BitVec.getLsbD_allOnes.trans (decide_eq_true hk)),
      exec_maskForm_gives hc hv hn (by simp +contextual) (exec_mclr ..) (fun k _ => BitVec.getLsbD_zero),
      fun _ => exec_mshl_gives hc hv hn (by simp +contextual),
      fun hfits => exec_mshr_gives hc hv hn (by simp +contextual) hfits,
      fun _ => exec_mput_gives hc hv hn (by simp +contextual)⟩
  · have hn := s.maskLen_eq
    intro n counted
    have hbit : ∀ k, (s.seen.me.getM a &&& s.actives p).getLsbD k =
        decide (k < 4096 ∧ s.active p k = true ∧ (s.seen.me.getM a).getLsbD k = true) := getLsbD_and_actives s p _
    have hclear : ∀ k, k < n → ¬counted k → (s.seen.me.getM a &&& s.actives p).getLsbD k = false :=
      fun k hk hnot => (hbit k).trans (decide_eq_false (fun hon => hnot ⟨hk, hon⟩))
    refine ⟨?_, fun k hk hlow => ?_, fun hnone => ?_⟩
    · have hcount : (List.range n).filter (fun k => (s.seen.me.getM a &&& s.actives p).getLsbD k) =
          (List.range n).filter (fun k => decide (counted k)) :=
        List.filter_congr (fun k hk => by simp only [hbit, counted, List.mem_range.mp hk, true_and])
      rw [← hcount]
      exact exec_mpop_gives hc hv hn
    · obtain ⟨hlt, hon⟩ := hk
      rw [← firstWord_of_lowest hlt ((hbit k).trans (decide_eq_true hon))
        (fun j hj => hclear j (hj.trans hlt) (hlow j hj))]
      exact exec_mfirst_gives hc hv hn
    · rw [← firstWord_of_none (fun j hj => hclear j hj (hnone j))]
      exact exec_mfirst_gives hc hv hn

end Sys2Proof.Machine
end
